-- ==== Sys2Proof/Word.lean ====
section
/-! DEFINITION. The word types of the complex: plain bit vectors, the 16 tags of R141, the
36-bit tagged word, and the sparse table that holds every numbered group of things. -/

namespace Sys2Proof

/-- A byte of the host port, of a hopper cell or of an image. -/
abbrev Byte := BitVec 8

/-- The value part of a tagged word (R141), and an instruction operand. -/
abbrev W32 := BitVec 32

/-- A host-port beat, a register, a hopper field (R70, R419). -/
abbrev W64 := BitVec 64

/-- The tags of R141, in the order of their codes 0h to Fh; `rsvC` and `rsvD` are the reserved codes. -/
inductive Tag where
  | int | q31 | q16 | q31s | q16s | f32 | addr | code
  | ret | sample | duty | time | rsvC | rsvD | poison | empty
  deriving DecidableEq, Repr, Inhabited

/-- A 36-bit word: value [31:0] and tag [35:32] (R141). -/
structure TWord where
  tag : Tag
  val : W32
  deriving DecidableEq, Repr, Inhabited

/-- A sparse table: key and value pairs, keys strictly rising, no entry equal to the table's default. -/
abbrev Tab (α : Type) := List (Nat × α)

/-- The wheels 0 to 63 (R18). -/
abbrev WheelId := Fin 64

/-- The mills 0 to 15 (R18). -/
abbrev MillId := Fin 16

end Sys2Proof
end

