-- ==== Sys2Proof/Syntax.lean ====
section
/-! DEFINITION. The commands of the block: one constructor of `Instr` for each row of
spec/opcode_table.json, with the row's operands. A wheel instruction names its wheel and carries the
fields of its opcode and extension words (R175, R179). -/

namespace Sys2Proof

/-- The two hoppers (R414): C for the Control world, S for the Service world. -/
inductive HopId where
  | c | s
  deriving DecidableEq, Repr, Inhabited

/-- A slot of a hopper (R414). -/
abbrev SlotId := Fin 64

/-- The memories with check bits (R328), as the ECC and scrub steps name a word of them. -/
inductive MemSel where
  | spad (w : WheelId) | pinned (w : WheelId) | millpond | spare | retained | backup
  deriving DecidableEq, Repr, Inhabited

/-- A memory field that a power register sets (R339). -/
inductive PwrReg where
  | bank | sp0 | sp1 | pin0 | pin1 | cs
  deriving DecidableEq, Repr, Inhabited

/-- One access of the debug network (R537): a word of the scratchpad or the pinned store of the wheel by MEMACCw, a microword or
a custom dispatch entry of a mill by CSREADm, the fields of RSTINST (R478), WDBGw (R538), CLKMONd (R500) or TRACEm (R541), or the
trace record at RPTR (R540). -/
inductive MemAcc where
  | readSpad (a : BitVec 15) | writeSpad (a : BitVec 15) (x : TWord)
  | readPin (a : BitVec 12) | writePin (a : BitVec 12) (x : BitVec 14)
  | readCs (m : MillId) (a : BitVec 13) | readCdt (m : MillId) (e : BitVec 5)
  | readRstinst | readWdbg | readClkmon (d : Fin 64)
  | readTrace (m : MillId) | writeTrace (m : MillId) (v : W64) | scanTrace (m : MillId)
  deriving DecidableEq, Repr

/-- The header of a race frame (R355); `good` says that both codewords decoded, the CRC matched and VER
is 1h (R356). -/
structure RaceHdr where
  good : Bool
  seq : BitVec 16
  hb : BitVec 8
  hbok : Bool
  role : BitVec 3
  lane : Bool
  track : Bool
  dsel : BitVec 24
  deriving DecidableEq, Repr, Inhabited

/-- The message fields of a CONTROL frame (R360). -/
structure CtlHdr where
  cseq : BitVec 16
  ack : BitVec 16
  deriving DecidableEq, Repr, Inhabited

/-- One record of a DUTY frame (R358). -/
structure DutyRec where
  word : W32
  sail : BitVec 8
  pidx : BitVec 16
  safe : Bool
  deriving DecidableEq, Repr, Inhabited

/-- One record of a STATE frame (R359): `words` are words 12 to 31, then FSTAT, then XOUT. -/
structure StateRec where
  frame : BitVec 9
  valid : Bool
  runcount : BitVec 16
  wakeNs : W64
  words : List TWord
  deriving DecidableEq, Repr, Inhabited

/-- The key that orders intents (R406). -/
structure IntentKey where
  posted : W64
  origin : BitVec 5
  deriving DecidableEq, Repr, Inhabited

/-- The further words of a COPY frame (R376): FF0 to FF3, and the key of each slot's last applied intent. -/
structure CopyExt where
  ff : List TWord
  keys : List (Option IntentKey)
  deriving DecidableEq, Repr, Inhabited

/-- An intent (R391, R406). -/
structure Intent where
  deadline : W64
  posted : W64
  iseq : BitVec 16
  set : BitVec 8
  mag : W32
  origin : BitVec 5
  deriving DecidableEq, Repr, Inhabited

/-- The body of a HELLO message (R360): the digests are compared as values. -/
structure HelloBody where
  capsId : W64
  capsUnits : W64
  groups : BitVec 24
  frameMap : BitVec 384
  microcode : List (W64 × BitVec 384)
  twintake : W64
  serial : W64
  deriving DecidableEq, Repr, Inhabited

/-- The ring time stamp of a TIME frame: ns and fraction in units of 2^-16 ns (R361). -/
structure RingStamp where
  ns : W64
  frac : BitVec 16
  deriving DecidableEq, Repr, Inhabited

/-- The header of a ring frame (R390). -/
structure RingHdr where
  good : Bool
  seq : BitVec 16
  origin : BitVec 5
  hop : BitVec 5
  lane : Bool
  joined : Bool
  deriving DecidableEq, Repr, Inhabited

/-- A codeword of a received block as the receiver's stages leave it (R350, R351, R353). -/
structure CodewordIn where
  ok : Bool
  corrected : Bool
  phase : Bool
  blkcnt : BitVec 7
  deriving DecidableEq, Repr, Inhabited

/-- What the silicon under test shows in SELFTEST steps 6, 7 and 9, and in the bank marches (R528, R534):
`logic`, then the four array results, the position of the first failing wheel, the reload's signature
check, and the two marches with their first failing word. `true` means that the check failed. -/
structure TestResult where
  logic : Bool
  regf : Bool
  spad : Bool
  pin : Bool
  cstore : Bool
  wheelPos : BitVec 4
  reload : Bool
  marchSpare : Bool
  marchBank : Bool
  word : BitVec 18
  micros : W64
  deriving DecidableEq, Repr, Inhabited

/-- A host-port read of `more` + 1 beats (02 R70); `cut`: a raised complex reset begins after so many beats (R72). -/
structure ReadBeats where
  more : Fin 8
  cut : Option (Fin 8)
  deriving DecidableEq, Repr, Inhabited

/-- A host-port write: data and byte enables of each beat (02 R70); `cut` as for a read (R72). -/
structure WriteBeats where
  beats : List (W64 × BitVec 8)
  cut : Option (Fin 8)
  deriving DecidableEq, Repr, Inhabited

/-- The commands of the complex, one constructor for each row of spec/opcode_table.json, in the table's order. -/
inductive Instr where
  -- wheel instructions (06, 07, 08, 09, 10)
  | nop (w : WheelId)
  | wait (w : WheelId)
  | flush (w : WheelId)
  | rtime (w : WheelId)
  | cross (w : WheelId)
  | getmode (w : WheelId)
  | dup (w : WheelId)
  | drop (w : WheelId)
  | swap (w : WheelId)
  | over (w : WheelId)
  | rot (w : WheelId)
  | pick (w : WheelId) (n : BitVec 5)
  | pushi (w : WheelId) (v : BitVec 8)
  | lits (w : WheelId) (t : BitVec 4) (e : BitVec 14)
  | litt (w : WheelId) (t : BitVec 4) (v : W32)
  | ldl (w : WheelId) (i : BitVec 5)
  | stl (w : WheelId) (i : BitVec 5)
  | ldf (w : WheelId) (i : BitVec 6)
  | stf (w : WheelId) (i : BitVec 6)
  | add (w : WheelId)
  | sub (w : WheelId)
  | rsub (w : WheelId)
  | neg (w : WheelId)
  | absW (w : WheelId)
  | minW (w : WheelId)
  | maxW (w : WheelId)
  | mul (w : WheelId)
  | mulh (w : WheelId)
  | div (w : WheelId)
  | mod (w : WheelId)
  | shl (w : WheelId)
  | shr (w : WheelId)
  | sar (w : WheelId)
  | andW (w : WheelId)
  | orW (w : WheelId)
  | xorW (w : WheelId)
  | notW (w : WheelId)
  | cvt (w : WheelId) (c : BitVec 4)
  | clrs (w : WheelId)
  | ld (w : WheelId)
  | st (w : WheelId)
  | ld2 (w : WheelId)
  | st2 (w : WheelId)
  | move (w : WheelId) (steps : Nat)
  | fill (w : WheelId) (steps : Nat)
  | scan (w : WheelId) (steps : Nat)
  | dot (w : WheelId) (steps : Nat)
  | jmp (w : WheelId) (ofs : BitVec 8)
  | jmpl (w : WheelId) (ofs : BitVec 18)
  | jmpi (w : WheelId)
  | call (w : WheelId) (ofs : BitVec 8)
  | calll (w : WheelId) (ofs : BitVec 18)
  | calli (w : WheelId)
  | cadr (w : WheelId) (ofs : BitVec 18)
  | beq (w : WheelId) (ofs : BitVec 8)
  | bne (w : WheelId) (ofs : BitVec 8)
  | blt (w : WheelId) (ofs : BitVec 8)
  | bge (w : WheelId) (ofs : BitVec 8)
  | beqz (w : WheelId) (ofs : BitVec 8)
  | bnez (w : WheelId) (ofs : BitVec 8)
  | bltz (w : WheelId) (ofs : BitVec 8)
  | bgez (w : WheelId) (ofs : BitVec 8)
  | bccl (w : WheelId) (kind : BitVec 3) (ofs : BitVec 18)
  | btag (w : WheelId) (t : BitVec 4) (ofs : BitVec 7)
  | bntag (w : WheelId) (t : BitVec 4) (ofs : BitVec 7)
  | enter (w : WheelId) (n : BitVec 6)
  | returnW (w : WheelId) (r : BitVec 3)
  | sail (w : WheelId) (k : BitVec 2)
  | tell (w : WheelId) (n : BitVec 8)
  | scale (w : WheelId) (i : BitVec 6)
  | scaleu (w : WheelId) (i : BitVec 6)
  | clamp (w : WheelId) (i : BitVec 6)
  | mkduty (w : WheelId) (i : BitVec 6)
  | piq (w : WheelId) (b : BitVec 3)
  | pidq (w : WheelId) (b : BitVec 3)
  | slew (w : WheelId) (i : BitVec 6)
  | rpt (w : WheelId) (n : BitVec 6)
  | rptIterationEnd (w : WheelId)
  | setmode (w : WheelId)
  | modeChangeEffect (w : WheelId)
  | mkaddr (w : WheelId)
  | setdesc (w : WheelId)
  | getdesc (w : WheelId)
  | rget (w : WheelId)
  | rput (w : WheelId)
  | pstore (w : WheelId)
  | rte (w : WheelId)
  | fcall (w : WheelId)
  | fret (w : WheelId)
  | customOpcode (w : WheelId) (opf : BitVec 11)
  | undefinedOpcode (w : WheelId) (word : BitVec 14)
  | exceptionEntry (w : WheelId)
  -- loops, boundaries and deadlines (02, 03)
  | leatWord (n : Fin 256) (d : W32)
  | wake (w : WheelId) (e : Fin 16)
  | periodBoundary (t : Fin 8) (idx : BitVec 16)
  | modePairFlip (w : WheelId) (slot : Fin 16)
  | deadlineExpiry (w : WheelId) (pend : Option (Fin 16)) (count : W32)
  | hopperFrameWrite (w : WheelId)
  | fetchLineReturn (w : WheelId)
  -- memory ports (11, 03)
  | millpondGrant (bank : Fin 16)
  | millpondLoadReturn (w : WheelId)
  | storeBufferDrain (w : WheelId)
  | hostAccessResponse (w : Option WheelId) (accept : Bool) (d0 d1 : W32)
  | tailraceServe
  | tellAccept (w : WheelId)
  | eccWriteback (m : MemSel) (a : BitVec 22)
  | poisonRewrite (m : MemSel) (a : BitVec 22)
  | scrubVisit (m : MemSel)
  | stealService (w : WheelId)
  -- host port and registers (02, 01, 03, 11)
  | hostPortRead (addr : BitVec 26) (req : ReadBeats)
  | hostPortWrite (addr : BitVec 26) (req : WriteBeats)
  | ringtimeRead
  | millcfgWrite (v : W64) (be : BitVec 8)
  | millctlWrite (m : MillId) (v : W64) (be : BitVec 8)
  | millClockLock (m : MillId)
  | sailsafeWrite (n : Fin 192) (v : W64) (be : BitVec 8)
  | sailcfgCntclr (n : Fin 192)
  | leatcfgCntclr (n : Fin 256)
  | memerrCntclr
  | mempwrstCntclr
  | memPowerWrite (r : PwrReg) (v : W64) (be : BitVec 8)
  | memPowerTransitionDone
  | substitute (bank : BitVec 4)
  | restore
  | spareAbort
  | spareCopyDone
  -- twin pair (12)
  | twincfgWrite (v : W64) (be : BitVec 8)
  | lanectlWrite (k : Fin 4) (en : Bool)
  | laneRetrain (k : Fin 4)
  | lanectlCntclr (k : Fin 4)
  | retrainEnd (k : Fin 4)
  | laneRxlockChange (k : Fin 4) (level : Bool)
  | laneBlockReceive (k : Fin 4) (pos : BitVec 7) (first : BitVec 128) (words : List (BitVec 128))
  | dutyFrame (k : Bool) (h : RaceHdr) (recs : List DutyRec)
  | stateFrame (k : Bool) (h : RaceHdr) (r0 r1 : StateRec)
  | timeFrame (k : Bool) (h : RaceHdr) (t1 t2 t3 t4 : RingStamp)
  | copyFrame (k : Bool) (h : RaceHdr) (r : StateRec) (x : CopyExt)
  | idleFrame (k : Bool) (h : RaceHdr)
  | hello (k : Bool) (h : RaceHdr) (c : CtlHdr) (b : HelloBody)
  | join (k : Bool) (h : RaceHdr) (c : CtlHdr) (drives : BitVec 24)
  | copydone (k : Bool) (h : RaceHdr) (c : CtlHdr) (n : Nat)
  | handover (k : Bool) (h : RaceHdr) (c : CtlHdr) (groups : BitVec 24) (idx : List (BitVec 16))
  | divcheck (k : Bool) (h : RaceHdr) (c : CtlHdr) (frame : BitVec 9) (sail : BitVec 8) (period : BitVec 16)
  | divresult (k : Bool) (h : RaceHdr) (c : CtlHdr) (bits : BitVec 6)
  | leave (k : Bool) (h : RaceHdr) (c : CtlHdr) (groups : BitVec 24)
  | ackonly (k : Bool) (h : RaceHdr) (c : CtlHdr)
  | intentcopy (k : Bool) (h : RaceHdr) (c : CtlHdr) (intents : List Intent)
  | controlRepeat
  | controlTimeout
  | divresultTimeout
  | timeFrameSend
  | heartbeatEmit
  | heartbeatMissed
  | mirrorStateCapture (w : WheelId) (slot : Fin 16)
  | mirrorStateApply (w : WheelId) (slot : Fin 16)
  -- intent ring (13)
  | ringIntentFrame (k : Bool) (h : RingHdr) (i : Intent)
  | ringPublishFrame (k : Bool) (h : RingHdr) (ptime : W64) (pseq : BitVec 8) (vals : List (BitVec 16)) (fails : BitVec 4)
  | ringTimeFrame (k : Bool) (h : RingHdr) (t1 t2 t3 t4 : RingStamp)
  | ringMemberFrame (k : Bool) (h : RingHdr) (capsId : W64) (tkok up2 up3 : Bool) (tkeeper tkhops : BitVec 5) (mseq : BitVec 8) (present : W32)
  | ringIdleFrame (k : Bool) (h : RingHdr)
  | publishEmit
  | publicationLost (i : Fin 32)
  | memberFrameSend
  | memberPresenceExpiry (i : Fin 32)
  | ringTimeFrameSend
  -- hopper commands (14)
  | ping (h : HopId) (slot : SlotId)
  | queryCaps (h : HopId) (slot : SlotId)
  | loadImage (h : HopId) (slot : SlotId)
  | loadMicrocode (h : HopId) (slot : SlotId)
  | verify (h : HopId) (slot : SlotId)
  | loopDefine (h : HopId) (slot : SlotId)
  | loopStart (h : HopId) (slot : SlotId)
  | loopStop (h : HopId) (slot : SlotId)
  | loopParamSet (h : HopId) (slot : SlotId)
  | loopParamGet (h : HopId) (slot : SlotId)
  | loopMigrate (h : HopId) (slot : SlotId)
  | twinJoin (h : HopId) (slot : SlotId)
  | twinLeave (h : HopId) (slot : SlotId)
  | twinStatus (h : HopId) (slot : SlotId)
  | ringJoin (h : HopId) (slot : SlotId)
  | intentPost (h : HopId) (slot : SlotId)
  | selftest (h : HopId) (slot : SlotId) (r : TestResult)
  | calibrateWeir (h : HopId) (slot : SlotId)
  | weirDacSettled (w : Fin 96)
  | readbackRetry
  | resetMill (h : HopId) (slot : SlotId)
  | resetWheel (h : HopId) (slot : SlotId)
  | logRead (h : HopId) (slot : SlotId)
  | sensorRead (h : HopId) (slot : SlotId)
  | abort (h : HopId) (slot : SlotId)
  | hopperDoorbell (h : HopId) (slot : SlotId)
  | hopperRelease (h : HopId) (slot : SlotId)
  | hopperSlotCleared (h : HopId) (slot : SlotId)
  | hopperPacketStart (h : HopId)
  | hopperCommandTimeout (h : HopId) (slot : SlotId)
  | hopperFallback (h : HopId)
  -- feedback, weirs and sluices (15)
  | feedbackCountEdge (n : Fin 8) (aRise aLevel bRise bLevel : Bool) (interval : BitVec 24)
  | feedbackIndexEdge (n : Fin 8)
  | feedbackStillTimeout (n : Fin 8)
  | fbcfgWrite (n : Fin 8) (reg : Fin 3) (v : W64) (be : BitVec 8)
  | fbstCntclr (n : Fin 8)
  | emucfgWrite (n : Fin 8) (v : W64) (be : BitVec 8)
  | emuOutputStep (n : Fin 8)
  | weircfgWrite (w : Fin 96) (v : W64) (be : BitVec 8)
  | weirClear (w : Fin 96)
  | weirstCntclr (w : Fin 96)
  | weirLatchChange (w : Fin 96) (level : Bool) (persists : Bool)
  | setarm (g : Fin 24)
  | disarm (g : Fin 24)
  | rearm (g : Fin 24)
  | sluiceCntclr (g : Fin 24)
  | sluiceTrip (g : Fin 24)
  -- reset and clocks (16)
  | powerOnReset
  | brownOut
  | pinReset (samples : Nat)
  | wdcfgWrite (v : W64) (be : BitVec 8)
  | wdkick
  | watchdogPrewarning
  | watchdogTimeout
  | rstreq (v : BitVec 10)
  | rstinstGo (v : BitVec 11)
  | stormclr
  | resetAssertion
  | wheelMillReset
  | domainRelease (d : Fin 64)
  | resetComplete
  | fuseSenseDone
  | holdTimerExpiry
  | drvrel
  | clockMonitorStable (d : Fin 65) (mhz : BitVec 16)
  | clockMonitorFault (d : Fin 65) (mhz : BitVec 16)
  | clkmonCntclr (d : Fin 64)
  | pstoreOutcomeRecord (m : MillId) (switched : Bool)
  -- the Miller (17)
  | sensorSample (cls : Fin 2) (idx : Fin 8) (v : BitVec 16)
  | logMirrorWrite
  | logRebuild
  | millerAutoboot (bytes : List Byte)
  | spareReapply
  | enterRetention
  | readMillRecords
  | readBootRecord
  | setBootRecord
  | readBootDigest
  | forgetSpareSubstitution
  | readProgramRecords
  | supplyRemoval
  -- debug (18)
  | haltreq (w : WheelId)
  | debugHalt (w : WheelId)
  | dbgStep (w : WheelId)
  | dbgResume (w : WheelId)
  | memaccAccess (w : WheelId) (a : MemAcc)
  | testLogicReset
  -- further ends and bounds (16, 12, 14, 17)
  | resetSourceDeassert (src : Fin 3)
  | frameSlotFill (k : Fin 4)
  | drainBoundExpiry (w : Option WheelId) (h : HopId) (slot : SlotId)
  | twinJoinStepTimeout
  | ringJoinTimeout
  | bootRecordAttemptTimeout
  | mailboxUndefinedOp (op : BitVec 8)
  | lossOfVps
  | supplyRestore
  deriving DecidableEq, Repr

end Sys2Proof
end

