-- ==== Sys2Proof/Decode.lean ====
section
/-! DEFINITION. The opcode words of the wheel instructions (R175, R179): what an opcode word is, the encoder,
and the decoder of an instruction's words. The block's commands have no words of their own: no row of the
table gives any bits, so that `decodeTableWord` names no command. -/

namespace Sys2Proof

/-- The command that a table word spells: no row has bits. -/
def decodeTableWord (_nbits _w : Nat) : Option Instr := none

/-- The low 14 bits of a number, as an instruction word. -/
def iw (n : Nat) : BitVec 14 := BitVec.ofNat 14 n

/-- The number of words of the instruction whose opcode word is `n`, from the opcode word alone (R175); none
where R179 leaves the word undefined. -/
def opLen (n : Nat) : Option Nat :=
  if n < 0x100 then
    if (0x01 ≤ n ∧ n ≤ 0x06) ∨ (0x10 ≤ n ∧ n ≤ 0x14) ∨ (0x20 ≤ n ∧ n ≤ 0x26) ∨ (0x30 ≤ n ∧ n ≤ 0x33) ∨
       (0x40 ≤ n ∧ n ≤ 0x42) ∨ (0x48 ≤ n ∧ n ≤ 0x4B) ∨ (0x50 ≤ n ∧ n ≤ 0x63) ∨ (0x70 ≤ n ∧ n ≤ 0x71) ∨
       (0x80 ≤ n ∧ n ≤ 0x83) ∨ (0xF0 ≤ n ∧ n ≤ 0xF9) then some 1 else none
  else if n < 0x32C then some 1
  else if n < 0x400 then none
  else if n < 0x700 then some 1
  else if n < 0x800 then none
  else if n < 0x1110 then some 1
  else if n < 0x1140 then none
  else if n < 0x11C0 then some 1
  else if n < 0x2000 then none
  else if n < 0x3000 then some 1
  else if n < 0x3100 then some 3
  else if n < 0x3110 then some 2
  else if n < 0x3200 then none
  else if n < 0x32B0 then some 2
  else if n < 0x3800 then none
  else some 1

/-- The opcode and extension words of a long transfer (format XL). -/
def xlWords (kind : Nat) (ofs : BitVec 18) : List (BitVec 14) :=
  [iw (0x3200 + kind * 16 + ofs.toNat / 0x4000), iw (ofs.toNat % 0x4000)]

/-- The words of a wheel instruction; none for the commands that are no instruction. -/
def encode : Instr → Option (List (BitVec 14))
  | .nop _ => some [iw 0x01]
  | .wait _ => some [iw 0x02]
  | .flush _ => some [iw 0x03]
  | .rtime _ => some [iw 0x04]
  | .cross _ => some [iw 0x05]
  | .getmode _ => some [iw 0x06]
  | .dup _ => some [iw 0x10]
  | .drop _ => some [iw 0x11]
  | .swap _ => some [iw 0x12]
  | .over _ => some [iw 0x13]
  | .rot _ => some [iw 0x14]
  | .add _ => some [iw 0x20]
  | .sub _ => some [iw 0x21]
  | .rsub _ => some [iw 0x22]
  | .neg _ => some [iw 0x23]
  | .absW _ => some [iw 0x24]
  | .minW _ => some [iw 0x25]
  | .maxW _ => some [iw 0x26]
  | .mul _ => some [iw 0x30]
  | .mulh _ => some [iw 0x31]
  | .div _ => some [iw 0x32]
  | .mod _ => some [iw 0x33]
  | .shl _ => some [iw 0x40]
  | .shr _ => some [iw 0x41]
  | .sar _ => some [iw 0x42]
  | .andW _ => some [iw 0x48]
  | .orW _ => some [iw 0x49]
  | .xorW _ => some [iw 0x4A]
  | .notW _ => some [iw 0x4B]
  | .cvt _ c => some [iw (0x50 + c.toNat)]
  | .clrs _ => some [iw 0x5F]
  | .ld _ => some [iw 0x60]
  | .st _ => some [iw 0x61]
  | .ld2 _ => some [iw 0x62]
  | .st2 _ => some [iw 0x63]
  | .calli _ => some [iw 0x70]
  | .jmpi _ => some [iw 0x71]
  | .move _ _ => some [iw 0x80]
  | .fill _ _ => some [iw 0x81]
  | .scan _ _ => some [iw 0x82]
  | .dot _ _ => some [iw 0x83]
  | .rte _ => some [iw 0xF0]
  | .setmode _ => some [iw 0xF1]
  | .mkaddr _ => some [iw 0xF2]
  | .setdesc _ => some [iw 0xF3]
  | .getdesc _ => some [iw 0xF4]
  | .rget _ => some [iw 0xF5]
  | .rput _ => some [iw 0xF6]
  | .pstore _ => some [iw 0xF7]
  | .fcall _ => some [iw 0xF8]
  | .fret _ => some [iw 0xF9]
  | .pushi _ v => some [iw (0x100 + v.toNat)]
  | .ldl _ i => some [iw (0x200 + i.toNat)]
  | .stl _ i => some [iw (0x220 + i.toNat)]
  | .ldf _ i => some [iw (0x240 + i.toNat)]
  | .stf _ i => some [iw (0x280 + i.toNat)]
  | .enter _ n => some [iw (0x2C0 + n.toNat)]
  | .pick _ n => some [iw (0x300 + n.toNat)]
  | .returnW _ r => some [iw (0x320 + r.toNat)]
  | .sail _ k => some [iw (0x328 + k.toNat)]
  | .jmp _ o => some [iw (0x400 + o.toNat)]
  | .call _ o => some [iw (0x500 + o.toNat)]
  | .tell _ n => some [iw (0x600 + n.toNat)]
  | .beq _ o => some [iw (0x800 + o.toNat)]
  | .bne _ o => some [iw (0x900 + o.toNat)]
  | .blt _ o => some [iw (0xA00 + o.toNat)]
  | .bge _ o => some [iw (0xB00 + o.toNat)]
  | .beqz _ o => some [iw (0xC00 + o.toNat)]
  | .bnez _ o => some [iw (0xD00 + o.toNat)]
  | .bltz _ o => some [iw (0xE00 + o.toNat)]
  | .bgez _ o => some [iw (0xF00 + o.toNat)]
  | .scale _ i => some [iw (0x1000 + i.toNat)]
  | .scaleu _ i => some [iw (0x1040 + i.toNat)]
  | .clamp _ i => some [iw (0x1080 + i.toNat)]
  | .mkduty _ i => some [iw (0x10C0 + i.toNat)]
  | .piq _ b => some [iw (0x1100 + b.toNat)]
  | .pidq _ b => some [iw (0x1108 + b.toNat)]
  | .slew _ i => some [iw (0x1140 + i.toNat)]
  | .rpt _ n => some [iw (0x1180 + n.toNat)]
  | .btag _ t o => some [iw (0x2000 + t.toNat * 128 + o.toNat)]
  | .bntag _ t o => some [iw (0x2800 + t.toNat * 128 + o.toNat)]
  | .litt _ t v => some [iw (0x3000 + t.toNat * 16 + v.toNat / 0x10000000), iw (v.toNat / 0x4000 % 0x4000), iw (v.toNat % 0x4000)]
  | .lits _ t e => some [iw (0x3100 + t.toNat), e]
  | .bccl _ k o => some (xlWords k.toNat o)
  | .jmpl _ o => some (xlWords 8 o)
  | .calll _ o => some (xlWords 9 o)
  | .cadr _ o => some (xlWords 10 o)
  | .customOpcode _ f => some [iw (0x3800 + f.toNat)]
  | .undefinedOpcode _ x => some [x]
  | _ => none

/-- The instructions of one word below 0100h. -/
def decodeZ (w : WheelId) (steps n : Nat) : Option Instr :=
  match n with
  | 0x01 => some (.nop w) | 0x02 => some (.wait w) | 0x03 => some (.flush w)
  | 0x04 => some (.rtime w) | 0x05 => some (.cross w) | 0x06 => some (.getmode w)
  | 0x10 => some (.dup w) | 0x11 => some (.drop w) | 0x12 => some (.swap w)
  | 0x13 => some (.over w) | 0x14 => some (.rot w)
  | 0x20 => some (.add w) | 0x21 => some (.sub w) | 0x22 => some (.rsub w) | 0x23 => some (.neg w)
  | 0x24 => some (.absW w) | 0x25 => some (.minW w) | 0x26 => some (.maxW w)
  | 0x30 => some (.mul w) | 0x31 => some (.mulh w) | 0x32 => some (.div w) | 0x33 => some (.mod w)
  | 0x40 => some (.shl w) | 0x41 => some (.shr w) | 0x42 => some (.sar w)
  | 0x48 => some (.andW w) | 0x49 => some (.orW w) | 0x4A => some (.xorW w) | 0x4B => some (.notW w)
  | 0x5F => some (.clrs w)
  | 0x60 => some (.ld w) | 0x61 => some (.st w) | 0x62 => some (.ld2 w) | 0x63 => some (.st2 w)
  | 0x70 => some (.calli w) | 0x71 => some (.jmpi w)
  | 0x80 => some (.move w steps) | 0x81 => some (.fill w steps)
  | 0x82 => some (.scan w steps) | 0x83 => some (.dot w steps)
  | 0xF0 => some (.rte w) | 0xF1 => some (.setmode w) | 0xF2 => some (.mkaddr w) | 0xF3 => some (.setdesc w)
  | 0xF4 => some (.getdesc w) | 0xF5 => some (.rget w) | 0xF6 => some (.rput w) | 0xF7 => some (.pstore w)
  | 0xF8 => some (.fcall w) | 0xF9 => some (.fret w)
  | _ => if 0x50 ≤ n ∧ n < 0x5F then some (.cvt w (BitVec.ofNat 4 (n - 0x50))) else none

/-- The instructions of one word with a field, 0100h to 07FFh. -/
def decodeF (w : WheelId) (n : Nat) : Option Instr :=
  if n < 0x200 then some (.pushi w (BitVec.ofNat 8 n))
  else if n < 0x220 then some (.ldl w (BitVec.ofNat 5 n))
  else if n < 0x240 then some (.stl w (BitVec.ofNat 5 n))
  else if n < 0x280 then some (.ldf w (BitVec.ofNat 6 n))
  else if n < 0x2C0 then some (.stf w (BitVec.ofNat 6 n))
  else if n < 0x300 then some (.enter w (BitVec.ofNat 6 n))
  else if n < 0x320 then some (.pick w (BitVec.ofNat 5 n))
  else if n < 0x328 then some (.returnW w (BitVec.ofNat 3 n))
  else if n < 0x32C then some (.sail w (BitVec.ofNat 2 n))
  else if n < 0x400 then none
  else if n < 0x500 then some (.jmp w (BitVec.ofNat 8 n))
  else if n < 0x600 then some (.call w (BitVec.ofNat 8 n))
  else if n < 0x700 then some (.tell w (BitVec.ofNat 8 n))
  else none

/-- The short compare-and-branch instructions (format B8). -/
def decodeB (w : WheelId) (n : Nat) : Option Instr :=
  let o := BitVec.ofNat 8 n
  match n / 256 % 8 with
  | 0 => some (.beq w o) | 1 => some (.bne w o) | 2 => some (.blt w o) | 3 => some (.bge w o)
  | 4 => some (.beqz w o) | 5 => some (.bnez w o) | 6 => some (.bltz w o) | _ => some (.bgez w o)

/-- The loop primitives, RPT and the tag tests, 1000h to 2FFFh. -/
def decodeP (w : WheelId) (n : Nat) : Option Instr :=
  if n < 0x1040 then some (.scale w (BitVec.ofNat 6 n))
  else if n < 0x1080 then some (.scaleu w (BitVec.ofNat 6 n))
  else if n < 0x10C0 then some (.clamp w (BitVec.ofNat 6 n))
  else if n < 0x1100 then some (.mkduty w (BitVec.ofNat 6 n))
  else if n < 0x1108 then some (.piq w (BitVec.ofNat 3 n))
  else if n < 0x1110 then some (.pidq w (BitVec.ofNat 3 n))
  else if n < 0x1140 then none
  else if n < 0x1180 then some (.slew w (BitVec.ofNat 6 n))
  else if n < 0x11C0 then some (.rpt w (BitVec.ofNat 6 n))
  else if n < 0x2000 then none
  else if n < 0x2800 then some (.btag w (BitVec.ofNat 4 (n / 128)) (BitVec.ofNat 7 n))
  else some (.bntag w (BitVec.ofNat 4 (n / 128)) (BitVec.ofNat 7 n))

/-- The long transfers (format XL); `e` is the extension word. -/
def decodeX (w : WheelId) (n e : Nat) : Option Instr :=
  let o := BitVec.ofNat 18 (n % 16 * 0x4000 + e)
  let k := n / 16 % 16
  if k < 8 then some (.bccl w (BitVec.ofNat 3 k) o)
  else if k = 8 then some (.jmpl w o)
  else if k = 9 then some (.calll w o)
  else if k = 10 then some (.cadr w o)
  else none

/-- The instruction of wheel `w` whose words are `ws`; a block instruction runs `steps` steps. An opcode word
that R179 leaves undefined is itself the event of exception 1; none where an extension word is missing. -/
def decode (w : WheelId) (steps : Nat) (ws : List (BitVec 14)) : Option Instr :=
  match ws with
  | [] => none
  | x :: ext =>
    let n := x.toNat
    match opLen n with
    | none => some (.undefinedOpcode w x)
    | some _ =>
      if n < 0x100 then decodeZ w steps n
      else if n < 0x800 then decodeF w n
      else if n < 0x1000 then decodeB w n
      else if n < 0x3000 then decodeP w n
      else if n < 0x3100 then
        match ext with
        | a :: b :: _ => some (.litt w (BitVec.ofNat 4 (n / 16))
            (BitVec.ofNat 32 (n % 16 * 0x10000000 + a.toNat * 0x4000 + b.toNat)))
        | _ => none
      else if n < 0x3110 then
        match ext with
        | a :: _ => some (.lits w (BitVec.ofNat 4 n) a)
        | _ => none
      else if n < 0x3800 then
        match ext with
        | a :: _ => decodeX w n a.toNat
        | _ => none
      else some (.customOpcode w (BitVec.ofNat 11 n))

end Sys2Proof
end

