-- ==== Sys2Proof/Machine/Float.lean ====
section
/-! DEFINITION. F32: IEEE 754 binary32 arithmetic under the choices of R198. Finite numbers are computed
exactly as an integer times a power of two and rounded once, to nearest with ties to even. -/

namespace Sys2Proof.Machine

/-- A binary32 value taken apart: finite numbers are `m * 2 ^ e` with a sign. -/
inductive FVal where
  | nan
  | inf (neg : Bool)
  | fin (neg : Bool) (m : Nat) (e : Int)
  deriving DecidableEq, Repr

def fSign (x : W32) : Bool := x.getLsbD 31
def fExp (x : W32) : Nat := x.toNat / 0x800000 % 256
def fMan (x : W32) : Nat := x.toNat % 0x800000

def fVal (x : W32) : FVal :=
  if fExp x = 255 then (if fMan x = 0 then .inf (fSign x) else .nan)
  else if fExp x = 0 then .fin (fSign x) (fMan x) (-149)
  else .fin (fSign x) (fMan x + 0x800000) ((fExp x : Int) - 150)

def isNan (x : W32) : Bool := fVal x == .nan

/-- A NaN operand as a result: its quiet bit set (R198). -/
def quiet (x : W32) : W32 := x ||| 0x400000

/-- The result of an invalid operation (R198). -/
def defaultNan : W32 := 0x7FC00000

def fBits (neg : Bool) (n : Nat) : W32 := BitVec.ofNat 32 (n % 0x80000000 + (if neg then 0x80000000 else 0))
def fInf (neg : Bool) : W32 := fBits neg 0x7F800000

/-- `n / 2 ^ k` rounded to nearest, ties to even. -/
def rneShift (n k : Nat) : Nat :=
  let q := n / 2 ^ k
  let r := n % 2 ^ k
  if 2 * r > 2 ^ k ∨ (2 * r = 2 ^ k ∧ q % 2 = 1) then q + 1 else q

/-- `m * 2 ^ e` rounded to binary32. -/
def roundF (neg : Bool) (m : Nat) (e : Int) : W32 :=
  if m = 0 then fBits neg 0
  else
    let q : Int := max ((Nat.log2 m : Int) + e - 23) (-149)
    let n := if e ≥ q then m * 2 ^ (e - q).toNat else rneShift m (q - e).toNat
    let p : Nat × Int := if n = 0x1000000 then (0x800000, q + 1) else (n, q)
    if p.1 < 0x800000 then fBits neg p.1
    else
      let b := p.2 + 150
      if b ≥ 255 then fInf neg else fBits neg (b.toNat * 0x800000 + (p.1 - 0x800000))

def sgn (neg : Bool) (m : Nat) : Int := if neg then -(m : Int) else (m : Int)

/-- The NaN result of a two-operand operation with a NaN: the one nearest TOS, quiet; `b` is TOS. -/
def nanOf (a b : W32) : W32 := if isNan b then quiet b else quiet a

def fAdd (a b : W32) : W32 :=
  match fVal a, fVal b with
  | .nan, _ => nanOf a b
  | _, .nan => nanOf a b
  | .inf x, .inf y => if x = y then fInf x else defaultNan
  | .inf x, _ => fInf x
  | _, .inf y => fInf y
  | .fin x m e, .fin y n f =>
    let g := min e f
    let v := sgn x (m * 2 ^ (e - g).toNat) + sgn y (n * 2 ^ (f - g).toNat)
    if v = 0 then fBits (x && y) 0 else roundF (decide (v < 0)) v.natAbs g

def fNeg (a : W32) : W32 := a ^^^ 0x80000000
def fAbs (a : W32) : W32 := a &&& 0x7FFFFFFF

/-- `a - b`, with the NaN rule on the operands themselves. -/
def fSub (a b : W32) : W32 := if isNan a || isNan b then nanOf a b else fAdd a (fNeg b)

def fMul (a b : W32) : W32 :=
  match fVal a, fVal b with
  | .nan, _ => nanOf a b
  | _, .nan => nanOf a b
  | .inf x, .inf y => fInf (x != y)
  | .inf x, .fin y n _ => if n = 0 then defaultNan else fInf (x != y)
  | .fin x m _, .inf y => if m = 0 then defaultNan else fInf (x != y)
  | .fin x m e, .fin y n f => roundF (x != y) (m * n) (e + f)

/-- `a / b`: 64 further bits of quotient and a sticky bit decide the rounding exactly. -/
def fDiv (a b : W32) : W32 :=
  match fVal a, fVal b with
  | .nan, _ => nanOf a b
  | _, .nan => nanOf a b
  | .inf _, .inf _ => defaultNan
  | .inf x, .fin y _ _ => fInf (x != y)
  | .fin x _ _, .inf y => fBits (x != y) 0
  | .fin x m e, .fin y n f =>
    if n = 0 then (if m = 0 then defaultNan else fInf (x != y))
    else
      let t := m * 2 ^ 64
      roundF (x != y) (2 * (t / n) + (if t % n = 0 then 0 else 1)) (e - f - 65)

/-- Numbers in order; −0 lies below +0 only where `zeros` says so (R198). -/
def fLt (a b : W32) (zeros : Bool) : Bool :=
  match fVal a, fVal b with
  | .nan, _ => false
  | _, .nan => false
  | .inf x, .inf y => x && !y
  | .inf x, _ => x
  | _, .inf y => !y
  | .fin x m e, .fin y n f =>
    let g := min e f
    let u := sgn x (m * 2 ^ (e - g).toNat)
    let v := sgn y (n * 2 ^ (f - g).toNat)
    if u = 0 ∧ v = 0 then zeros && x && !y else decide (u < v)

/-- Numeric equality: −0 equals +0, a NaN equals nothing. -/
def fEq (a b : W32) : Bool := !isNan a && !isNan b && !fLt a b false && !fLt b a false

def fMin (a b : W32) : W32 := if isNan a || isNan b then nanOf a b else if fLt b a true then b else a
def fMax (a b : W32) : W32 := if isNan a || isNan b then nanOf a b else if fLt a b true then b else a

/-- An integer times `2 ^ e` as binary32. -/
def fOfInt (v : Int) (e : Int) : W32 := roundF (decide (v < 0)) v.natAbs e

/-- A finite value times `2 ^ k` rounded to an integer, ties to even; none for an infinity, by its sign. -/
def fToInt (x : W32) (k : Nat) : Option Int :=
  match fVal x with
  | .nan => none
  | .inf _ => none
  | .fin neg m e =>
    let f := e + (k : Int)
    some (sgn neg (if f ≥ 0 then m * 2 ^ f.toNat else rneShift m (-f).toNat))

end Sys2Proof.Machine
end

