-- ==== Sys2Proof/Config.lean ====
section
/-! DEFINITION. The values that the spec leaves open and no rule fixes: constants without a body, so that
no proof can rest on one. Each is named in the assumption log. -/

namespace Sys2Proof.Config

/-- A microcode temporary T0 to T3, MD or CTR before its first write (R263: undefined at the start), by the
number of the free value (log 7). -/
opaque microTemp : Nat → TWord

/-- The microwords of the ROM half, 0000h to 0FFFh, whose contents the spec does not give (R257; log 101), by address. -/
opaque microRom : Nat → BitVec 112

/-- ACC before its first write (R263; log 7). -/
opaque microAcc : Nat → BitVec 96

/-- Which operand exception 3 names when both operands are acceptable alone but not as a pair (R284 gives one
operand field; log 8): `true` for NOS. -/
opaque mismatchIsNos : Bool

/-- Does the boundary that arms a frame's entries count as their first occurrence (R82, R95; log 9)? -/
opaque armBoundaryCounts : Bool

/-- The SHA-384 digest that HELLO carries of the frame map (R360; log 10), by the map's own words. -/
opaque mapDigest : List Nat → BitVec 384

/-- INFO of exception 5 for a frame word that the loop may not write (R90, R267), which has neither an ADDR word
nor a sail number (R284; log 14), by frame word. -/
opaque frameInfo5 : Nat → TWord

/-- The operand number that INFO of exception 3 gives for a microcode operand other than a stack entry or a frame
word (R257, R284; log 16), by its source code. -/
opaque microOperand : Nat → Nat

/-- ACC after a microword that names ACC as the destination of an ordinary ALU result (R257; log 7). -/
opaque accLoad : TWord → BitVec 96

/-- JERR of a TWIN_JOIN that ends for a reason to which R377 gives no code (log 18): 0 the complex is already joined,
1 the HELLO exchange or the command itself times out. -/
opaque joinJerr : Nat → BitVec 4

/-- RSTCAUSE.SRC of the L1 or L0 that RESET_MILL or RESET_WHEEL applies, which R471 does not list as a source (log 22). -/
opaque resetCommandSrc : BitVec 4

/-- The reset-history entry of an edge domain's clock failure, to which R495 and R499 give no SRC and no LEVEL (log 23), by
domain. -/
opaque edgeHistory : Nat → BitVec 32

/-- ARG of the type 09h entry of a boot record whose failure is no order of R516 (R509, R518; log 24): 0 the digest differs from
the record's, 1 the attempt times out. -/
opaque bootFailOrder : Nat → BitVec 8

/-- R451 maps residues modulo CPR into −⌊CPR/2⌋ + 1 to ⌊CPR/2⌋, which leaves one residue of an odd CPR without a value
(log 30): `true` takes it as ⌊CPR/2⌋ + 1, `false` as −⌊CPR/2⌋, by CPR. -/
opaque oddResidueHigh : Nat → Bool

/-- The rate that a member's steering gives ring time (R396: "in phase and in rate", by no stated law; log 98), in 2^-32 ns for
each ns, from the rate so far and the offset in 2^-16 ns. -/
opaque steerRate : Int → Int → Int

/-- The body bytes of the CONTROL messages whose contents R360 names without their places (log 100), by CTYPE and the contents. -/
opaque ctlBody : Nat → List Nat → List Byte

end Sys2Proof.Config
end

