-- ==== Sys2Proof/Machine/State.lean ====
section
/-! DEFINITION. The state of the complex as plain data. Every field names the rule that gives it
and its reset value; `State.reset` is the complex just after a completed power-on reset (L4, R481 step 10)
with nothing programmed in the fuse array (log 1, 2). Groups of like things are sparse tables whose
unlisted entries are the structures' default values, which are the reset values. -/

namespace Sys2Proof.Machine

/-! ### Memories -/

/-- The error mark of a stored word (R328 to R330): correctable or uncorrectable, and whether a reader has found it. -/
inductive Ecc where
  | ok | ce | ceSeen | ue | ueSeen
  deriving DecidableEq, Repr, Inhabited

/-- A memory with check bits (R328): its words and the error marks of the words that an upset has hit. -/
structure Ram (α : Type) where
  cells : Tab α := []
  ecc : Tab Ecc := []
  deriving DecidableEq, Repr

/-! ### The wheel -/

/-- MODE without the pending-change view (R172). -/
structure Mode where
  /-- MODE.WORLD, 1 bit (05 R172). Reset: 0, Control. -/
  world : Bool := false
  /-- MODE.LEVEL, 1 bit (05 R172). Reset: 0, user. -/
  level : Bool := false
  /-- MODE.TCHK, 1 bit (05 R172, R147). Reset: 0, strict. -/
  tchk : Bool := false
  /-- MODE.COMPAT, 1 bit (05 R172). Reset: 0. -/
  compat : Bool := false
  /-- MODE.GUARD, 1 bit (05 R172, 10 R310). Reset: 0. -/
  guard : Bool := false
  deriving DecidableEq, Repr, Inhabited

/-- A pending mode change of SETMODE and the instructions still to retire before it (R244, R245). -/
structure ModeChg where
  level : Bool
  tchk : Bool
  compat : Bool
  cnt : Nat
  deriving DecidableEq, Repr, Inhabited

/-- An exception with the INFO and INFO2 that its record will hold (R284). -/
structure Exc where
  num : Nat
  info : TWord
  info2 : TWord
  deriving DecidableEq, Repr, Inhabited

/-- A pending event: the first occurrence's INFO and the merged count (R292). -/
structure EvFlag where
  info : W32
  merged : BitVec 8
  deriving DecidableEq, Repr, Inhabited

/-- A wake-table entry (R81) with the latched wake (R83, R86), its DIV count (R82), and the occurrences in
the synchronise-and-latch stage (R45). -/
structure WakeEnt where
  /-- the entry is allocated to a frame (14 R433). Reset: free. -/
  alloc : Bool := false
  /-- EN, 1 bit (03 R81). Reset: 0 (DESIGN CHOICE, log 3: no frame is defined). -/
  en : Bool := false
  /-- SRC, 1 bit (03 R81). Reset: 0 (log 3). -/
  src : Bool := false
  /-- IDX, 9 bits (03 R81). Reset: 0 (log 3). -/
  idx : Nat := 0
  /-- PEND, 1 bit (03 R81, R83). Reset: 0 (log 3). -/
  pend : Bool := false
  /-- FRAME, 4 bits (03 R81). Reset: 0 (log 3). -/
  frame : Nat := 0
  /-- DIR, 1 bit (03 R81). Reset: 0 (log 3). -/
  dir : Bool := false
  /-- DIV, 8 bits (03 R81). Reset: 0 (log 3). -/
  div : Nat := 0
  /-- occurrences counted in the current group of DIV + 1 (03 R82). Reset: 0 (log 3). -/
  cnt : Nat := 0
  /-- the latched wake word, 36 bits (03 R83). Reset: EMPTY (log 3). -/
  word : TWord := ⟨.empty, 0⟩
  /-- order of the wake's wc among the wakes of the complex (03 R83, R85). Reset: 0 (log 3). -/
  stamp : Nat := 0
  /-- ring time of the wake (05 R142, 12 R359). Reset: 0 (log 3). -/
  wakeAt : RingStamp := ⟨0, 0⟩
  /-- the pending run has expired (03 R98, R99). Reset: no. -/
  expired : Bool := false
  /-- sails whose policy the expiry of the pending run has taken (03 R97, R99). Reset: none. -/
  taken : List Nat := []
  /-- occurrences in the 3 wc synchronise-and-latch stage, with their order stamp (01 R45). Reset: none. -/
  latch : List (TWord × Nat) := []
  deriving DecidableEq, Repr, Inhabited

/-- The run in progress (R94 to R99, R543). -/
structure Run where
  entry : Nat
  frame : Nat
  dir : Bool
  wakeAt : RingStamp
  expired : Bool
  /-- sails that the run has written in time (R97) -/
  written : List Nat
  /-- sails that have taken their overrun policy in this run (R97) -/
  taken : List Nat
  /-- DWELL of the run's mode pair has begun during the run: its later SAILs are lost (R109, R110) -/
  cut : Bool := false
  deriving DecidableEq, Repr, Inhabited

/-- A store-buffer entry toward the millpond: one word, or the two words of an ST2 (R129, R192). -/
structure StoreEnt where
  addr : Nat
  data : List TWord
  granted : Bool
  deriving DecidableEq, Repr, Inhabited

/-- A telemetry record as TELL queues it: the millpond word of its ring descriptor, which the TELL's checks fixed, and the
world and level of the TELL (R114, R115). -/
structure TellRec where
  wheel : Nat
  world : Bool
  user : Bool
  desc : Nat
  slot : Nat
  chan : Nat
  words : List TWord
  deriving DecidableEq, Repr, Inhabited

/-- What a wheel whose instruction has issued and not retired waits for (R127, R129, R169, R117). -/
inductive Stall where
  | none
  /-- a millpond load of `n` words at `addr`, through the ADDR `a` with the entry's PTR; `data` once granted -/
  | mpLoad (addr n : Nat) (ptr : Bool) (a : TWord) (data : Option (List (TWord × Bool)))
  /-- a block instruction's millpond element at `addr`, read through the ADDR `a`; `data` and whether it could not be corrected
  once granted; `second` for vb of DOT, whose va element is `va` (R217, R219) -/
  | blkMp (second : Bool) (va : TWord) (a : TWord) (addr : Nat) (data : Option (TWord × Bool))
  /-- a block instruction's element `u` whose destination has no room yet; `host`: a host answer gave it (R129, R218) -/
  | blkFull (u : TWord) (host : Bool)
  /-- a PSTORE whose line write has begun: offset, word, and whether the slice has switched the line (R248, R490) -/
  | pstore (o : Nat) (v : BitVec 14) (switched : Bool)
  /-- a load that waits until `k` stores have drained, then becomes `mpLoad` (R129) -/
  | mpDrain (k addr n : Nat) (ptr : Bool) (a : TWord)
  /-- a store that waits for a free store-buffer entry; `pops` operands leave the stack when it retires (R129) -/
  | storeFull (e : StoreEnt) (pops : Nat)
  /-- a HOST load of `n` words (R169) -/
  | hostLoad (a : TWord) (n : Nat)
  /-- a non-posted HOST store (R169) -/
  | hostStore (a : TWord) (pops : Nat) (vals : List W32)
  /-- a posted HOST store that waits because four are outstanding (R315) -/
  | postFull (a : TWord) (pops : Nat) (vals : List W32)
  /-- a block instruction's element read from host space (R218); `second` for vb of DOT -/
  | blkRead (second : Bool) (va : TWord) (a : TWord)
  /-- a block instruction's element store to host space (R218) -/
  | blkWrite (a : TWord) (v : W32)
  /-- a TELL on a full tailrace queue (R117) -/
  | tellFull (r : TellRec)
  /-- a custom opcode whose microcode never reaches END or TRAP (R272) -/
  | endless
  deriving DecidableEq, Repr, Inhabited

/-- A program-store line as a wheel holds it: number and words (R231, R232). -/
structure LineCopy where
  line : Nat
  words : List (BitVec 14)
  deriving DecidableEq, Repr, Inhabited

/-- A branch-target buffer entry (R237). -/
structure BtbEnt where
  src : W32
  tgt : W32
  copy : LineCopy
  deriving DecidableEq, Repr, Inhabited

/-- The wheel's fetch state (R232, R233). -/
structure Fetch where
  /-- line register (08 R232). Reset: empty. -/
  line : Option LineCopy := none
  /-- prefetch register (08 R232). Reset: empty. -/
  pre : Option LineCopy := none
  /-- fetch read in flight for a target: line, and the source and target CODE words of a transfer that writes the
  branch-target buffer (08 R233, R236, R237). Reset: none. -/
  want : Option (Nat × Option (W32 × W32)) := none
  /-- prefetch read in flight (08 R233, R234). Reset: none. -/
  preWant : Option Nat := none
  /-- branch-target buffer, 64 entries (08 R237). Reset: empty. -/
  btb : Tab (Option BtbEnt) := []
  /-- entry-line copies, 16 (08 R239). Reset: empty. -/
  entry : Tab (Option LineCopy) := []
  /-- repeat buffer, up to 64 words, by place in the body (07 R227, 08 R232). Reset: empty. -/
  rep : Tab (Option (BitVec 14)) := []
  /-- RPT.START of the body whose words the repeat buffer holds (07 R227, 08 R232). Reset: none. -/
  repFor : Option W32 := none
  /-- the repeat buffer holds the body: later iterations issue from it (07 R227). Reset: 0. -/
  repHeld : Bool := false
  /-- FLUSH has emptied the repeat buffer in this iteration: the next iteration fetches again (07 R227). Reset: 0. -/
  repSkip : Bool := false
  /-- words of pinned code that the fetch stage has read, by the CODE word of their instruction: the instruction in
  execution and the next one (08 R230, R249). Reset: none. -/
  next : List (W32 × List (BitVec 14)) := []
  /-- the next WAIT reloads the entry-line copies (08 R239). Reset: 1, the wheel has been reset. -/
  reload : Bool := true
  deriving DecidableEq, Repr, Inhabited

/-- Block registers BLK (R211), 07. -/
structure Blk where
  /-- BLK.CTL, 32 bits (07 R211). Reset: 0. -/
  ctl : W32 := 0
  /-- BLK.SRC, 36 bits (07 R211). Reset: 0. -/
  src : TWord := ⟨.int, 0⟩
  /-- BLK.DST, 36 bits (07 R211). Reset: 0. -/
  dst : TWord := ⟨.int, 0⟩
  /-- BLK.REM, 32 bits (07 R211). Reset: 0. -/
  rem : W32 := 0
  /-- BLK.DONE, 32 bits (07 R211). Reset: 0. -/
  done : W32 := 0
  /-- BLK.X, 36 bits (07 R211). Reset: 0. -/
  x : TWord := ⟨.int, 0⟩
  /-- BLK.ACC, 96 bits (07 R211). Reset: 0. -/
  acc : BitVec 96 := 0
  deriving DecidableEq, Repr, Inhabited

/-- Block-repeat registers RPT (R226), 07. -/
structure Rpt where
  /-- RPT.CTL, 32 bits (07 R226). Reset: 0. -/
  ctl : W32 := 0
  /-- RPT.START, 32 bits (07 R226). Reset: 0. -/
  start : W32 := 0
  /-- RPT.CNT, 32 bits (07 R226). Reset: 0. -/
  cnt : W32 := 0
  deriving DecidableEq, Repr, Inhabited

/-- FEXIT (R306). -/
structure Fexit where
  /-- FEXIT.VALID (10 R306). Reset: 0. -/
  valid : Bool := false
  /-- FEXIT.RET, 24 bits (10 R306). Reset: 0. -/
  ret : BitVec 24 := 0
  /-- FEXIT.WORLD, LEVEL, TCHK, COMPAT (10 R306). Reset: 0. -/
  mode : Mode := {}
  /-- FEXIT.FLOOR, 6 bits: caller's SD minus NARG (10 R306). Reset: 0. -/
  floor : Nat := 0
  /-- FEXIT.NRES, 5 bits (10 R306). Reset: 0. -/
  nres : Nat := 0
  /-- FEXIT.RFL, 7 bits: caller's return-stack floor (10 R306). Reset: 0. -/
  rfl : Nat := 0
  deriving DecidableEq, Repr, Inhabited

/-- A descriptor by index and table world: the active record's name (R297). -/
structure DRef where
  idx : Nat
  world : Bool
  deriving DecidableEq, Repr, Inhabited

/-- A request toward a scratchpad's steal register (R321, R322): one word of the debug path, the mirror engine's reads of
the frame in `slot`, or the tailrace's reload of its copy of frame word 7. -/
inductive StealReq where
  | debug (a : MemAcc) | mirror (slot : Nat) | tdest (slot : Nat)
  deriving DecidableEq, Repr

/-- A hopper write that waits for its wheel to park (R92), in the order of the hopper engine. -/
inductive FrameAct where
  /-- write frame word `i` of `slot` for LOOP_PARAM_SET of the packet in slot `s` of hopper `h`, and count it (R437) -/
  | word (slot i : Nat) (v : TWord) (h : HopId) (s : Nat)
  /-- LOOP_STOP of frame `f` is due at its next boundary, for the packet in slot `s` of hopper `h` (R95, R435) -/
  | stop (f : Nat) (h : HopId) (s : Nat)
  /-- LOOP_START of frame `f` in `slot` for the packet in slot `s` of hopper `h` (R95, R111, R435) -/
  | start (slot f : Nat) (h : HopId) (s : Nat)
  /-- the last write of a hopper command: complete the packet in slot `s` with status 00h or 01h -/
  | done (h : HopId) (s : Nat)
  deriving DecidableEq, Repr

/-- A boundary whose wake cycle a wheel has not reached (R93, R134). -/
structure FfDue where
  tb : Nat
  /-- the boundary's ring-time stamp, and that of the boundary of the timebase before it -/
  now : W64
  old : Option W64
  /-- order stamp of the boundary's occurrence in the latch stages -/
  occ : Nat
  deriving DecidableEq, Repr, Inhabited

/-- A staged feed-forward value with its intent, which gives its deadline and key (R93, R376 step 5, R406). -/
structure Staged where
  val : TWord
  it : Intent
  deriving DecidableEq, Repr, Inhabited

/-- One wheel (R140 and the chapters it names). -/
structure Wheel where
  /-- parked on WAIT (03 R87, 10 R282). Reset: 1 (16 R481 step 10). -/
  parked : Bool := true
  /-- PC, CODE word (05 R140, R158). Reset: 0 (DESIGN CHOICE, log 3; dispatch sets it). -/
  pc : W32 := 0
  /-- MODE (05 R172). Reset: 00h. -/
  mode : Mode := {}
  /-- pending mode changes, oldest first, at most 2; MPEND and MCOUNT show the first (08 R244, R245). Reset: none. -/
  pend : List ModeChg := []
  /-- VB, 13 bits (05 R140). Reset: 0. -/
  vb : Nat := 0
  /-- RF, resident floor, 13 bits (05 R140). Reset: 0. -/
  rf : Nat := 0
  /-- SD, 6 bits (05 R140). Reset: 0 (DESIGN CHOICE, log 3). -/
  sd : Nat := 0
  /-- register file, 512 words of 36 bits (05 R140, R148). Reset: every entry EMPTY (11 R343). -/
  regs : Tab TWord := []
  /-- guard bank, 64 words of 36 bits (10 R310). Reset: EMPTY (log 3). -/
  gregs : Tab TWord := []
  /-- operand depth of the guard handler's stack before RTE swaps the window back; VB and SD of the interrupted code stay in the guard record (10 R310, R313). -/
  gsd : Nat := 0
  /-- return stack, top first, at most 64 RET values (05 R140, R159). Reset: empty. -/
  rstack : List W32 := []
  /-- Control shadow-stack depth, 0 to 64 (05 R160). Reset: 0. -/
  csd : Nat := 0
  /-- Service shadow-stack depth, 0 to 64 (05 R160). Reset: 0. -/
  ssd : Nat := 0
  /-- return-stack floor, 0 to 64 (10 R304). Reset: 0. -/
  floor : Nat := 0
  /-- frame register, 4 bits (05 R140, 03 R87). Reset: 0 (DESIGN CHOICE, log 3). -/
  frm : Nat := 0
  /-- block registers (07 R211). Reset: 0. -/
  blk : Blk := {}
  /-- segment entries that the block instruction in progress uses (07 R216). Reset: none. -/
  blkSeg : Option (W64 × W64) := none
  /-- block-repeat registers (07 R226). Reset: 0. -/
  rpt : Rpt := {}
  /-- the last body instruction has retired and the iteration's end is due (07 R224). Reset: no. -/
  iterEnd : Bool := false
  /-- FEXIT of the Control world (10 R306). Reset: 0. -/
  fexitC : Fexit := {}
  /-- FEXIT of the Service world (10 R306). Reset: 0. -/
  fexitS : Fexit := {}
  /-- the active record (10 R297). Reset: none. -/
  active : Option DRef := none
  /-- busy flags of the Control descriptors, 64 bits (10 R295). Reset: 0. -/
  busyC : W64 := 0
  /-- busy flags of the Service descriptors, 64 bits (10 R295). Reset: 0. -/
  busyS : W64 := 0
  /-- which busy Control descriptors were entered for an asynchronous fault (10 R294). Reset: 0. -/
  asyC : W64 := 0
  /-- which busy Service descriptors were entered for an asynchronous fault (10 R294). Reset: 0. -/
  asyS : W64 := 0
  /-- pending events 32 to 48 with INFO and merged count (10 R292). Reset: none. -/
  events : Tab (Option EvFlag) := []
  /-- pending exceptions 18, oldest first: frame slot and entry, deadline count, whether the run is still pending (03 R98). Reset: none. -/
  exc18 : List (W32 × W32 × Bool) := []
  /-- pending exception 17 (16 R477). Reset: 0. -/
  exc17 : Bool := false
  /-- pending exceptions 12 of posted stores, oldest first (10 R315, R316). Reset: none. -/
  exc12 : List (TWord × W32) := []
  /-- precise fault of the instruction that has just failed (10 R294). Reset: none. -/
  fault : Option Exc := none
  /-- the faulting dispatch of R543 is recorded as that of a parked wheel (03 R543). -/
  faultParked : Bool := false
  /-- EVCFG, 64 bits (10 R290). Reset: 0. -/
  evcfg : W64 := 0
  /-- wake table, 16 entries (03 R81). Reset: every entry free. -/
  wakes : Tab WakeEnt := []
  /-- the run in progress (03 R94). Reset: none. -/
  run : Option Run := none
  /-- local scratchpad, 32 Ki words of 36 bits (05 R163, 11 R319). Reset: EMPTY (11 R343). -/
  spad : Ram TWord := {}
  /-- pinned store, 4 Ki words of 14 bits (00 R4). Reset: 0000h (11 R343). -/
  pinned : Ram (BitVec 14) := {}
  /-- store buffer, up to 4 entries, oldest first (04 R129, 11 R325). Reset: empty. -/
  sbuf : List StoreEnt := []
  /-- posted HOST stores outstanding, oldest first, up to 4 (10 R315). Reset: none. -/
  posted : List (TWord × List W32) := []
  /-- what the issued instruction waits for, and its opcode word. Reset: nothing. -/
  stall : Stall := .none
  stallOp : BitVec 14 := 0
  /-- fetch state (08 R232). Reset: empty. -/
  fetch : Fetch := {}
  /-- staged feed-forward values, key 4 × slot + j (03 R93, 13 R406). Reset: none (13 R413). -/
  staged : Tab (Option Staged) := []
  /-- keys of the last applied intents, key 4 × slot + j (13 R406). Reset: none (13 R413). -/
  applied : Tab (Option IntentKey) := []
  /-- boundaries whose wake cycle the wheel has not reached, oldest first (03 R93, 04 R134). Reset: none. -/
  ffDue : List FfDue := []
  /-- values that replace current ones after the instruction that issues in the wake cycle, by key (03 R93). Reset: none. -/
  ffNow : List (Nat × TWord) := []
  /-- the tailrace's copies of frame word 7 (11 R321), by slot. Reset: EMPTY (DESIGN CHOICE, log 3). -/
  tdest : Tab TWord := []
  /-- per-wheel telemetry record sequence, 8 bits (03 R114). Reset: 0 (DESIGN CHOICE, log 3). -/
  tellSeq : BitVec 8 := 0
  /-- pending hopper writes (03 R92). Reset: none. -/
  acts : List FrameAct := []
  /-- steal register (11 R322). Reset: empty. -/
  steal : Option StealReq := none
  /-- requests that wait for the steal register, at most one of each requester with the register's (11 R322). Reset: none. -/
  stealQ : List StealReq := []
  /-- frame slots whose word 7 the tailrace has still to reload (11 R321, R322). Reset: none. -/
  tdestDue : List Nat := []
  /-- no boundary lies before the next instruction: it is the first at the target of an entry, FCALL, FRET or RTE (08 R246, 10 R293). Reset: 0. -/
  fresh : Bool := false
  /-- WDBGw.HALTED (18 R538). Reset: 0. -/
  halted : Bool := false
  /-- a halt has been requested (18 R538). Reset: 0. -/
  haltReq : Bool := false
  /-- a single step has been requested (18 R538). Reset: 0. -/
  stepReq : Bool := false
  /-- the wheel has locked up and issues nothing (10 R314). Reset: 0. -/
  lockup : Bool := false
  /-- the wheel is stopped by RESET_MILL, RESET_WHEEL, a guard RESET, or SELFTEST isolation (14 R447, 18 R528). Reset: 0. -/
  stopped : Bool := false
  /-- a guard RESET drains the wheel before its L0 is raised (10 R313, 16 R488). Reset: 0. -/
  draining : Bool := false
  /-- the wheel has run a mill-clock stop or a reset that has not been released (01 R33, 16 R487). Reset: 0. -/
  held : Bool := false
  /-- holds of the mirror engine or of a migration on the next dispatch (12 R365, 14 R440). Reset: 0. -/
  hold : Bool := false
  /-- the wheel has entered the guard handler since the last divergence check (12 R375 bit 5). Reset: 0. -/
  guardSeen : Bool := false
  deriving DecidableEq, Repr, Inhabited

/-! ### Mills and shared control -/

/-- One record of a mill's trace buffer (R540). -/
structure TraceRec where
  kind : Nat
  pos : Nat
  arg : Nat
  frame : Nat
  time : W64
  deriving DecidableEq, Repr, Inhabited

/-- TRACEm (R541) and its buffer (R540). -/
structure Trace where
  /-- TRACEm.EN (18 R541). Reset: 0. -/
  en : Bool := false
  /-- TRACEm.STOPFULL (18 R541). Reset: 0. -/
  stopfull : Bool := false
  /-- TRACEm.KMASK, 8 bits (18 R541). Reset: FFh. -/
  kmask : BitVec 8 := 0xFF
  /-- TRACEm.WPTR, 12 bits (18 R541). Reset: 0. -/
  wptr : Nat := 0
  /-- TRACEm.WRAP (18 R541). Reset: 0. -/
  wrap : Bool := false
  /-- TRACEm.LOST, 16 bits (18 R541). Reset: 0. -/
  lost : Nat := 0
  /-- TRACEm.RPTR, 12 bits (18 R541). Reset: 0. -/
  rptr : Nat := 0
  /-- the 4,096 trace records (18 R540). Reset: cleared. -/
  buf : Tab (Option TraceRec) := []
  deriving DecidableEq, Repr, Inhabited

/-- One mill (R23): clock, power, program store slice, control store, records. -/
structure Mill where
  /-- MILLCTLm.FREQ, 4 bits (01 R31). Reset: Ch. -/
  freq : Nat := 12
  /-- MILLCTLm.PSTATE, 2 bits (01 R31). Reset: 00b ON. -/
  pstate : Nat := 0
  /-- MILLCTLm.LOCK (01 R31, R33). Reset: 0 in the table; 1 once the release of the core domains is complete (16 R481). -/
  lock : Bool := true
  /-- MILLCTLm.ERR (01 R31). Reset: 0. -/
  err : Bool := false
  /-- the mill's memories must be cleared on the return to ON (01 R36). Reset: no. -/
  offSeen : Bool := false
  /-- program store slice, 256 Ki words of 14 bits (08 R231). Reset: 0000h, as from the factory. -/
  slice : Tab (BitVec 14) := []
  /-- lines that fail their line check (08 R241). Reset: none. -/
  badLines : Tab Bool := []
  /-- the slice has switched the line of the last line write that began (16 R490, R491). Reset: no. -/
  switched : Bool := false
  /-- writable control store, 112-bit microwords by address 1000h to 1FFFh (09 R252). Reset: 0 (09 R278). -/
  cstore : Tab (BitVec 112) := []
  /-- custom dispatch table, 32 entries of 64 bits (09 R254). Reset: EN 0 (09 R278). -/
  cdt : Tab W64 := []
  /-- microcode record: IMAGEID (09 R277). Reset: 0. -/
  mcId : W64 := 0
  /-- microcode record: KEYIDX (09 R277). Reset: 0. -/
  mcKey : Nat := 0
  /-- microcode record: SHA-384 digest (09 R277). Reset: 0. -/
  mcDigest : BitVec 384 := 0
  /-- microcode record: load count, 32 bits (09 R277, 17 R526). Reset: 0. -/
  mcCount : Nat := 0
  /-- program record: IMAGEID (17 R514). Reset: 0. -/
  progId : W64 := 0
  /-- PORTST.HUNGMP bit m (16 R488, R489). Reset: 0. -/
  hung : Bool := false
  /-- trace buffer (18 R540, R541). Reset: cleared. -/
  trace : Trace := {}
  deriving DecidableEq, Repr, Inhabited

/-- Where a frame number lives, and what is due for it at a boundary (R89, R95, R432, R440). -/
structure FrameDef where
  wheel : Nat
  slot : Nat
  /-- the frame's allocated wake entries: WAKE0 and WAKE1, if any -/
  wakes : List (Option Nat)
  /-- FFQ16, the family of each feed-forward slot (R432, R437) -/
  ffq16 : BitVec 4
  /-- the entries are armed at the next boundary of the timebase (R95) -/
  arm : Bool
  /-- LOOP_STOP is due at the next boundary (R95) -/
  stop : Bool
  /-- a move to this wheel is due at a boundary (R440) -/
  moveTo : Option Nat
  /-- entry-line copies that the move has loaded from the target mill, by the order of the frame's entries (R239, R440, R544) -/
  moveLines : List (Option LineCopy)
  /-- the wheel that KIND 1 moved the frame from (R439) -/
  home : Option Nat
  /-- run count modulo 65,536 (R359) -/
  runs : BitVec 16
  /-- ring time of the wake of the last run (R359) -/
  lastWake : W64
  /-- run count of the last applied STATE record on a tracker (R365, R367) -/
  appliedRun : Option (BitVec 16)
  /-- ring time at which that record was applied (R369) -/
  appliedAt : W64
  /-- the newest staged STATE record of a tracker (R367), and the further words of a COPY record (R376) -/
  stagedRec : Option StateRec
  stagedExt : Option CopyExt
  deriving DecidableEq, Repr, Inhabited

/-- A sail: SAILCFGn, SAILSAFEn and the word in the host's shadow register (R100, R101). -/
structure Sail where
  /-- SAILCFGn.TB, 3 bits, host wiring (03 R100). Reset: host wiring, 0 (DESIGN CHOICE, log 4). -/
  tb : Nat := 0
  /-- SAILCFGn.OVRPOL (03 R100). Reset: 1. -/
  ovrpol : Bool := true
  /-- SAILCFGn.OWNED (03 R100). Reset: 0. -/
  owned : Bool := false
  /-- SAILCFGn.OWNER, 6 bits (03 R100). Reset: 0. -/
  owner : Nat := 0
  /-- SAILCFGn.SAFEACT (03 R100). Reset: 1. -/
  safeact : Bool := true
  /-- SAILCFGn.POISONED (03 R100). Reset: 0. -/
  poisoned : Bool := false
  /-- SAILCFGn.ERR (03 R100). Reset: 0. -/
  err : Bool := false
  /-- SAILCFGn.OVRCNT, 8 bits saturating (03 R100). Reset: 0. -/
  ovrcnt : Nat := 0
  /-- SAILCFGn.LATECNT, 8 bits saturating (03 R100). Reset: 0. -/
  latecnt : Nat := 0
  /-- SAILSAFEn.SAFE, 32 bits (03 R101). Reset: 00000000h. -/
  safe : W32 := 0
  /-- SAIL_Dn: the last word that reached the shadow register (02 R56 table, R57, 01 R42). Reset: the safe word 0, written at release (03 R102). -/
  out : W32 := 0
  /-- a loop has written the sail since the start of the latest L2 (16 R484). Reset: 0. -/
  sinceL2 : Bool := false
  deriving DecidableEq, Repr, Inhabited

/-- A PWM timebase as the complex follows it (R60, R134). -/
structure Timebase where
  /-- TB_IDX of the last pulse, 16 bits (02 R60, 03 R104). Reset: 0 (DESIGN CHOICE, log 3). -/
  idx : BitVec 16 := 0
  /-- a pulse has been received since the release of the domain (02 R60). Reset: 0. -/
  seen : Bool := false
  /-- ring-time stamp of the last pulse (04 R134). Reset: 0 (log 3). -/
  stamp : W64 := 0
  deriving DecidableEq, Repr, Inhabited

/-- LEATCFGn (R119) and what PUBLISH needs of the leat (R400). -/
structure Leat where
  /-- LEATCFGn.SEQ, 8 bits (03 R119). Reset: 0. -/
  seq : BitVec 8 := 0
  /-- LEATCFGn.SEQERR, 8 bits saturating (03 R119). Reset: 0. -/
  seqerr : Nat := 0
  /-- LEATCFGn.LOST, 8 bits saturating (03 R119). Reset: 0. -/
  lost : Nat := 0
  /-- LEATCFGn.FAILSEEN (03 R119). Reset: 0. -/
  failseen : Bool := false
  /-- LEATCFGn.OVRSEEN (03 R119). Reset: 0. -/
  ovrseen : Bool := false
  /-- LEATCFGn.LAST, 16 bits (03 R119). Reset: 0. -/
  last : BitVec 16 := 0
  /-- a word has arrived since the last L2, L3 or L4 (02 R55). Reset: 0. -/
  seen : Bool := false
  /-- the last word had FAIL = 1 (13 R400). Reset: 0. -/
  lastFail : Bool := false
  /-- ring time of the last word (13 R400). Reset: 0 (log 3). -/
  lastNs : W64 := 0
  /-- ring time of the last word with FAIL or OVR, or of the last sequence event (12 R375 bit 2). Reset: none. -/
  badNs : Option W64 := none
  /-- SEQ of the last word that a feedback channel posted on the leat, 8 bits (15 R453). Reset: 0 (log 49). -/
  fbSeq : BitVec 8 := 0
  deriving DecidableEq, Repr, Inhabited

/-! ### Tailrace -/

/-- A record in the drain buffer: its ring position is fixed (R117). -/
structure DrainRec where
  trec : TellRec
  ring : Nat
  pos : W32
  base : Nat
  size : Nat
  deriving DecidableEq, Repr, Inhabited

/-- The tailrace (R116, R117). -/
structure Tailrace where
  /-- 64 per-wheel queues of up to 4 records (03 R116). Reset: empty. -/
  queues : Tab (List TellRec) := []
  /-- drain buffer, up to 512 records, oldest first (03 R116). Reset: empty. -/
  drain : List DrainRec := []
  /-- next queue of the round robin, 0 to 63 (03 R116). Reset: 0 (DESIGN CHOICE, log 3). -/
  rr : Nat := 0
  /-- wheels whose waiting head record has raised event 35 (03 R117). Reset: none. -/
  told : List Nat := []
  deriving DecidableEq, Repr, Inhabited

/-! ### Memory control -/

/-- SPARECTL.STATE (R334). -/
inductive SpareSt where
  | idle | copyin | subst | copyback
  deriving DecidableEq, Repr, Inhabited

/-- SPARECTL (R334). -/
structure Spare where
  /-- SPARECTL.BANK, 4 bits (11 R334). Reset: 0h. -/
  bank : Nat := 0
  /-- SPARECTL.STATE, 2 bits (11 R334). Reset: IDLE. -/
  st : SpareSt := .idle
  /-- SPARECTL.ISOL (11 R334). Reset: 0. -/
  isol : Bool := false
  /-- SPARECTL.ERR (11 R334). Reset: 0. -/
  err : Bool := false
  /-- SPARECTL.DONE (11 R334). Reset: 0. -/
  done : Bool := false
  /-- SPARECTL.PROG, 19 bits (11 R334). Reset: 0. -/
  prog : Nat := 0
  deriving DecidableEq, Repr, Inhabited

/-- A memory power transition in progress (R341): register, field index, old and new code. -/
structure PwrTrans where
  reg : PwrReg
  idx : Nat
  old : Nat
  new : Nat
  deriving DecidableEq, Repr, Inhabited

/-- Memory registers of R333 and R339. -/
structure MemRegs where
  /-- MEMCFG, SCRUB [0], MPINT [3:1], LPINT [6:4] (11 R333). Reset: 1, 010b, 010b. -/
  cfg : W64 := 0x25
  /-- MEMERR.CECNT, 16 bits saturating (11 R333). Reset: 0. -/
  cecnt : Nat := 0
  /-- MEMERR.UECNT, 8 bits saturating (11 R333). Reset: 0. -/
  uecnt : Nat := 0
  /-- MEMERR.UESRC, 3 bits (11 R333). Reset: 000b. -/
  uesrc : Nat := 0
  /-- MEMERR.UEADDR, 22 bits (11 R333). Reset: 0. -/
  ueaddr : Nat := 0
  /-- MEMERR.UEWHEEL, 6 bits (11 R333). Reset: 0. -/
  uewheel : Nat := 0
  /-- BANKPWR, 2 bits for each of banks 0 to 16 (11 R339). Reset: 00000001_00000000h. -/
  bankpwr : W64 := 0x100000000
  /-- SPPWR0, 64 bits (11 R339). Reset: 0. -/
  sppwr0 : W64 := 0
  /-- SPPWR1, 64 bits (11 R339). Reset: 0. -/
  sppwr1 : W64 := 0
  /-- PINPWR0, 64 bits (11 R339). Reset: 0. -/
  pinpwr0 : W64 := 0
  /-- PINPWR1, 64 bits (11 R339). Reset: 0. -/
  pinpwr1 : W64 := 0
  /-- CSPWR, 32 bits (11 R339). Reset: 0. -/
  cspwr : W64 := 0
  /-- MEMPWRST.BANKERR, SPERR, PINERR, CSERR, 4 bits (11 R339). Reset: 0. -/
  errs : BitVec 4 := 0
  /-- transitions in progress; MEMPWRST.BUSY is 1 while there is one (11 R339, R341). Reset: none. -/
  trans : List PwrTrans := []
  /-- MEMPWRST.DROP, 8 bits saturating (11 R339). Reset: 0. -/
  drop : Nat := 0
  /-- UECNT at the last divergence check (12 R375 bit 1). Reset: 0. -/
  ueMark : Nat := 0
  /-- per millpond bank: a wheel that waits for it, and a wheel granted it ahead of that one meanwhile (04 R128). Reset: none. -/
  passed : Tab (List (Nat × Nat)) := []
  /-- uncorrectable words found, with the memory of each, that the Miller has not yet entered in its log (11 R330, 17 R509). Reset: none. -/
  ueLog : List (MemSel × Nat) := []
  /-- scrub pointers by memory (11 R332). Reset: 0 (DESIGN CHOICE, log 3). -/
  scrub : Tab Nat := []
  deriving DecidableEq, Repr, Inhabited

/-! ### Twin pair -/

/-- TWINSTAT.ROLE (R384). -/
inductive Role where
  | simplex | leader | follower | split | joining | leaving | held
  deriving DecidableEq, Repr, Inhabited

/-- A CONTROL message that the complex repeats until it is acknowledged (R360). -/
inductive CtlMsg where
  | hello | join (drives : BitVec 24) | copydone (n : Nat) | handover (groups : BitVec 24) (idx : List (BitVec 16))
  | divcheck (frame : BitVec 9) (sail : BitVec 8) (period : BitVec 16)
  | divresult (bits : BitVec 6) | leave (groups : BitVec 24) | ackonly
  | intentcopy (intents : List Intent)
  deriving DecidableEq, Repr

/-- A divergence check in progress (R375). -/
structure DivChk where
  frame : BitVec 9
  sail : BitVec 8
  driver : Bool
  own : Option (BitVec 6)
  peer : Option (BitVec 6)
  deriving DecidableEq, Repr, Inhabited

/-- The fantail, mirror engine and TWIN registers (12). -/
structure Twin where
  /-- TWINCFG, 64 bits (12 R383). Reset: DIVTHR 20h, DIVTHR1 40h, DIVPERS 4h, HBLAT 3Ch, HBLAT1 55h, SAFEYIELD 1. -/
  cfg : W64 := 0x255_3C4_40_20_000000
  /-- TWINSTAT.ROLE (12 R384). Reset: simplex. -/
  role : Role := .simplex
  /-- a record for a frame that is stopped or not defined has been discarded since the last applied record (12 R366). Reset: no. -/
  trackBad : Bool := false
  /-- TWINSTAT.TALIGN (12 R384, R361). Reset: 0. -/
  talign : Bool := false
  /-- TWINSTAT.PEERHB (12 R384). Reset: 0. -/
  peerhb : Bool := false
  /-- TWINSTAT.MISS, 8 bits saturating (12 R384, R371). Reset: 0. -/
  miss : Nat := 0
  /-- TWINSTAT.JERR, 4 bits (12 R384, R377). Reset: 0h. -/
  jerr : Nat := 0
  /-- TWINSTAT.ERR (12 R384). Reset: 0. -/
  err : Bool := false
  /-- TWINSTAT.DIVFLAG (12 R384). Reset: 0. -/
  divflag : Bool := false
  /-- ring time of application and age in ns of the applied STATE records, from which TWINSTAT.MIRAGE is formed (12 R384). Reset: none. -/
  ages : List (W64 × Nat) := []
  /-- TWINSTAT.TAKECNT, 16 bits saturating (12 R384). Reset: 0. -/
  takecnt : Nat := 0
  /-- TWINTAKE, 64 bits (12 R385). Reset: 0. -/
  take : W64 := 0
  /-- TWINDIV.FRAME, 9 bits (12 R385). Reset: 0. -/
  dFrame : BitVec 9 := 0
  /-- TWINDIV.SAIL, 8 bits (12 R385). Reset: 0. -/
  dSail : BitVec 8 := 0
  /-- TWINDIV.DIFF, 8 bits saturating (12 R385). Reset: 0. -/
  dDiff : Nat := 0
  /-- TWINDIV.OUTCOME, 2 bits (12 R385). Reset: 00b. -/
  dOutcome : Nat := 0
  /-- TWINDIV.OWN, 6 bits (12 R385). Reset: 0. -/
  dOwn : BitVec 6 := 0
  /-- TWINDIV.PEER, 6 bits (12 R385). Reset: 0. -/
  dPeer : BitVec 6 := 0
  /-- TWINDIV.MERGED, 8 bits saturating (12 R385). Reset: 0. -/
  dMerged : Nat := 0
  /-- sender's heartbeat count HB, 8 bits (12 R355, R370). Reset: 0 (DESIGN CHOICE, log 3). -/
  hb : BitVec 8 := 0
  /-- the heartbeat has stopped until the release of the reset (12 R370). Reset: running. -/
  hbStopped : Bool := false
  /-- newest heartbeat received from the peer (12 R371). Reset: none. -/
  peerHb : Option (BitVec 8) := none
  /-- peer's DSEL, TRACK and ROLE of the last accepted header (12 R355, R372). Reset: 0. -/
  peerDsel : BitVec 24 := 0
  peerTrack : Bool := false
  peerRole : BitVec 3 := 0
  /-- peer declared lost (12 R371, R372). Reset: no. -/
  peerLost : Bool := false
  /-- HELLO received while the peer was declared lost both ways (12 R381). Reset: none. -/
  peerHello : Option HelloBody := none
  /-- DRVSEL, 24 bits (02 R68). Reset: 0 (02 R69, 16 R479). -/
  drvsel : BitVec 24 := 0
  /-- groups to take at the next boundary of their timebase (12 R372). Reset: none. -/
  takeAt : BitVec 24 := 0
  /-- no bit has been asserted yet since the last declaration (12 R372). Reset: no. -/
  takeNew : Bool := false
  /-- groups to withdraw at the next boundary (12 R375). Reset: none. -/
  yieldAt : BitVec 24 := 0
  /-- handover in progress: groups, whether this complex takes them, TB_IDX per timebase (12 R378). Reset: none. -/
  hand : Option (BitVec 24 × Bool × List (BitVec 16)) := none
  /-- TWIN_JOIN in progress: hopper slot, step of R376, newcomer (12 R376). Reset: none. -/
  joinAt : Option (Nat × Nat × Bool) := none
  /-- TWIN_LEAVE in progress: hopper slot, whether the peer leaves (12 R378). Reset: none. -/
  leaveAt : Option (Nat × Bool) := none
  /-- CONTROL messages that wait for their ACK, oldest first, with CSEQ (12 R360). Reset: none. -/
  out : List (BitVec 16 × CtlMsg) := []
  /-- messages due for a frame slot (12 R363). Reset: none. -/
  due : List (BitVec 16 × CtlMsg) := []
  /-- next CSEQ, 16 bits (12 R360). Reset: 0 (DESIGN CHOICE, log 3). -/
  cseq : BitVec 16 := 0
  /-- CSEQ to acknowledge next (12 R360). Reset: none, FFFFh. -/
  ackNext : BitVec 16 := 0xFFFF
  /-- queued DUTY records (12 R364). Reset: none. -/
  dutyQ : List DutyRec := []
  /-- COPY frames to send in TWIN_JOIN step 4 (12 R376). Reset: none. -/
  copyQ : List (StateRec × CopyExt) := []
  /-- queued STATE records (12 R364). Reset: none. -/
  stateQ : List StateRec := []
  /-- own last words of the latest periods by sail, each with the ring time of its boundary (12 R368). Reset: none. -/
  ownDuty : Tab (List (DutyRec × W64)) := []
  /-- received DUTY records by sail (12 R368). Reset: none. -/
  drvDuty : Tab (Option DutyRec) := []
  /-- consecutive differing periods cnt by sail (12 R368). Reset: 0. -/
  cnt : Tab Nat := []
  /-- divergence check in progress (12 R375). Reset: none. -/
  chk : Option DivChk := none
  /-- STATE records copied on a newcomer (12 R376 step 4). Reset: 0. -/
  copied : Nat := 0
  /-- domains whose clock monitor has failed since the last check (12 R375 bit 0). Reset: none. -/
  clkFail : W64 := 0
  /-- this complex was the newcomer of the last TWIN_JOIN (12 R361). Reset: no. -/
  newcomer : Bool := false
  /-- ring time of the last slew toward the peer (12 R361). Reset: none. -/
  slewAt : Option W64 := none
  /-- groups that the peer's last JOIN asks for (12 R360). Reset: 0. -/
  peerDrives : BitVec 24 := 0
  /-- newest CSEQ of a CONTROL message acted on (12 R360). Reset: none. -/
  rxCseq : Option (BitVec 16) := none
  /-- CSEQs of the CONTROL messages acted on, newest first (12 R360). Reset: none. -/
  rxDone : List (BitVec 16) := []
  /-- records of the peer's COPYDONE that are still to be copied before it is acknowledged (12 R376 step 4). Reset: none. -/
  copyDue : Option (BitVec 16 × Nat) := none
  deriving DecidableEq, Repr, Inhabited

/-- LANESTk.STATE (R353). -/
inductive LaneSt where
  | off | waitlock | hunt | up | retrain
  deriving DecidableEq, Repr, Inhabited

/-- A frame that a lane sends in a slot (R357, R363, R391, R393). -/
inductive LaneTx where
  | idle | duty (recs : List DutyRec) | state (recs : List StateRec) | control (cseq : BitVec 16) (ack : BitVec 16) (m : CtlMsg)
  | copy (r : StateRec) (x : CopyExt)
  | time (t1 t2 t3 : RingStamp) | intent (i : Intent) (hop : Nat)
  | publish (origin : Nat) (ptime : W64) (pseq : BitVec 8) (vals : List (BitVec 16)) (fails : BitVec 4) (hop : Nat)
  | member (origin : Nat) (capsId : W64) (tkok up2 up3 : Bool) (tkeeper tkhops : Nat) (mseq : BitVec 8) (present : W32) (hop : Nat)
  deriving DecidableEq, Repr, Inhabited

/-- One lane (R353) with its lock state (R352) and transmit side. -/
structure Lane where
  /-- LANECTLk.EN (12 R353). Reset: 0. -/
  en : Bool := false
  /-- LANESTk.STATE, 3 bits (12 R353). Reset: OFF. -/
  st : LaneSt := .off
  /-- LANESTk.RXLOCK (12 R353). Reset: 0. -/
  rxlock : Bool := false
  /-- LANESTk.BLKPOS, 7 bits (12 R353). Reset: 0. -/
  blkpos : Nat := 0
  /-- LANESTk.ERR (12 R353). Reset: 0. -/
  err : Bool := false
  /-- LANECWk.CORR, 32 bits saturating (12 R353). Reset: 0. -/
  corr : Nat := 0
  /-- LANECWk.UNCORR, 16 bits saturating (12 R353). Reset: 0. -/
  uncorr : Nat := 0
  /-- LANEFRk.GOOD, 32 bits modulo (12 R353). Reset: 0. -/
  good : Nat := 0
  /-- LANEFRk.CRCERR, 16 bits saturating (12 R353). Reset: 0. -/
  crcerr : Nat := 0
  /-- LANEFRk.SEQERR, 16 bits saturating (12 R353). Reset: 0. -/
  seqerr : Nat := 0
  /-- LANE_TXENk (02 R65, R67). Reset: 0. -/
  txen : Bool := false
  /-- consecutive good blocks at the tested offset, and the last BLKCNT (12 R352). Reset: none. -/
  hunt : Nat := 0
  lastBlk : Option (BitVec 7) := none
  /-- consecutive uncorrectable codewords (12 R352). Reset: 0. -/
  bad : Nat := 0
  /-- last accepted SEQ (12 R356). Reset: none. -/
  rxSeq : Option (BitVec 16) := none
  /-- next transmit SEQ (12 R355). Reset: 0 (DESIGN CHOICE, log 3). -/
  txSeq : BitVec 16 := 0
  /-- the last frame put into a slot, and its SEQ (12 R363). Reset: none. -/
  tx : Option (BitVec 16 × LaneTx) := none
  /-- the 8-byte header of that frame (12 R355, 13 R390). Reset: 0, none sent. -/
  txHdr : W64 := 0
  /-- bytes of the block that the lane is filling (12 R350). Reset: none. -/
  blk : List Byte := []
  /-- BLKCNT of that block, 7 bits (12 R351). Reset: 0 (DESIGN CHOICE, log 3). -/
  blkcnt : BitVec 7 := 0
  /-- the scrambler's register, 58 bits (12 R350). Reset: 0 (DESIGN CHOICE, log 3). -/
  scr : BitVec 58 := 0
  /-- LANE_TXDk over the last block, 85 words of 128 bits (02 R65, 12 R350). Reset: none sent. -/
  txd : List (BitVec 128) := []
  /-- the descrambler's register, 58 bits (12 R350). Reset: 0 (DESIGN CHOICE, log 3). -/
  dscr : BitVec 58 := 0
  /-- a TIME frame is due (12 R361, 13 R393). Reset: no. -/
  timeDue : Bool := false
  /-- T1 of the peer's last TIME frame and its receipt (12 R361). Reset: none. -/
  lastT : Option (RingStamp × RingStamp) := none
  /-- slots since the last CONTROL frame, and mirror slots in the last 8 (12 R363). Reset: 8, 0. -/
  ctlGap : Nat := 8
  mirRun : Nat := 0
  /-- ring frames that wait for a slot, by type, oldest first (13 R393). Reset: none. -/
  rq : List LaneTx := []
  deriving DecidableEq, Repr, Inhabited

/-! ### Intent ring -/

/-- RINGMEMi (R403) and what is kept of member i. -/
structure RingMem where
  /-- RINGMEMi.PSEQ, 8 bits (13 R403). Reset: 0. -/
  pseq : BitVec 8 := 0
  /-- RINGMEMi.GAPS, 8 bits saturating (13 R403). Reset: 0. -/
  gaps : Nat := 0
  /-- RINGMEMi.LOST, 8 bits saturating (13 R403). Reset: 0. -/
  lost : Nat := 0
  /-- RINGMEMi.LASTNS, 32 bits (13 R403). Reset: 0. -/
  lastns : W32 := 0
  /-- last accepted ISEQ, PSEQ and MSEQ (13 R392). Reset: none. -/
  iseq : Option (BitVec 16) := none
  pacc : Option (BitVec 8) := none
  mseq : Option (BitVec 8) := none
  /-- member i has been present since the join (13 R401). Reset: no. -/
  known : Bool := false
  /-- TKOK and link states of its last MEMBER frame (13 R391, R395). Reset: 0. -/
  tkok : Bool := false
  up2 : Bool := false
  up3 : Bool := false
  /-- fewest hops seen on lane 2 and lane 3, of which RINGMEMi.HOPS shows the smaller (13 R388, R396, R403). Reset: none. -/
  hop2 : Option Nat := none
  hop3 : Option Nat := none
  /-- ring times of the last copies of its MEMBER frames on lane 2 and lane 3 (13 R388, R399; log 97). Reset: 0 (log 3). -/
  hopAt2 : W64 := 0
  hopAt3 : W64 := 0
  /-- PRESENT of its last MEMBER frame (13 R391, R398). Reset: 0 (log 3). -/
  sees : W32 := 0
  /-- event 46 has been raised since its last publication (13 R401). Reset: no. -/
  silent : Bool := false
  /-- ring time from which the 2 µs of a lost publication count (13 R401). Reset: 0 (log 3). -/
  pubAt : W64 := 0
  deriving DecidableEq, Repr, Inhabited

/-- The intent ring controller (13). -/
structure Ring where
  /-- RINGCFG, 64 bits (13 R410). Reset: 0. -/
  cfg : W64 := 0
  /-- RINGSTAT.PRESENT, 32 bits (13 R411). Reset: 0. -/
  present : W32 := 0
  /-- RINGSTAT.TKEEPER, 5 bits (13 R411). Reset: 0. -/
  tkeeper : Nat := 0
  /-- RINGSTAT.TKHOPS, 5 bits (13 R411). Reset: 0. -/
  tkhops : Nat := 0
  /-- RINGSTAT.TALIGN (13 R411). Reset: 0. -/
  talign : Bool := false
  /-- RINGSTAT.STEPPED (13 R411). Reset: 0. -/
  stepped : Bool := false
  /-- RINGSTAT.LATE, 8 bits saturating (13 R411). Reset: 0. -/
  late : Nat := 0
  /-- RINGSTAT.REPL, 8 bits saturating (13 R411). Reset: 0. -/
  repl : Nat := 0
  /-- RINGCNT.INTENTS, 32 bits modulo (13 R412). Reset: 0. -/
  intents : Nat := 0
  /-- RINGCNT.DISC, 16 bits saturating (13 R412). Reset: 0. -/
  disc : Nat := 0
  /-- RINGCNT.WIRE, 8 bits saturating (13 R412). Reset: 0. -/
  wire : Nat := 0
  /-- RINGMEM0 to RINGMEM31 (13 R403). Reset: 0. -/
  mem : Tab RingMem := []
  /-- binding table, up to 1,024 entries of 64 bits (13 R404). Reset: empty. -/
  bind : List W64 := []
  /-- own intent count ISEQ, 16 bits (13 R391). Reset: 0 (DESIGN CHOICE, log 3). -/
  iseq : BitVec 16 := 0
  /-- POSTED of the complex's last intent (13 R405). Reset: none. -/
  lastPost : Option W64 := none
  /-- own MSEQ, 8 bits (13 R391). Reset: 0 (DESIGN CHOICE, log 3). -/
  mseq : BitVec 8 := 0
  /-- RING_JOIN in progress: hopper slot (13 R398). Reset: none. -/
  joinAt : Option Nat := none
  /-- the steering has come within ±2 ns of its neighbour (13 R398). Reset: no. -/
  near : Bool := false
  /-- MEMBER frame received during the join that uses the joiner's number (13 R398). Reset: no. -/
  clash : Bool := false
  /-- ring time since which the steering is within ±2 ns (13 R396). Reset: none. -/
  lockAt : Option W64 := none
  /-- two or more links of the ring are known to be down (13 R409; log 97). Reset: no. -/
  parted : Bool := false
  /-- rate that the steering gives ring time, in 2^-32 ns for each ns, and what it has left below 2^-16 ns (13 R396; log 98).
  Reset: 0 (log 3). -/
  rate : Int := 0
  rateLow : Nat := 0
  deriving DecidableEq, Repr, Inhabited

/-! ### Hoppers -/

/-- The states of a hopper slot (R416); `clearing` is a released slot that is not yet FREE. -/
inductive SlotSt where
  | free | queued | running | done | clearing
  deriving DecidableEq, Repr, Inhabited

/-- An object that a command holds (R423, R429). -/
inductive Obj where
  | frame (n : Nat) | wheel (n : Nat) | sail (n : Nat) | mill (n : Nat) | bank (n : Nat)
  | spare | millrace | ring | weir (n : Nat)
  deriving DecidableEq, Repr, Inhabited

/-- A clamp entry (R426). -/
structure Clamp where
  idx : Nat
  written : W64
  applied : W64
  deriving DecidableEq, Repr, Inhabited

/-- A reply (R425). -/
structure Reply where
  opcode : Byte := 0
  tag : BitVec 16 := 0
  status : Nat := 0
  detail : Nat := 0
  donetime : W64 := 0
  results : List W64 := []
  clamps : List Clamp := []
  deriving DecidableEq, Repr, Inhabited

/-- One slot of a hopper (R414, R416, R417). -/
structure Slot where
  /-- slot state (14 R416). Reset: FREE. -/
  st : SlotSt := .free
  /-- request cells, 512 bytes (14 R414). Reset: 0. -/
  cells : Tab Byte := []
  /-- bytes written since the slot became FREE, 512 bits (14 R417). Reset: none. -/
  written : BitVec 512 := 0
  /-- reply cells (14 R425). Reset: cleared. -/
  reply : Option Reply := none
  /-- progress of a running command: its phase and data, clamps, results so far. Reset: 0. -/
  phase : Nat := 0
  aux : List Nat := []
  clamps : List Clamp := []
  results : List W64 := []
  /-- the command has changed something; it has passed its commit point; a timeout or ABORT has asked it to stop (14 R424). Reset: no. -/
  changed : Bool := false
  committed : Bool := false
  stop : Bool := false
  /-- objects held (14 R423). Reset: none. -/
  holds : List Obj := []
  /-- order of the slot's last doorbell in its hopper (14 R422, R449). Reset: 0 (DESIGN CHOICE, log 3). -/
  bell : Nat := 0
  deriving DecidableEq, Repr, Inhabited

/-- A hopper (R415). -/
structure Hopper where
  /-- 64 slots (14 R414). Reset: FREE, cleared. -/
  slots : Tab Slot := []
  /-- QUEUED slots in doorbell order; HOPSTAT.QUEUED is its length (14 R415, R422). Reset: empty. -/
  queue : List Nat := []
  /-- doorbells rung since the last reset, which give Slot.bell (14 R422). Reset: 0 (DESIGN CHOICE, log 3). -/
  bells : Nat := 0
  /-- HOPSTAT.FALLBACK (14 R415, 17 R523). Reset: 0. -/
  fallback : Bool := false
  /-- HOPSTAT.ERR (14 R415). Reset: 0. -/
  err : Bool := false
  /-- HOPSTAT.LASTTAG, 16 bits (14 R415). Reset: 0. -/
  lasttag : BitVec 16 := 0
  /-- HOPSTAT.DONECNT, 32 bits modulo (14 R415). Reset: 0. -/
  donecnt : Nat := 0
  deriving DecidableEq, Repr, Inhabited

/-! ### Feedback, emulation, weirs, sluices -/

/-- A feedback channel (R454). -/
structure Fb where
  /-- FBCFGn, 64 bits (15 R454). Reset: POSLEAT FFh, SPDLEAT FFh, FCLK C8h, STILLTO 03E8h. -/
  cfg : W64 := 0x0003E8C8_00FFFF00
  /-- FBCPRn: CPR, SLIPTHR (15 R454). Reset: 001000h, 0010h. -/
  cpr : W64 := 0x00000010_00001000
  /-- FBPOSn.POS, 32 bits (15 R454). Reset: 0. -/
  pos : W32 := 0
  /-- FBIDXn.IDXPOS, 32 bits (15 R454). Reset: 0. -/
  idxpos : W32 := 0
  /-- FBIDXn.IDXREF, 32 bits (15 R454). Reset: 0. -/
  idxref : W32 := 0
  /-- FBSPDn.SPEED, 32 bits signed (15 R454). Reset: 0. -/
  speed : W32 := 0
  /-- FBSPDn.INTERVAL, 24 bits (15 R454). Reset: 0. -/
  interval : BitVec 24 := 0
  /-- FBSPDn.STILL (15 R454). Reset: 1. -/
  still : Bool := true
  /-- FBSPDn.ESTIMATE (15 R454). Reset: 0. -/
  estimate : Bool := false
  /-- FBSPDn.DIR (15 R454). Reset: 1. -/
  dir : Bool := true
  /-- FBSLIPn.SLIPACC, 16 bits signed (15 R454). Reset: 0. -/
  slipacc : Int := 0
  /-- FBSLIPn.LASTDEV, 24 bits signed (15 R454). Reset: 0. -/
  lastdev : Int := 0
  /-- FBSTn.IDXSEEN (15 R454). Reset: 0. -/
  idxseen : Bool := false
  /-- FBSTn.SLIPFAULT (15 R454). Reset: 0. -/
  slipfault : Bool := false
  /-- FBSTn.ERR (15 R454). Reset: 0. -/
  err : Bool := false
  /-- FBSTn.COINC, 8 bits saturating (15 R454). Reset: 0. -/
  coinc : Nat := 0
  deriving DecidableEq, Repr, Inhabited

/-- An encoder emulation channel (R457). -/
structure Emu where
  /-- EMUCFGn, 64 bits (15 R457). Reset: MUL 010000h, ECPR 001000h, MINSTEP 04h. -/
  cfg : W64 := 0x04001000_01000000
  /-- EMUSTn.OUTCNT, shown modulo 2^32 (15 R457). Reset: 0. -/
  outcnt : Int := 0
  /-- EMUSTn.OVF (15 R457). Reset: 0. -/
  ovf : Bool := false
  /-- EMUSTn.RESTART (15 R457). Reset: 0. -/
  restart : Bool := false
  /-- EMUSTn.ERR (15 R457). Reset: 0. -/
  err : Bool := false
  /-- P0, the POS at the start of emulation (15 R456). Reset: 0. -/
  p0 : W32 := 0
  /-- POS − P0 of the channel's 32-bit signed POS, in 64 bits (15 R456; log 50). Reset: 0. -/
  moved : Int := 0
  /-- EMU_A, EMU_B, EMU_Z (02 R63). Reset: 0 (02 R64). -/
  outs : BitVec 3 := 0
  deriving DecidableEq, Repr, Inhabited

/-- A weir (R460). -/
structure Weir where
  /-- WEIRCFGw, 48 bits (15 R460). Reset: 0. -/
  cfg : W64 := 0
  /-- WEIRSTw.LAT (15 R460). Reset: 1. -/
  lat : Bool := true
  /-- WEIRSTw.CODEOK (15 R460). Reset: 0. -/
  codeok : Bool := false
  /-- WEIRSTw.ERR (15 R460). Reset: 0. -/
  err : Bool := false
  /-- WEIRSTw.TRIPCNT, 8 bits saturating (15 R460). Reset: 0. -/
  tripcnt : Nat := 0
  /-- WEIR_CODEw, 12 bits (02 R61). Reset: 000h (02 R62). -/
  code : BitVec 12 := 0
  /-- WEIR_CLRw pulsed at the last step that could pulse it (02 R61, 15 R461). Reset: 0 (02 R62). -/
  clr : Bool := false
  deriving DecidableEq, Repr, Inhabited

/-- A sluice group (R464). -/
structure Sluice where
  /-- SLUICEg.ARM and SLUICE_ARMg (15 R464, 02 R62). Reset: 1. -/
  arm : Bool := true
  /-- SLUICEg.ST (15 R464). Reset: 0. -/
  st : Bool := false
  /-- SLUICEg.TRIPPED (15 R464). Reset: 0. -/
  tripped : Bool := false
  /-- SLUICEg.ERR (15 R464). Reset: 0. -/
  err : Bool := false
  /-- SLUICEg.TRIPCNT, 8 bits saturating (15 R464). Reset: 0. -/
  tripcnt : Nat := 0
  /-- SLUICEg.CAUSE, 7 bits (15 R464). Reset: 0. -/
  cause : Nat := 0
  /-- SLUICEg.CAUSEV (15 R464). Reset: 0. -/
  causev : Bool := false
  /-- ARM was pulsed low for one status clock by the last REARM (15 R464). Reset: 0. -/
  pulsed : Bool := false
  deriving DecidableEq, Repr, Inhabited

/-! ### Reset and clocks -/

/-- CLKMONd (R500). -/
structure ClkMon where
  /-- CLKMONd.STABLE (16 R500). Reset: 0 in the table; 1 after the release of the domain (16 R479). -/
  stable : Bool := true
  /-- CLKMONd.HELD (16 R500). Reset: 1 in the table; 0 after the release of the domain. -/
  held : Bool := false
  /-- CLKMONd.GATED (16 R500). Reset: 0. -/
  gated : Bool := false
  /-- CLKMONd.FAIL (16 R500). Reset: 0. -/
  fail : Bool := false
  /-- CLKMONd.FAILCNT, 8 bits saturating (16 R500). Reset: 0. -/
  failcnt : Nat := 0
  /-- CLKMONd.FMEAS, 16 bits (16 R500). Reset: 0. -/
  fmeas : BitVec 16 := 0
  deriving DecidableEq, Repr, Inhabited

/-- Where the reset controller stands in a complex reset (R479, R481, R494). -/
inductive RstPhase where
  | run | assert (lvl : Nat) | release (lvl : Nat) | storm
  deriving DecidableEq, Repr, Inhabited

/-- A raised reset source that has not yet been applied (R471): SRC, level, scope (wheel or mill), failing domain. -/
structure RstReq where
  src : Nat
  level : Nat
  scope : Nat
  domain : Nat
  deriving DecidableEq, Repr, Inhabited

/-- Reset controller, always-on domain and watchdog (16). -/
structure ResetSt where
  /-- phase of a complex reset (16 R481). Reset: released. -/
  phase : RstPhase := .run
  /-- RSTCAUSE, 32 bits (16 R495). Reset: SRC 1h, LEVEL 100b after a power-on L4. -/
  cause : W32 := 0x41
  /-- RSTMAP, 30 bits (16 R472). Reset: from fuses, floors applied. -/
  map : W64 := 0
  /-- raised sources not yet applied (16 R471, R473). Reset: none. -/
  reqs : List RstReq := []
  /-- PORn, BORn, RSTn are low and hold reset (16 R474, R475). Reset: no. -/
  porLow : Bool := false
  borLow : Bool := false
  pinLow : Bool := false
  /-- domains released in the current sequence (16 R479). -/
  fused : Bool := true
  /-- hold timer runs after an L2 (16 R483, R484). Reset: no. -/
  hold : Bool := false
  /-- the L2 found ROLE other than simplex (16 R486). Reset: no. -/
  wasPaired : Bool := false
  /-- losses to record in RSTCAUSE at release (16 R481 step 10, R492). Reset: none. -/
  losses : W32 := 0
  /-- AOTIME, 48 bits (16 R493). Reset: 0. -/
  aotime : BitVec 48 := 0
  /-- the model's own: quarter ns since the last ao edge (log 5). Reset: 0 (DESIGN CHOICE). -/
  aoAcc : Nat := 0
  /-- WDCFG.EN (16 R476). Reset: 0. -/
  wdEn : Bool := false
  /-- WDCFG.TMO, 4 bits (16 R476). Reset: 0h. -/
  wdTmo : Nat := 0
  /-- WDCFG.PRE, 2 bits (16 R476). Reset: 00b. -/
  wdPre : Nat := 0
  /-- WDCFG.HOPKICK (16 R476). Reset: 0. -/
  wdHop : Bool := false
  /-- WDCFG.ERR (16 R476). Reset: 0. -/
  wdErr : Bool := false
  /-- watchdog count in ao; WDCFG.CNT shows units of 32 ao (16 R476, R477). Reset: 0. -/
  wdCnt : Nat := 0
  /-- the pre-warning of this count has been raised (16 R477). Reset: no. -/
  wdWarned : Bool := false
  /-- WDSERVE, 64 bits (16 R476). Reset: 0. -/
  wdServe : W64 := 0
  /-- RSTREQ.ERR (16 R478). Reset: 0. -/
  reqErr : Bool := false
  /-- RSTINST.ERR (16 R478). Reset: 0. -/
  instErr : Bool := false
  /-- RSTCTL.DRVREL (16 R480). Reset: 0. -/
  drvrel : Bool := false
  /-- PORTST.HUNGHI (16 R489). Reset: 0. -/
  hungHi : Bool := false
  /-- BKUP0 to BKUP15, 32 bits (11 R346, 16 R493, R496). Reset: 0. -/
  bkup : Tab W32 := []
  /-- backup registers with error marks (11 R328). Reset: none. -/
  bkupEcc : Tab Ecc := []
  /-- CLKMON0 to CLKMON63 (16 R500). Reset: see ClkMon. -/
  clk : Tab ClkMon := []
  /-- the REFCLK monitor in the reset controller reports STABLE (16 R479, R499). Reset: yes, after the release that
  State.reset stands behind. -/
  refStable : Bool := true
  /-- VCORE, VMEM at full level, VPS present (02 R79, 17 R520). Reset: yes. -/
  vcore : Bool := true
  vmem : Bool := true
  vps : Bool := true
  /-- the complex is in RETENTION (01 R49). Reset: no. -/
  retention : Bool := false
  /-- the supplies are removed: OFF (01 R49). Reset: no. -/
  off : Bool := false
  deriving DecidableEq, Repr, Inhabited

/-! ### The Miller -/

/-- A sensor (R504, R507). -/
structure Sensor where
  /-- VALUE, 16 bits (17 R507). Reset: 0 (DESIGN CHOICE, log 3; VALID is 0). -/
  value : BitVec 16 := 0
  /-- PEAK, 16 bits (17 R507). Reset: 0 (log 3). -/
  peak : BitVec 16 := 0
  /-- VALID (17 R507). Reset: 0. -/
  valid : Bool := false
  /-- ALARMHI, ALARMLO, TRIPPED (17 R507). Reset: 0. -/
  hi : Bool := false
  lo : Bool := false
  trip : Bool := false
  /-- consecutive samples beyond and inside each limit (17 R506). Reset: 0. -/
  nHi : Nat := 0
  nLo : Nat := 0
  nTrip : Nat := 0
  okHi : Nat := 0
  okLo : Nat := 0
  okTrip : Nat := 0
  deriving DecidableEq, Repr, Inhabited

/-- A boot record (R518). -/
structure BootRec where
  /-- VALID (17 R518). Reset: 0, never kept. -/
  valid : Bool := false
  kept : Bool := false
  gen : BitVec 16 := 0
  imageId : W64 := 0
  keyIdx : Nat := 0
  length : Nat := 0
  mills : BitVec 16 := 0
  haddr : BitVec 24 := 0
  digest : BitVec 384 := 0
  deriving DecidableEq, Repr, Inhabited

/-- The Miller (17). -/
structure Miller where
  /-- TEMPLIMt, 33 bits, t = 0 to 7 (17 R505). Reset: WARN 0348h, TRIP 03E8h, TRIPACT 0. -/
  templim : Tab W64 := []
  /-- SUPLIMr, 32 bits, r = 0 to 3 (17 R505). Reset: LOW 0000h, HIGH FFFFh. -/
  suplim : Tab W64 := []
  /-- sensors: temperatures 0 to 7, supplies 8 to 11 (17 R504). Reset: not sampled. -/
  sensors : Tab Sensor := []
  /-- kept microcode images: IMAGEID, digest, bytes, in up to 16 slots (17 R501, R515). Reset: empty. -/
  images : List (W64 × BitVec 384 × List Byte) := []
  /-- boot records A and B in mill 0's lines 14047 to 14050 (17 R518). Reset: never kept. -/
  bootA : BootRec := {}
  bootB : BootRec := {}
  /-- MBARG0 to MBARG3, 64 bits (17 R525). Reset: 0. -/
  arg : Tab W64 := []
  /-- MBRES0 to MBRES7, 64 bits (17 R525). Reset: 0. -/
  res : Tab W64 := []
  /-- MBSTAT.BUSY (17 R525). Reset: 0. -/
  busy : Bool := false
  /-- MBSTAT.DONE (17 R525). Reset: 0. -/
  done : Bool := false
  /-- MBSTAT.ERR (17 R525). Reset: 0. -/
  err : Bool := false
  /-- MBSTAT.RETRDY (17 R525, R520). Reset: 0. -/
  retrdy : Bool := false
  /-- MBSTAT.RESULT, 8 bits (17 R525). Reset: 0. -/
  result : Nat := 0
  /-- key hashes 0 to 3 in the Miller's SRAM, 384 bits (17 R503). Reset: 0, as the unprogrammed fuses. -/
  keys : Tab (BitVec 384) := []
  /-- REVOKE, 4 bits (17 R503). Reset: 0. -/
  revoke : BitVec 4 := 0
  /-- a boot from kept images is due or in progress: 0 none, 1 first record, 2 second record (17 R518). Reset: 0. -/
  boot : Nat := 0
  /-- the log has to be rebuilt before it opens (17 R513). Reset: yes. -/
  rebuild : Bool := false
  /-- reset history entries that the Miller has copied into the log since the last L4 (16 R496). Reset: 0. -/
  histDone : Nat := 0
  /-- the spare substitution has to be re-applied (17 R519). Reset: yes. -/
  reapply : Bool := false
  deriving DecidableEq, Repr, Inhabited

/-- SVCSTAT (R532). -/
structure Svc where
  /-- SVCSTAT.MFAIL, 16 bits (18 R532). Reset: 0. -/
  mfail : BitVec 16 := 0
  /-- SVCSTAT.BFAIL, 16 bits (18 R532). Reset: 0. -/
  bfail : BitVec 16 := 0
  /-- SVCSTAT.SPFAIL (18 R532). Reset: 0. -/
  spfail : Bool := false
  /-- SVCSTAT.MRUN and MTGT (18 R532). Reset: 0. -/
  mrun : Bool := false
  mtgt : Nat := 0
  /-- SVCSTAT.BRUN and BTGT (18 R532). Reset: 0. -/
  brun : Bool := false
  btgt : Nat := 0
  /-- SVCSTAT.TESTCNT, 16 bits saturating (18 R532). Reset: 0. -/
  testcnt : Nat := 0
  /-- EVCFG and EVROUTE bits moved away by LOOP_MIGRATE KIND 1 (14 R439). Reset: none. -/
  moved : Option (Nat × Nat) := none
  deriving DecidableEq, Repr, Inhabited

/-- What a debug read captures (R537): a word of a wheel's memory, a microword, a custom dispatch entry, or the fields of a register
or trace record. -/
inductive DbgWord where
  | word (x : TWord) | micro (x : BitVec 112) | cdt (x : W64) | reg (x : W64)
  deriving DecidableEq, Repr, Inhabited

/-- The last host-port response (R70): OK or ERR, and the read data. -/
structure HpResp where
  ok : Bool := true
  data : List W64 := []
  deriving DecidableEq, Repr, Inhabited

/-- CALIBRATE_WEIR in progress on a weir (R468): hopper slot, code applied, readbacks asked for and received. -/
structure Calib where
  weir : Nat
  slot : Nat
  settling : Bool
  count : Nat
  got : List (BitVec 16)
  deriving DecidableEq, Repr, Inhabited

/-! ### The complex -/

/-- The state of the complex. -/
structure State where
  /-- commands waiting, first in, first out (the row's cut). Reset: empty. -/
  pending : List Instr
  /-- the model's own: counter of free values (log 6). Reset: 0 (DESIGN CHOICE). -/
  free : Nat
  /-- the model's own: order stamp of the next wake source occurrence (03 R85). Reset: 0 (DESIGN CHOICE). -/
  order : Nat
  /-- ring time, ns [63:0] and fraction [15:0] (13 R394). Reset: 0. -/
  ring_time : RingStamp
  /-- RINGFRAC.FRAC, 16 bits (13 R412). Reset: 0 (DESIGN CHOICE, log 3). -/
  ringfrac : BitVec 16
  /-- the host's fuse array, 2,048 words of 32 bits (02 R77, R78, 17 R502). Reset: unprogrammed, 0 (DESIGN CHOICE, log 2). -/
  fuse : Tab W32
  /-- fuse shadow, 64 words of 32 bits (17 R503). Reset: as the fuses. -/
  fuseSh : Tab W32
  /-- CAPS.ID (00 R11). Reset: 0 until fuse sense; VALID 1, GEN 02h, MODEL 40h after it. -/
  capsId : W64
  /-- CAPS.UNITS (00 R12). Reset: 0 until fuse sense; MILLS 10h, WPM 100b, ISA14, VLMC after it. -/
  capsUnits : W64
  /-- MILLCFG.STANDBY, 5 bits (01 R27). Reset: 0Fh. -/
  standby : Nat
  /-- MILLCFG.OCCUPIED (01 R27). Reset: 0. -/
  occupied : Bool
  /-- MILLCFG.ERR (01 R27). Reset: 0. -/
  millcfgErr : Bool
  /-- 16 mills (01 R23). Reset: see Mill. -/
  mills : Tab Mill
  /-- 64 wheels (01 R18). Reset: see Wheel. -/
  wheels : Tab Wheel
  /-- Control segment descriptor table, 256 entries of 64 bits (05 R164). Reset: 0. -/
  segC : Tab W64
  /-- Service segment descriptor table, 256 entries of 64 bits (05 R164). Reset: 0. -/
  segS : Tab W64
  /-- Control exception descriptor table, 64 entries of 64 bits (10 R287). Reset: 0. -/
  excC : Tab W64
  /-- Service exception descriptor table, 64 entries of 64 bits (10 R287). Reset: 0. -/
  excS : Tab W64
  /-- FENTRY of the Control world, 64 bits (10 R305). Reset: 0. -/
  fentC : W64
  /-- FENTRY of the Service world, 64 bits (10 R305). Reset: 0. -/
  fentS : W64
  /-- EVROUTE[36] to EVROUTE[48], 64 bits each (10 R291). Reset: 0. -/
  evroute : Tab W64
  /-- defined frames by frame number 0 to 511 (03 R89, 14 R432). Reset: none. -/
  frames : Tab (Option FrameDef)
  /-- 192 sails (03 R100). Reset: see Sail. -/
  sails : Tab Sail
  /-- 8 timebases (02 R60). Reset: see Timebase. -/
  tbs : Tab Timebase
  /-- 256 leats (03 R119). Reset: see Leat. -/
  leats : Tab Leat
  /-- tailrace (03 R116). Reset: empty. -/
  tail : Tailrace
  /-- millpond banks 0 to 15, 4 Mi words of 36 bits (11 R323). Reset: EMPTY (11 R343). -/
  mp : Ram TWord
  /-- spare bank 16, 256 Ki words of 36 bits (11 R334). Reset: EMPTY (11 R343). -/
  spareRam : Ram TWord
  /-- SPARECTL (11 R334). Reset: see Spare. -/
  spare : Spare
  /-- memory registers (11 R333, R339). Reset: see MemRegs. -/
  mem : MemRegs
  /-- retained memory, 2,048 words of 36 bits (11 R344). Reset: EMPTY (11 R343). -/
  retained : Ram TWord
  /-- fantail, mirror engine, TWIN registers (12). Reset: see Twin. -/
  twin : Twin
  /-- 4 lanes (12 R353). Reset: see Lane. -/
  lanes : Tab Lane
  /-- intent ring controller (13). Reset: see Ring. -/
  ring : Ring
  /-- hopper C (14 R414). Reset: see Hopper. -/
  hopC : Hopper
  /-- hopper S (14 R414). Reset: see Hopper. -/
  hopS : Hopper
  /-- 8 feedback channels (15 R454). Reset: see Fb. -/
  fbs : Tab Fb
  /-- 8 emulation channels (15 R457). Reset: see Emu. -/
  emus : Tab Emu
  /-- 96 weirs (15 R460). Reset: see Weir. -/
  weirs : Tab Weir
  /-- 24 sluice groups (15 R464). Reset: see Sluice. -/
  sluices : Tab Sluice
  /-- CALIBRATE_WEIR commands in progress, and the request word of the outstanding readback (15 R467, R468). Reset:
  none. -/
  calibs : List Calib
  readback : Option W32
  /-- a refused readback request waits to be written again (15 R467). Reset: no. -/
  rbRetry : Bool
  /-- reset controller, always-on domain, watchdog (16). Reset: see ResetSt. -/
  rst : ResetSt
  /-- the Miller (17). Reset: see Miller. -/
  miller : Miller
  /-- SVCSTAT (18 R532). Reset: see Svc. -/
  svc : Svc
  /-- last host-port response (02 R70). Reset: none. -/
  hpResp : HpResp
  /-- data of the last debug read (18 R537). Reset: none. -/
  dbgData : Option DbgWord
  /-- open segment insertion bits: RSTINST 0, WDBGw 1 + w, MEMACCw 65 + w, CSREADm 129 + m, CLKMON 145, TRACEm
  146 + m (18 R537). Reset: closed. -/
  sibs : Tab Bool
  deriving DecidableEq, Repr

/-- Reasons for which the block would stop. No step of this block stops with a fault: a fault of wheel code is
an exception that the state records (R284), and an access to an address that holds nothing is answered by the
bus rules of R72 and R76. The one constructor is raised by no meaning; it is safe. -/
inductive Fault where
  | none
  deriving DecidableEq, Repr

/-- Refusals. `notModelled` stands for a command without a meaning (safe: a run that meets it stops).
`illFormed` is raised by commands whose operands no sender can present: a host-port request of no beats or
of more than eight (R70), and UNDEFINED_OPCODE with a word that R179 defines; safe, because such a step does
not exist. -/
inductive Refusal where
  | notModelled (mnemonic : String)
  | illFormed
  deriving DecidableEq, Repr

/-- The complex just after a completed power-on L4 reset with an unprogrammed fuse array (R481 step 10, log 1, 2). -/
def State.reset : State :=
  { pending := [], free := 0, order := 0, ring_time := ⟨0, 0⟩, ringfrac := 0, fuse := [], fuseSh := [],
    capsId := 0x400201, capsUnits := 0x3090, standby := 15, occupied := false, millcfgErr := false,
    mills := [], wheels := [], segC := [], segS := [], excC := [], excS := [], fentC := 0, fentS := 0,
    evroute := [], frames := [], sails := [], tbs := [], leats := [], tail := {}, mp := {}, spareRam := {},
    spare := {}, mem := {}, retained := {}, twin := {}, lanes := [], ring := {}, hopC := {}, hopS := {},
    fbs := [], emus := [], weirs := [], sluices := [], calibs := [], readback := none, rbRetry := false,
    rst := { map := 0x88093, clk := [(57, { stable := false })] },
    miller := { rebuild := true, reapply := true }, svc := {}, hpResp := {}, dbgData := none, sibs := [] }

end Sys2Proof.Machine
end

