-- ==== Sys2Proof/Machine/Tab.lean ====
section
/-! DEFINITION. Reading and writing a sparse table, and bit fields of registers. -/

namespace Sys2Proof.Machine

/-- The entry at key `k`; an unlisted key reads as the default. -/
def tget {α : Type} (d : α) : Tab α → Nat → α
  | [], _ => d
  | (j, v) :: t, k => if j = k then v else tget d t k

/-- The table without key `k`. -/
def tdel {α : Type} : Tab α → Nat → Tab α
  | [], _ => []
  | (j, v) :: t, k => if j = k then tdel t k else (j, v) :: tdel t k

/-- The table with key `k`, which it does not hold, put in ascending place. -/
def tins {α : Type} : Tab α → Nat → α → Tab α
  | [], k, v => [(k, v)]
  | (j, x) :: t, k, v => if k < j then (k, v) :: (j, x) :: t else (j, x) :: tins t k v

/-- Writing key `k`: the default value removes the entry, so that equal tables are equal data. -/
def tset {α : Type} [DecidableEq α] (d : α) (t : Tab α) (k : Nat) (v : α) : Tab α :=
  if v = d then tdel t k else tins (tdel t k) k v

/-- The canonical form of a table: keys strictly rising, above `lo`, no entry equal to the default. -/
def tabFrom {α : Type} [DecidableEq α] (d : α) : Nat → Tab α → Bool
  | _, [] => true
  | lo, (k, v) :: t => decide (lo ≤ k) && decide (v ≠ d) && tabFrom d (k + 1) t

/-- The canonical form of a table. -/
def tabWf {α : Type} [DecidableEq α] (d : α) (t : Tab α) : Bool := tabFrom d 0 t

/-- The listed keys below `n`, in ascending order. -/
def tkeys {α : Type} (n : Nat) (t : Tab α) : List Nat := (List.range n).filter fun k => t.any fun p => p.1 == k

/-- A field of `n` bits at bit `lo`, as a number. -/
def fld {w : Nat} (x : BitVec w) (lo n : Nat) : Nat := (x.toNat / 2 ^ lo) % 2 ^ n

/-- One bit. -/
def bitOf {w : Nat} (x : BitVec w) (i : Nat) : Bool := x.getLsbD i

/-- `x` with the field of `n` bits at `lo` replaced by `v`. -/
def setFld {w : Nat} (x : BitVec w) (lo n v : Nat) : BitVec w :=
  BitVec.ofNat w (x.toNat - fld x lo n * 2 ^ lo + v % 2 ^ n * 2 ^ lo)

/-- A register put together from fields given by their lowest bit and value; the fields do not overlap. -/
def pk : List (Nat × Nat) → W64
  | [] => 0
  | (lo, v) :: t => BitVec.ofNat 64 (v * 2 ^ lo) ||| pk t

/-- A Boolean as a bit. -/
def b2n (b : Bool) : Nat := if b then 1 else 0

/-- The mask of the bytes that a beat's byte enables select (R70). -/
def beMask (be : BitVec 8) : W64 :=
  (List.range 8).foldl (fun m i => if be.getLsbD i then m ||| (0xFF#64 <<< (8 * i)) else m) 0

/-- A register after a beat: the enabled bytes are replaced. -/
def mergeBe (old v : W64) (be : BitVec 8) : W64 := (old &&& ~~~ (beMask be)) ||| (v &&& beMask be)

/-- Only the writable bits of `old` are replaced by those of `v`, in the enabled bytes. -/
def mergeRw (rw old v : W64) (be : BitVec 8) : W64 :=
  (old &&& ~~~ (rw &&& beMask be)) ||| (v &&& (rw &&& beMask be))

/-- Counting up to a ceiling. -/
def satInc (cap n : Nat) : Nat := if n < cap then n + 1 else cap

/-- Element `i` of a list, or the default. -/
def nth {α : Type} (d : α) (l : List α) (i : Nat) : α := (l[i]?).getD d

/-- Element `i` of a list replaced; a list that is too short is left alone. -/
def setNth {α : Type} (l : List α) (i : Nat) (v : α) : List α := l.set i v

end Sys2Proof.Machine
end

