-- ==== Sys2Proof/Machine/Ops.lean ====
section
/-! DEFINITION. The named operations over the state: access to the numbered units, memories with check bits,
power states, events, trace and sails. -/

namespace Sys2Proof.Machine

/-! ### Units by number -/

def getWheel (s : State) (w : Nat) : Wheel := tget {} s.wheels w
def setWheel (s : State) (w : Nat) (x : Wheel) : State := { s with wheels := tset {} s.wheels w x }
def modWheel (s : State) (w : Nat) (f : Wheel → Wheel) : State := setWheel s w (f (getWheel s w))
def getMill (s : State) (m : Nat) : Mill := tget {} s.mills m
def setMill (s : State) (m : Nat) (x : Mill) : State := { s with mills := tset {} s.mills m x }
def modMill (s : State) (m : Nat) (f : Mill → Mill) : State := setMill s m (f (getMill s m))
def getSail (s : State) (n : Nat) : Sail := tget {} s.sails n
def setSail (s : State) (n : Nat) (x : Sail) : State := { s with sails := tset {} s.sails n x }
def modSail (s : State) (n : Nat) (f : Sail → Sail) : State := setSail s n (f (getSail s n))
def getTb (s : State) (t : Nat) : Timebase := tget {} s.tbs t
def modTb (s : State) (t : Nat) (f : Timebase → Timebase) : State :=
  { s with tbs := tset {} s.tbs t (f (getTb s t)) }
def getLeat (s : State) (n : Nat) : Leat := tget {} s.leats n
def modLeat (s : State) (n : Nat) (f : Leat → Leat) : State :=
  { s with leats := tset {} s.leats n (f (getLeat s n)) }
def getLane (s : State) (k : Nat) : Lane := tget {} s.lanes k
def modLane (s : State) (k : Nat) (f : Lane → Lane) : State :=
  { s with lanes := tset {} s.lanes k (f (getLane s k)) }
def getMem (s : State) (i : Nat) : RingMem := tget {} s.ring.mem i
def modRing (s : State) (f : Ring → Ring) : State := { s with ring := f s.ring }
def modMem (s : State) (i : Nat) (f : RingMem → RingMem) : State :=
  modRing s fun r => { r with mem := tset {} r.mem i (f (tget {} r.mem i)) }
def modTwin (s : State) (f : Twin → Twin) : State := { s with twin := f s.twin }
def getHop (s : State) : HopId → Hopper
  | .c => s.hopC
  | .s => s.hopS
def setHop (s : State) (h : HopId) (x : Hopper) : State :=
  match h with
  | .c => { s with hopC := x }
  | .s => { s with hopS := x }
def modHop (s : State) (h : HopId) (f : Hopper → Hopper) : State := setHop s h (f (getHop s h))
def getSlot (s : State) (h : HopId) (n : Nat) : Slot := tget {} (getHop s h).slots n
def modSlot (s : State) (h : HopId) (n : Nat) (f : Slot → Slot) : State :=
  modHop s h fun x => { x with slots := tset {} x.slots n (f (tget {} x.slots n)) }
def getFb (s : State) (n : Nat) : Fb := tget {} s.fbs n
def modFb (s : State) (n : Nat) (f : Fb → Fb) : State := { s with fbs := tset {} s.fbs n (f (getFb s n)) }
def getEmu (s : State) (n : Nat) : Emu := tget {} s.emus n
def modEmu (s : State) (n : Nat) (f : Emu → Emu) : State := { s with emus := tset {} s.emus n (f (getEmu s n)) }
def getWeir (s : State) (n : Nat) : Weir := tget {} s.weirs n
def modWeir (s : State) (n : Nat) (f : Weir → Weir) : State := { s with weirs := tset {} s.weirs n (f (getWeir s n)) }
def getSluice (s : State) (n : Nat) : Sluice := tget {} s.sluices n
def modSluice (s : State) (n : Nat) (f : Sluice → Sluice) : State :=
  { s with sluices := tset {} s.sluices n (f (getSluice s n)) }
def getClk (s : State) (d : Nat) : ClkMon := tget {} s.rst.clk d
def modRst (s : State) (f : ResetSt → ResetSt) : State := { s with rst := f s.rst }
def modClk (s : State) (d : Nat) (f : ClkMon → ClkMon) : State :=
  modRst s fun r => { r with clk := tset {} r.clk d (f (tget {} r.clk d)) }
def modMiller (s : State) (f : Miller → Miller) : State := { s with miller := f s.miller }
def modMemR (s : State) (f : MemRegs → MemRegs) : State := { s with mem := f s.mem }
def modSvc (s : State) (f : Svc → Svc) : State := { s with svc := f s.svc }
def getFrame (s : State) (n : Nat) : Option FrameDef := tget none s.frames n
def setFrame (s : State) (n : Nat) (f : Option FrameDef) : State := { s with frames := tset none s.frames n f }
def modFrame (s : State) (n : Nat) (f : FrameDef → FrameDef) : State := setFrame s n ((getFrame s n).map f)

/-- Clock domain `d` is in reset (R479, R500); the domains of R497 of a lane, a feedback channel and a leat's cluster. -/
def domHeld (s : State) (d : Nat) : Bool := (getClk s d).held
def rxHeld (s : State) (k : Nat) : Bool := domHeld s (19 + 2 * k)
def txHeld (s : State) (k : Nat) : Bool := domHeld s (18 + 2 * k)
def laneHeld (s : State) (k : Nat) : Bool := rxHeld s k || txHeld s k
def fbHeld (s : State) (n : Nat) : Bool := domHeld s (50 + n / 2)
def leatHeld (s : State) (n : Nat) : Bool := domHeld s (26 + n / 16)

/-- The mill and the position of a wheel (R18). -/
def millOf (w : Nat) : Nat := w / 4
def posOf (w : Nat) : Nat := w % 4

/-- The same change applied for each number of a list, in order. -/
def forAll (s : State) (l : List Nat) (f : State → Nat → State) : State := l.foldl f s

/-! ### Tagged words -/

def emptyW : TWord := ⟨.empty, 0⟩
def poisonW : TWord := ⟨.poison, 0⟩
def intW (n : Nat) : TWord := ⟨.int, BitVec.ofNat 32 n⟩

/-- The tag codes of R141. -/
def tagCode : Tag → Nat
  | .int => 0 | .q31 => 1 | .q16 => 2 | .q31s => 3 | .q16s => 4 | .f32 => 5 | .addr => 6 | .code => 7
  | .ret => 8 | .sample => 9 | .duty => 10 | .time => 11 | .rsvC => 12 | .rsvD => 13 | .poison => 14 | .empty => 15

/-- The tag with a given code. -/
def tagOf (n : Nat) : Tag :=
  match n % 16 with
  | 0 => .int | 1 => .q31 | 2 => .q16 | 3 => .q31s | 4 => .q16s | 5 => .f32 | 6 => .addr | 7 => .code
  | 8 => .ret | 9 => .sample | 10 => .duty | 11 => .time | 12 => .rsvC | 13 => .rsvD | 14 => .poison | _ => .empty

/-- The reserved tags Ch and Dh (R141). -/
def isRsv : Tag → Bool
  | .rsvC | .rsvD => true
  | _ => false

/-- The tags that PTR guards (R167). -/
def isPtr : Tag → Bool
  | .addr | .code | .ret => true
  | _ => false

/-! ### Power states (R340) -/

/-- The deeper of two power codes: ON, RETAIN, OFF. -/
def deeper (a b : Nat) : Nat := max a b

def spField (s : State) (w : Nat) : Nat := if w < 32 then fld s.mem.sppwr0 (2 * w) 2 else fld s.mem.sppwr1 (2 * (w - 32)) 2
def pinField (s : State) (w : Nat) : Nat := if w < 32 then fld s.mem.pinpwr0 (2 * w) 2 else fld s.mem.pinpwr1 (2 * (w - 32)) 2

/-- A power transition of field `i` of a register is in progress: the memory is not ON before its end (R341). -/
def pwrMoves (s : State) (r : PwrReg) (i : Nat) : Bool := s.mem.trans.any fun t => t.reg == r && t.idx == i

/-- The registers and fields of a wheel's scratchpad and pinned store (R339). -/
def spReg (w : Nat) : PwrReg := if w < 32 then .sp0 else .sp1
def pinReg (w : Nat) : PwrReg := if w < 32 then .pin0 else .pin1

def spadOn (s : State) (w : Nat) : Bool :=
  deeper (spField s w) (getMill s (millOf w)).pstate == 0 && !pwrMoves s (spReg w) (w % 32) && !s.rst.retention
def pinOn (s : State) (w : Nat) : Bool :=
  deeper (pinField s w) (getMill s (millOf w)).pstate == 0 && !pwrMoves s (pinReg w) (w % 32) && !s.rst.retention
def csOn (s : State) (m : Nat) : Bool :=
  deeper (fld s.mem.cspwr (2 * m) 2) (getMill s m).pstate == 0 && !pwrMoves s .cs m && !s.rst.retention
def bankOn (s : State) (b : Nat) : Bool :=
  fld s.mem.bankpwr (2 * b) 2 == 0 && !pwrMoves s .bank b && !s.rst.retention

/-! ### Memories with check bits (R328 to R331) -/

/-- The error mark of a word. -/
def getEcc (s : State) (m : MemSel) (a : Nat) : Ecc :=
  match m with
  | .spad w => tget .ok (getWheel s w).spad.ecc a
  | .pinned w => tget .ok (getWheel s w).pinned.ecc a
  | .millpond => tget .ok s.mp.ecc a
  | .spare => tget .ok s.spareRam.ecc a
  | .retained => tget .ok s.retained.ecc a
  | .backup => tget .ok s.rst.bkupEcc a

def setEcc (s : State) (m : MemSel) (a : Nat) (e : Ecc) : State :=
  match m with
  | .spad w => modWheel s w fun x => { x with spad := { x.spad with ecc := tset .ok x.spad.ecc a e } }
  | .pinned w => modWheel s w fun x => { x with pinned := { x.pinned with ecc := tset .ok x.pinned.ecc a e } }
  | .millpond => { s with mp := { s.mp with ecc := tset .ok s.mp.ecc a e } }
  | .spare => { s with spareRam := { s.spareRam with ecc := tset .ok s.spareRam.ecc a e } }
  | .retained => { s with retained := { s.retained with ecc := tset .ok s.retained.ecc a e } }
  | .backup => modRst s fun r => { r with bkupEcc := tset .ok r.bkupEcc a e }

/-- UESRC of a memory (R333); the spare bank counts as millpond. -/
def ueSrc : MemSel → Nat
  | .spad _ => 1 | .millpond => 2 | .spare => 2 | .pinned _ => 3 | .retained => 4 | .backup => 5

/-- The wheel of a per-wheel memory. -/
def ueWheel : MemSel → Nat
  | .spad w => w | .pinned w => w | _ => 0

/-- MEMERR.UEWHEEL after an uncorrectable error: the wheel of the last scratchpad or pinned-store error (R333). -/
def ueWheelOr (old : Nat) : MemSel → Nat
  | .spad w => w | .pinned w => w | _ => old

def isUe : Ecc → Bool
  | .ue | .ueSeen => true
  | _ => false

/-- What a reader's visit to a word leaves: a fresh error is counted in MEMERR once (R329, R330). -/
def noteRead (s : State) (m : MemSel) (a : Nat) : State :=
  match getEcc s m a with
  | .ce => modMemR (setEcc s m a .ceSeen) fun r => { r with cecnt := satInc 0xFFFF r.cecnt }
  | .ue => modMemR (setEcc s m a .ueSeen) fun r =>
      { r with uecnt := satInc 0xFF r.uecnt, uesrc := ueSrc m, ueaddr := a, uewheel := ueWheelOr r.uewheel m,
               ueLog := r.ueLog ++ [(m, a)] }
  | _ => s

/-- A memory's word, and the same written with fresh check bits. -/
def ramGet {α : Type} (d : α) (r : Ram α) (a : Nat) : α := tget d r.cells a
def ramSet {α : Type} [DecidableEq α] (d : α) (r : Ram α) (a : Nat) (v : α) : Ram α :=
  { cells := tset d r.cells a v, ecc := tset .ok r.ecc a .ok }

/-- The word of a memory that a reader sees: none when it cannot be corrected. -/
def ramRead {α : Type} (d : α) (r : Ram α) (a : Nat) : Option α :=
  if isUe (tget .ok r.ecc a) then none else some (ramGet d r a)

def spadWord (s : State) (w a : Nat) : TWord := ramGet emptyW (getWheel s w).spad a
def spadRead (s : State) (w a : Nat) : Option TWord := ramRead emptyW (getWheel s w).spad a
def wSpad (x : Wheel) (a : Nat) (v : TWord) : Wheel := { x with spad := ramSet emptyW x.spad a v }
def spadWrite (s : State) (w a : Nat) (v : TWord) : State := modWheel s w fun x => wSpad x a v
def pinWrite (s : State) (w a : Nat) (v : BitVec 14) : State :=
  modWheel s w fun x => { x with pinned := ramSet 0 x.pinned a v }
def retWrite (s : State) (a : Nat) (v : TWord) : State := { s with retained := ramSet emptyW s.retained a v }
def retRead (s : State) (a : Nat) : Option TWord := ramRead emptyW s.retained a

/-- Scratchpad word of frame word `i` in slot `t` (R88). -/
def frameAddr (t i : Nat) : Nat := 0x7C00 + 0x40 * t + i

/-- A frame word as a unit other than the wheel's own loads reads it: one that cannot be corrected is POISON with value 0 (R331). -/
def fw (s : State) (w t i : Nat) : TWord := (spadRead s w (frameAddr t i)).getD poisonW
def setFw (s : State) (w t i : Nat) (v : TWord) : State := spadWrite s w (frameAddr t i) v

/-- The visit of a scratchpad word by such a unit (R329, R330). -/
def spadNote (s : State) (w a : Nat) : State := noteRead s (.spad (Fin.ofNat 64 w)) a

/-- The visit of frame words. -/
def noteFw (s : State) (w t : Nat) (l : List Nat) : State := l.foldl (fun s i => spadNote s w (frameAddr t i)) s

/-! ### The millpond and the spare bank (R38, R39, R336) -/

def mpBank (a : Nat) : Nat := a / 0x40000 % 16
def mpIdx (a : Nat) : Nat := a % 0x40000

/-- Bank 16 answers the offsets of bank `b`. -/
def spareAnswers (s : State) (b : Nat) : Bool :=
  s.spare.bank == b && (s.spare.st == .subst || s.spare.st == .copyback)

/-- The bank that answers offset `a` is ON. -/
def mpOn (s : State) (a : Nat) : Bool :=
  if spareAnswers s (mpBank a) then bankOn s 16 else bankOn s (mpBank a)

/-- Memory and word that answer offset `a`. -/
def mpSel (s : State) (a : Nat) : MemSel × Nat :=
  if spareAnswers s (mpBank a) then (.spare, mpIdx a) else (.millpond, a)

def mpRead (s : State) (a : Nat) : Option TWord :=
  if spareAnswers s (mpBank a) then ramRead emptyW s.spareRam (mpIdx a) else ramRead emptyW s.mp a

/-- A copy of the bank has passed the word, so that a write to it goes to both banks (R336). -/
def copyPassed (s : State) (a : Nat) (st : SpareSt) : Bool :=
  s.spare.st == st && s.spare.bank == mpBank a && decide (mpIdx a < s.spare.prog)

def mpWrite (s : State) (a : Nat) (v : TWord) : State :=
  let mp := if spareAnswers s (mpBank a) && !copyPassed s a .copyback then s.mp else ramSet emptyW s.mp a v
  let sp := if spareAnswers s (mpBank a) || copyPassed s a .copyin then ramSet emptyW s.spareRam (mpIdx a) v else s.spareRam
  { s with mp := mp, spareRam := sp }

def mpNote (s : State) (a : Nat) : State := noteRead s (mpSel s a).1 (mpSel s a).2

/-- An access dropped because its bank is not ON (R327). -/
def mpDrop (s : State) : State := modMemR s fun r => { r with drop := satInc 0xFF r.drop }

/-- A read by the hopper engine, the mirror engine or the tailrace (R327, R331). -/
def mpReadUnit (s : State) (a : Nat) : State × TWord :=
  if mpOn s a then (mpNote s a, (mpRead s a).getD poisonW) else (mpDrop s, poisonW)

/-- A write by one of them, or by a wheel's buffer. -/
def mpWriteUnit (s : State) (a : Nat) (v : TWord) : State := if mpOn s a then mpWrite s a v else mpDrop s

/-! ### Events (R286, R290 to R292) -/

/-- A pending flag after a further occurrence: the first keeps its INFO, later ones are merged (R292). -/
def addEv (old : Option EvFlag) (info : Nat) : Option EvFlag :=
  match old with
  | none => some ⟨BitVec.ofNat 32 info, 0⟩
  | some f => some { f with merged := BitVec.ofNat 8 (satInc 0xFF f.merged.toNat) }

/-- An occurrence of event `e` reaches wheel `w`, which records it only when it enables the event. -/
def raiseEv (s : State) (w e : Nat) (info : Nat) : State :=
  modWheel s w fun x =>
    if bitOf x.evcfg (e - 32) then
      { x with events := tset none x.events e (addEv (tget none x.events e) info) }
    else x

/-- The wheels of a 64-bit mask. -/
def maskList (m : W64) : List Nat := (List.range 64).filter fun w => bitOf m w

/-- An occurrence of event 36 to 48: it goes to the wheels of EVROUTE (R291). -/
def raiseRouted (s : State) (e : Nat) (info : Nat) : State :=
  forAll s (maskList (tget 0 s.evroute e)) fun s w => raiseEv s w e info

/-! ### Trace (R540, R541) -/

def traceRec (s : State) (w kind arg frame : Nat) : State :=
  modMill s (millOf w) fun m =>
    let t := m.trace
    if t.en && bitOf t.kmask kind && !(t.stopfull && t.wrap) then
      let r : TraceRec := ⟨kind, posOf w, arg, frame, s.ring_time.ns &&& 0xFFFFFFFFFF⟩
      { m with trace := { t with buf := tset none t.buf t.wptr (some r),
                                 wptr := (t.wptr + 1) % 4096, wrap := t.wrap || t.wptr == 4095 } }
    else m

/-! ### Sails (R59, R100 to R103) -/

/-- The safe word as it is written: UPD is replaced by 00b (R59). -/
def safeWord (v : W32) : W32 := v &&& 0xFCFFFFFF

/-- The timebase domain of a sail is held: its port behaves as that of an absent unit (R80, R479). -/
def tbHeld (s : State) (n : Nat) : Bool := domHeld s (42 + (getSail s n).tb)

/-- A safe word written to a sail. -/
def writeSafe (s : State) (n : Nat) : State :=
  if tbHeld s n then s else modSail s n fun x => { x with out := safeWord x.safe, safeact := true }

/-- A duty word reaches a sail. -/
def writeDuty (s : State) (n : Nat) (d : W32) : State :=
  if tbHeld s n then s else modSail s n fun x => { x with out := d, safeact := false, sinceL2 := true }

def ownsSail (s : State) (w n : Nat) : Bool := (getSail s n).owned && (getSail s n).owner == w

/-- The sail numbers of a SAILA or SAILB word, FFh entries left out. -/
def sailList (x : TWord) : List Nat :=
  ((List.range 4).map fun k => fld x.val (8 * k) 8).filter fun j => j < 192

/-- Every sail that a frame names, both directions. -/
def frameSails (s : State) (w t : Nat) : List Nat := sailList (fw s w t 3) ++ sailList (fw s w t 4)

/-- FSTAT and its fields (R91). -/
def fstat (s : State) (w t : Nat) : W32 := (fw s w t 0).val
def setFstat (s : State) (w t lo n v : Nat) : State := setFw s w t 0 ⟨.int, setFld (fstat s w t) lo n v⟩
def fsState (s : State) (w t : Nat) : Nat := fld (fstat s w t) 0 2
def fsPair (s : State) (w t : Nat) : Bool := bitOf (fstat s w t) 2
def fsDir (s : State) (w t : Nat) : Bool := bitOf (fstat s w t) 3
def fsX (s : State) (w t : Nat) : Nat := fld (fstat s w t) 4 2
def fsTb (s : State) (w t : Nat) : Nat := fld (fstat s w t) 14 3

/-- The frame in slot `t` of wheel `w`: its number. -/
def frameAt (s : State) (w t : Nat) : Option Nat :=
  (s.frames.find? fun p => match p.2 with
    | some f => f.wheel == w && f.slot == t
    | none => false).map (·.1)

/-- Wake-table entries of a wheel. -/
def getWake (s : State) (w e : Nat) : WakeEnt := tget {} (getWheel s w).wakes e
def wWake (x : Wheel) (e : Nat) (f : WakeEnt → WakeEnt) : Wheel :=
  { x with wakes := tset {} x.wakes e (f (tget {} x.wakes e)) }
def modWake (s : State) (w e : Nat) (f : WakeEnt → WakeEnt) : State := modWheel s w fun x => wWake x e f

/-- Is the complex out of reset, with its wheels running (R481)? -/
def running (s : State) : Bool := s.rst.phase == .run && !s.rst.retention && !s.rst.off

/-- The host port works: no complex reset is in progress and VCORE feeds it (R72, R79); in RETENTION too, until the host removes
VCORE (R520). -/
def portLive (s : State) : Bool := s.rst.phase == .run && !s.rst.off && (!s.rst.retention || s.rst.vcore)

/-- The next free value's number (log 6). -/
def takeFree (s : State) : State := { s with free := s.free + 1 }

end Sys2Proof.Machine
end

