-- ==== Sys2Proof/Machine/Operands.lean ====
section
/-! DEFINITION. How a wheel instruction issues and retires: the window and the operand stack (R148 to R150), code
addresses (R158), fetch state (R231 to R241), the checks every instruction makes (R176, R178), the mode-change
shadow (R244), the block-repeat (R224), and the precise fault that an instruction leaves (R178). -/

namespace Sys2Proof.Machine

/-! ### Window and operand stack -/

/-- The operand depth: SD, or that of the guard bank's stack (R310). -/
def depth (x : Wheel) : Nat := if x.mode.guard then x.gsd else x.sd
def setDepth (x : Wheel) (n : Nat) : Wheel := if x.mode.guard then { x with gsd := n } else { x with sd := n }

/-- Window entry `i`, 0 to 63: F0 to F31, then S0 to S31 (R148). -/
def winRd (x : Wheel) (i : Nat) : TWord :=
  if x.mode.guard then tget emptyW x.gregs (i % 64) else tget emptyW x.regs ((x.vb + i) % 512)
def winWr (x : Wheel) (i : Nat) (v : TWord) : Wheel :=
  if x.mode.guard then { x with gregs := tset emptyW x.gregs (i % 64) v }
  else { x with regs := tset emptyW x.regs ((x.vb + i) % 512) v }

/-- The entry `n` below TOS. -/
def stkRd (x : Wheel) (n : Nat) : TWord := winRd x (32 + (depth x - 1 - n))

/-- The `n` topmost operands, TOS first. -/
def tops (x : Wheel) (n : Nat) : List TWord := (List.range n).map (stkRd x)

/-- Words written to stack entries from `j` up. -/
def wrFrom (x : Wheel) (j : Nat) : List TWord → Wheel
  | [] => x
  | v :: vs => wrFrom (winWr x (32 + j) v) (j + 1) vs

/-- `k` operands popped, then `vs` pushed in order. -/
def popPush (x : Wheel) (k : Nat) (vs : List TWord) : Wheel :=
  setDepth (wrFrom x (depth x - k) vs) (depth x - k + vs.length)

/-- Every local marked EMPTY from F(n) up (R153, R157). -/
def emptyLocals (x : Wheel) (n : Nat) : Wheel :=
  ((List.range 32).filter fun i => n ≤ i).foldl (fun x i => winWr x i emptyW) x

/-! ### Exceptions -/

/-- An exception whose INFO2 is the opcode word. -/
def exc (num : Nat) (info : TWord) (op : Nat) : Exc := ⟨num, info, intW op⟩

/-- Exception 3: the offending tag and the operand (R284). -/
def tagExc (t : Tag) (operand op : Nat) : Exc := exc 3 (intW (tagCode t + 16 * operand)) op

/-! ### Code addresses (R158) -/

def cOff (c : W32) : Nat := fld c 0 18
def cMill (c : W32) : Nat := fld c 18 4
def cRegion (c : W32) : Nat := fld c 22 2
def cRsv (c : W32) : Bool := fld c 24 8 != 0
def mkCode (region mill off : Nat) : W32 := BitVec.ofNat 32 (off % 0x40000 + mill % 16 * 0x40000 + region % 4 * 0x400000)

/-- The last offset of a region (R176). -/
def regionEnd (r : Nat) : Nat := if r = 0 then 0x3FFFF else 0xFFF

/-- What a transfer to `c` raises on wheel `w`, if anything: 4, or 6 for the guard region (R158). -/
def xferExc (x : Wheel) (w : Nat) (c : W32) : Option Nat :=
  if cMill c ≠ millOf w ∨ cRegion c = 3 ∨ cRsv c = true then some 4
  else if cRegion c ≠ 0 ∧ cOff c > 0xFFF then some 4
  else if cRegion c = 2 ∧ x.mode.guard = false then some 6
  else none

/-- INFO of a failed transfer: the CODE word for exception 4, INT 0 for exception 6 (R284). -/
def xferFault (c : W32) (n op : Nat) : Exc := exc n (if n = 4 then ⟨.code, c⟩ else intW 0) op

/-- The CODE word `n` words after `c`. Past the end of the region a reserved bit is set, so that the next
instruction raises exception 4 under R176 (log 12). -/
def codeAdd (c : W32) (n : Nat) : W32 :=
  if cOff c + n ≤ regionEnd (cRegion c) then mkCode (cRegion c) (cMill c) (cOff c + n)
  else mkCode (cRegion c) (cMill c) (cOff c + n) ||| 0x1000000

/-- The target of a relative transfer: out of the region it is none (R177). -/
def relTarget (c : W32) (ofs : Int) : Option W32 :=
  let t : Int := (cOff c : Int) + ofs
  if 0 ≤ t ∧ t ≤ (regionEnd (cRegion c) : Int) then some (mkCode (cRegion c) (cMill c) t.toNat) else none

/-- INFO of a relative target outside its region: the CODE word with the offset modulo its width (R284). -/
def relBad (c : W32) (ofs : Int) : W32 :=
  mkCode (cRegion c) (cMill c) (((cOff c : Int) + ofs) % 0x40000).toNat

/-! ### Fetch state (R231 to R241) -/

def lastLine : Nat := 14563
def lineOf (c : W32) : Nat := cOff c / 18
def badLine (s : State) (m j : Nat) : Bool := tget false (getMill s m).badLines j
def lineCopy (s : State) (m j : Nat) : LineCopy :=
  ⟨j, ((List.range 18).filter fun i => 18 * j + i ≤ 0x3FFFF).map fun i => tget 0 (getMill s m).slice (18 * j + i)⟩

/-- The wheel enters a line that it does not take from the prefetch register: the next line is requested (R234). -/
def enterLine (f : Fetch) (c : LineCopy) : Fetch :=
  { f with line := some c, pre := none, want := none, preWant := if c.line + 1 ≤ lastLine then some (c.line + 1) else none }

def holdsLine (o : Option LineCopy) (j : Nat) : Bool :=
  match o with
  | some c => c.line == j
  | none => false

/-- Writing the branch-target buffer when a target line returns (R237). -/
def btbWrite (f : Fetch) (c : LineCopy) : Fetch :=
  match f.want with
  | some (j, some (src, tgt)) =>
    if j = c.line then { f with btb := tset none f.btb (cOff src % 64) (some ⟨src, tgt, c⟩) } else f
  | _ => f

/-- A target read of line `j` is in flight: the line register, and a prefetch of that line, do not serve it (R236, R237). -/
def wantsLine (f : Fetch) (j : Nat) : Bool :=
  match f.want with
  | some (i, _) => i == j
  | none => false

/-- Line `j` read from the slice and entered; none when its check fails (R233, R234, R241). -/
def readLine (s : State) (w j : Nat) : Option State :=
  if badLine s (millOf w) j then none
  else some (modWheel s w fun x =>
    { x with fetch := enterLine (btbWrite x.fetch (lineCopy s (millOf w) j)) (lineCopy s (millOf w) j) })

/-- Line `j` in the line register, read or moved there as R234 to R237 say; none when its check fails (R241). -/
def ensureLine (s : State) (w j : Nat) : Option State :=
  let f := (getWheel s w).fetch
  if wantsLine f j then readLine s w j
  else if holdsLine f.line j then some s
  else
    match f.pre with
    | some c => if c.line = j then some (modWheel s w fun x => { x with fetch := enterLine x.fetch c }) else readLine s w j
    | none => readLine s w j

/-- The target read in flight returns to a wheel that does not issue from its line: the branch-target buffer is written,
and the line is not entered (R234, R237, R241). -/
def landWant (s : State) (w : Nat) : State :=
  match (getWheel s w).fetch.want with
  | some (j, _) =>
    let g (f : Fetch) : Fetch := if badLine s (millOf w) j then f else btbWrite f (lineCopy s (millOf w) j)
    modWheel s w fun x => { x with fetch := { g x.fetch with want := none } }
  | none => s

/-- The prefetch in flight returns; a line that fails its check is not held (R233, R241). -/
def landPre (s : State) (w : Nat) : State :=
  match (getWheel s w).fetch.preWant with
  | some j =>
    let c := if badLine s (millOf w) j then none else some (lineCopy s (millOf w) j)
    modWheel s w fun x => { x with fetch := { x.fetch with preWant := none, pre := c } }
  | none => s

/-- The fetch of an exception handler's entry point, which neither looks up nor writes the branch-target buffer (R243). -/
def entryFetch (x : Wheel) (c : W32) : Fetch :=
  if cRegion c ≠ 0 ∨ holdsLine x.fetch.line (lineOf c) = true then x.fetch
  else { x.fetch with want := some (lineOf c, none) }

/-- A taken transfer from `src` to `tgt`: the line register, the branch-target buffer, or a read (R236, R237). -/
def jumpFetch (x : Wheel) (src tgt : W32) : Wheel :=
  if cRegion tgt ≠ 0 then x
  else if holdsLine x.fetch.line (lineOf tgt) then x
  else
    match tget none x.fetch.btb (cOff src % 64) with
    | some e =>
      if e.src = src ∧ e.tgt = tgt then { x with fetch := enterLine x.fetch e.copy }
      else { x with fetch := { x.fetch with want := some (lineOf tgt, some (src, tgt)) } }
    | none => { x with fetch := { x.fetch with want := some (lineOf tgt, some (src, tgt)) } }

/-- The wheel whose pinned store a pinned region names (R22, R158). -/
def pinHost (w r : Nat) : Nat := if r = 2 then 4 * millOf w else w

/-- INFO of a pinned word that cannot be corrected (R331). -/
def pinInfo (r off : Nat) : TWord := ⟨.int, BitVec.ofNat 32 (0x80000000 + (if r = 2 then 0x40000000 else 0) + off % 0x1000)⟩

/-- The first uncorrectable pinned word among `len` words at `off`. -/
def pinBad (s : State) (v off len : Nat) : Option Nat :=
  ((List.range len).map (off + ·)).find? fun a => isUe (tget .ok (getWheel s v).pinned.ecc a)

/-! ### The block-repeat (R223 to R228) -/

def rptActive (x : Wheel) : Bool := bitOf x.rpt.ctl 0
def rptLen (x : Wheel) : Nat := fld x.rpt.ctl 1 6 + 1

/-- Is the CODE word `c` a word of the body? -/
def inBody (x : Wheel) (c : W32) : Bool :=
  fld c 18 6 == fld x.rpt.start 18 6 && decide (cOff x.rpt.start ≤ cOff c) && decide (cOff c < cOff x.rpt.start + rptLen x)

/-- The repeat buffer emptied for the body at `start`; `skip`: not at the body's first word, so that a later iteration
fills it (R227). -/
def newRep (f : Fetch) (start : W32) (skip : Bool) : Fetch :=
  { f with rep := [], repFor := some start, repHeld := false, repSkip := skip }

def clearRpt (x : Wheel) : Wheel := { x with rpt := {}, iterEnd := false }

/-- The end of an iteration (R224): RPT.CNT falls by one, and the body is issued again or the repeat ends. A CNT that a handler
rewrote to 0 in the saved registers ends the repeat here (log 110, DESIGN CHOICE). -/
def iterationEnd (x : Wheel) : Wheel :=
  if x.iterEnd && rptActive x then
    if x.rpt.cnt.toNat ≤ 1 then clearRpt x
    else { x with rpt := { x.rpt with cnt := x.rpt.cnt - 1 }, pc := x.rpt.start, iterEnd := false }
  else x

/-- The body's words are held from the end of the first iteration on, or of the first one after a FLUSH (R227). -/
def endRep (x : Wheel) : Wheel :=
  if x.iterEnd && rptActive x then
    if x.fetch.repSkip then { x with fetch := { x.fetch with repSkip := false } }
    else { x with fetch := { x.fetch with repHeld := true } }
  else x

/-- The instruction at `c` issues from the repeat buffer (R227). -/
def fromRep (x : Wheel) (c : W32) : Bool :=
  rptActive x && x.fetch.repHeld && x.fetch.repFor == some x.rpt.start && inBody x c

/-- The repeat buffer holds all `len` words of the instruction at PC, and it issues from there (R227). -/
def repUse (x : Wheel) (len : Nat) : Bool :=
  fromRep x x.pc && (List.range len).all fun i => (tget none x.fetch.rep (cOff x.pc - cOff x.rpt.start + i)).isSome

/-! ### The mode-change shadow (R244, R245) -/

/-- A pending change applied; no change raises LEVEL (R172). -/
def chgMode (m : Mode) (c : ModeChg) : Mode := { m with level := m.level && c.level, tchk := c.tchk, compat := c.compat }

/-- Pending changes whose count has reached 0 take effect. -/
def applyDue (x : Wheel) : Wheel :=
  match x.pend with
  | [] => x
  | [a] => if a.cnt = 0 then { x with mode := chgMode x.mode a, pend := [] } else x
  | a :: b :: t =>
    if a.cnt = 0 then
      if b.cnt = 0 then { x with mode := chgMode (chgMode x.mode a) b, pend := t }
      else { x with mode := chgMode x.mode a, pend := b :: t }
    else x

/-- A retirement counts for every pending change. -/
def countDown (l : List ModeChg) : List ModeChg := l.map fun c => { c with cnt := c.cnt - 1 }

/-- MODE as software reads it (R172). -/
def modeView (x : Wheel) : Nat :=
  let y := applyDue x
  b2n y.mode.world + 2 * b2n y.mode.level + 4 * b2n y.mode.tchk + 8 * b2n y.mode.compat + 16 * b2n y.mode.guard +
    (match y.pend with
     | [] => 0
     | c :: _ => 32 + 64 * (c.cnt % 4))

/-! ### The words that issue (R230, R249) -/

/-- Word `o` of a pinned region of wheel `w`; none past the region's end and where it cannot be corrected (R331). -/
def pinWord (s : State) (w r o : Nat) : Option (BitVec 14) :=
  if o > regionEnd r then none else ramRead 0 (getWheel s (pinHost w r)).pinned o

/-- Word `o` of the region of PC, as the wheel's fetch stage has it: in the opcode word's line from the line register or,
on a sequential step, the prefetch register; otherwise, and in the later line of a split instruction, from the store; none
where no word can be read (R235 to R238, R241). -/
def storeWord (s : State) (w : Nat) (x : Wheel) (o : Nat) : Option (BitVec 14) :=
  if o > regionEnd (cRegion x.pc) then none
  else if cRegion x.pc = 0 then
    let own := lineOf x.pc == o / 18 && !wantsLine x.fetch (o / 18)
    if own && holdsLine x.fetch.line (o / 18) then (x.fetch.line.bind fun c => c.words[o % 18]?)
    else if own && holdsLine x.fetch.pre (o / 18) then (x.fetch.pre.bind fun c => c.words[o % 18]?)
    else if badLine s (millOf w) (o / 18) then none
    else some (tget 0 (getMill s (millOf w)).slice o)
  else pinWord s w (cRegion x.pc) o

/-- The words that the fetch stage holds of the instruction at PC (R230, R249). -/
def heldWords (x : Wheel) : List (BitVec 14) :=
  match x.fetch.next.find? fun p => p.1 == x.pc with
  | some p => p.2
  | none => []

/-- Word `i` of the instruction that issues next. -/
def nextWord (s : State) (w i : Nat) : Option (BitVec 14) :=
  let x := getWheel s w
  match (heldWords x)[i]? with
  | some v => some v
  | none =>
    match (if fromRep x x.pc then tget none x.fetch.rep (cOff x.pc - cOff x.rpt.start + i) else none) with
    | some v => some v
    | none => storeWord s w x (cOff x.pc + i)

/-- The instruction of the words `ws` is the one that the wheel's program has next: every word that can be read agrees. -/
def offered (s : State) (w : Nat) (ws : List Nat) : Bool :=
  ws.zipIdx.all fun p =>
    match nextWord s w p.2 with
    | some v => v == BitVec.ofNat 14 p.1
    | none => true

/-- The fetch stage reads the instruction at `c` of a pinned region: the state that has noted the visit of its words, and
the words up to the first that cannot be read (R230, R329, R330). Words of the program store are held by lines (R232), and
those of the repeat buffer by it (R227). -/
def readAhead (s : State) (w : Nat) (c : W32) : State × List (W32 × List (BitVec 14)) :=
  let r := cRegion c
  if r = 0 ∨ r = 3 ∨ cRsv c = true ∨ fromRep (getWheel s w) c = true then (s, [])
  else
    let n := match pinWord s w r (cOff c) with
      | some v => (opLen v.toNat).getD 1
      | none => 1
    let l := (((List.range n).map fun i => pinWord s w r (cOff c + i)).takeWhile Option.isSome).map fun v => v.getD 0
    (((List.range n).filter fun i => cOff c + i ≤ regionEnd r).foldl
      (fun s i => noteRead s (.pinned (Fin.ofNat 64 (pinHost w r))) (cOff c + i)) s, [(c, l)])

/-- The words read ahead are held, beside those of `l` (R230). -/
def holdAhead (s : State) (w : Nat) (l : List (W32 × List (BitVec 14))) (c : W32) : State :=
  let r := readAhead s w c
  modWheel r.1 w fun x => { x with fetch := { x.fetch with next := l ++ r.2 } }

/-- A split instruction discards the prefetch of its later line (R238). -/
def dropPre (s : State) (w : Nat) : State := modWheel s w fun x => { x with fetch := { x.fetch with pre := none } }

/-- The words of the instruction at PC are fetched: the state with its fetch registers, or exception 14 (R241,
R331); for pinned code the visit of each word is noted. -/
def fetchWords (s : State) (w op len : Nat) : Except (State × Exc) State :=
  let c := (getWheel s w).pc
  if repUse (getWheel s w) len || decide (len ≤ (heldWords (getWheel s w)).length) then .ok s
  else if cRegion c = 0 then
    match ensureLine s w (lineOf c) with
    | none => .error (s, exc 14 (intW (lineOf c)) op)
    | some s1 =>
      let j := (cOff c + len - 1) / 18
      if j = lineOf c then .ok s1
      else
        match ensureLine (dropPre s1 w) w j with
        | none => .error (s1, exc 14 (intW j) op)
        | some s2 => .ok s2
  else
    let v := pinHost w (cRegion c)
    let s1 := (List.range len).foldl (fun s i => noteRead s (.pinned (Fin.ofNat 64 v)) (cOff c + i)) s
    match pinBad s v (cOff c) len with
    | some a => .error (s1, exc 14 (pinInfo (cRegion c) a) op)
    | none => .ok s1

/-! ### Feed-forward values (R93, R134, R407) -/

def keyOf (i : Intent) : IntentKey := ⟨i.posted, i.origin⟩

/-- In the wake cycle of the boundary of timebase `t` stamped `now`, whose last boundary was stamped `old`, the staged values
with a deadline at or before it leave the staging (R93, R134); one staged after an earlier such boundary was late (R407). -/
def ffTake (s : State) (w t : Nat) (now : W64) (old : Option W64) : State :=
  forAll s (tkeys 64 (getWheel s w).staged) fun s k =>
    match tget none (getWheel s w).staged k with
    | none => s
    | some v =>
      if fsTb s w (k / 4) = t ∧ v.it.deadline ≤ now then
        let late := match old with
          | some o => decide (v.it.deadline ≤ o)
          | none => false
        let s := modWheel s w fun x =>
          { x with staged := tset none x.staged k none, applied := tset none x.applied k (some (keyOf v.it)),
                   ffNow := x.ffNow ++ [(k, v.val)] }
        if late then modRing s fun r => { r with late := satInc 0xFF r.late } else s
      else s

/-- The values become the current ones. -/
def ffWrite (s : State) (w : Nat) : State :=
  let l := (getWheel s w).ffNow
  let s := l.foldl (fun s p => setFw s w (p.1 / 4) (60 + p.1 % 4) p.2) s
  if l.isEmpty then s else modWheel s w fun x => { x with ffNow := [] }

/-- The instruction that issues in the wake cycle reads the old values; the next one reads the new ones (R93). -/
def ffSettle (s : State) (w : Nat) : State :=
  if (getWheel s w).fresh && (getWheel s w).fault.isNone then s else ffWrite s w

/-- The wake cycle of the boundary with order stamp `o` on a wheel (R93, R134). -/
def ffWake (s : State) (w o : Nat) : State :=
  match (getWheel s w).ffDue.find? fun p => p.occ == o with
  | some p => ffSettle (ffTake (modWheel s w fun x => { x with ffDue := x.ffDue.erase p }) w p.tb p.now p.old) w
  | none => s

/-- A boundary whose occurrence is in no latch stage of the wheel has its wake cycle at once: no loop of the wheel is woken by
it, so no instruction issues in that cycle that the model could tell from the others (log 92, DESIGN CHOICE). -/
def ffLoose (s : State) (w : Nat) : State :=
  let latched (o : Nat) : Bool := (getWheel s w).wakes.any fun p => p.2.latch.any fun q => q.2 == o
  forAll s (((getWheel s w).ffDue.map FfDue.occ).filter fun o => !latched o) fun s o => ffWake s w o

/-! ### Issue and retirement -/

/-- What an instruction leaves the wheel to do next. -/
inductive Flow where
  /-- the next sequential instruction -/
  | next
  /-- a taken transfer, which counts as an instruction (R244) -/
  | jump (c : W32)
  /-- FCALL, FRET and RTE: the transfer's own shadow is complete (R246) -/
  | xfer (c : W32)
  /-- issued and not retired: it waits, or it is a block instruction between two steps -/
  | stay
  /-- retired, and the wheel issues nothing next -/
  | stop
  deriving DecidableEq, Repr

/-- What an instruction answers: the state with its effect, or the state as it was with the exception. -/
abbrev Res := Except (State × Exc) (State × Flow)

/-- The changes that are due at the boundary before the next instruction (R224, R244). -/
def settleWheel (x : Wheel) : Wheel := iterationEnd (endRep (applyDue x))

/-- What is due on a wheel at the boundary before the next instruction (R93, R224, R244). -/
def settle (s : State) (w : Nat) : State :=
  let s1 := ffSettle s w
  setWheel s1 w (settleWheel (getWheel s1 w))

/-- The mill of the wheel runs: ON, locked, out of reset. -/
def millRuns (s : State) (m : Nat) : Bool := (getMill s m).pstate == 0 && (getMill s m).lock

/-- The wheel is not held by anything outside its instruction stream: R33, R314, R342, R487, R538. -/
def wheelLive (s : State) (w : Nat) : Bool :=
  let x := getWheel s w
  running s && millRuns s (millOf w) && spadOn s w && pinOn s w && !x.lockup && !x.stopped && !x.held

/-- The wheel can issue an instruction. -/
def canIssue (s : State) (w : Nat) : Bool :=
  let x := getWheel s w
  wheelLive s w && !x.parked && (!x.halted || x.stepReq) && x.stall == .none && x.fault.isNone

/-- The block instruction in progress is the one with opcode word `op` (R213). -/
def blkActive (x : Wheel) : Bool := bitOf x.blk.ctl 0
def resumes (x : Wheel) (op : Nat) : Bool :=
  blkActive x && decide (0x80 ≤ op) && decide (op ≤ 0x83) && fld x.blk.ctl 1 2 == op - 0x80

/-- Checks that come with the words of the instruction: R176 (exception 4), R223 (exception 2). An instruction that straddles the
body's end raises its exception 2, with INFO INT 0, before steps 1 to 6 of R178 (log 110, DESIGN CHOICE). -/
def placeChk (x : Wheel) (op len : Nat) : Option Exc :=
  let c := x.pc
  if cRsv c = true ∨ cOff c + len - 1 > regionEnd (cRegion c) then some (exc 4 ⟨.code, c⟩ op)
  else if (rptActive x && inBody x c && !inBody x (mkCode (cRegion c) (cMill c) (cOff c + len - 1))) = true then
    some (exc 2 (intW 0) op)
  else none

/-- The wheel has failed an instruction: the exception waits for its entry, and nothing else changes. A
single step ends here too (R538). -/
def failAt (s : State) (w : Nat) (e : Exc) : State :=
  modWheel s w fun x => { x with fault := some e, halted := x.halted || x.stepReq, stepReq := false }

/-- A wheel after an instruction of `len` words at `c` has retired. -/
def retireWheel (x : Wheel) (c : W32) (len : Nat) (fl : Flow) : Wheel :=
  let x := { x with halted := x.halted || x.stepReq, stepReq := false, fresh := false }
  match fl with
  | .next =>
    let e := codeAdd c (len - 1)
    let last := rptActive x && inBody x c && !inBody x (codeAdd c len) && inBody x e
    { x with pc := codeAdd c len, iterEnd := last, pend := countDown x.pend }
  | .jump t =>
    let x := if rptActive x && !inBody x t then clearRpt x else x
    { jumpFetch x c t with pc := t, pend := countDown x.pend }
  | .xfer t => { jumpFetch x c t with pc := t, fresh := true }
  | .stay => x
  | .stop => x

/-- The wheel as an instruction begins: another instruction than the block instruction in progress runs with no block
state (R213), and the words of a body instruction go into the repeat buffer (R227). -/
def beginWheel (x : Wheel) (op : Nat) (ws : List Nat) : Wheel :=
  let x := if blkActive x && !resumes x op then { x with blk := {}, blkSeg := none } else x
  if rptActive x && inBody x x.pc then
    let f := if x.fetch.repFor = some x.rpt.start then x.fetch else newRep x.fetch x.rpt.start true
    { x with fetch := { f with
                          rep := ws.zipIdx.foldl (fun t p =>
                            tset none t (cOff x.pc - cOff x.rpt.start + p.2) (some (BitVec.ofNat 14 p.1))) f.rep } }
  else x

/-- The wheel's state as the instruction at PC begins. In its issue wc the fetch stage reads the words of the next
sequential instruction (R230); a block instruction that goes on after a step issues no more (R212, R213). -/
def beginAt (s : State) (w op : Nat) (ws : List Nat) : State :=
  let s1 := modWheel s w fun x => beginWheel x op ws
  let x := getWheel s1 w
  if resumes x op && x.blkSeg.isSome then s1
  else if cRegion x.pc = 0 then modWheel s1 w fun x => { x with fetch := { x.fetch with next := [] } }
  else holdAhead s1 w [(x.pc, ws.map fun v => BitVec.ofNat 14 v)] (codeAdd x.pc ws.length)

/-- A taken transfer's target is read in its retire wc (R230). -/
def arrive (s : State) (w : Nat) : Flow → State
  | .jump c => holdAhead s w [] c
  | .xfer c => holdAhead s w [] c
  | _ => s

/-- An instruction of wheel `w` with opcode word `op` and the extension words `ext` issues. Where the wheel
cannot issue, or its program has another instruction next, no such step exists and nothing changes (log 13). -/
def issue (s : State) (w op : Nat) (ext : List Nat) (f : State → Res) : State :=
  let len := ext.length + 1
  let s1 := settle s w
  if canIssue s1 w && offered s1 w (op :: ext) then
    match placeChk (getWheel s1 w) op len with
    | some e => failAt s1 w e
    | none =>
      match fetchWords s1 w op len with
      | .error (s2, e) => failAt s2 w e
      | .ok s2 =>
        let c := (getWheel s2 w).pc
        match f (beginAt s2 w op (op :: ext)) with
        | .error (s4, e) => failAt s4 w e
        | .ok (s4, fl) => arrive (modWheel s4 w fun x => retireWheel x c len fl) w fl
  else s

/-- An instruction that has waited ends: it retires, it fails, or it waits again. -/
def resumeOp (s : State) (w : Nat) (f : State → Res) : State :=
  match f (modWheel s w fun x => { x with stall := .none }) with
  | .error (s, e) => failAt s w e
  | .ok (s, fl) => modWheel s w fun x => retireWheel x x.pc 1 fl

/-- The opcode word of the instruction that waits. -/
def opWord (s : State) (w : Nat) : Nat := (getWheel s w).stallOp.toNat

/-- Steps 4 and 5 of R178: operands read, popped and pushed. -/
def depthExc (x : Wheel) (need pop push op : Nat) : Option Exc :=
  if depth x < need then some (exc 9 (intW 0) op)
  else if depth x - pop + push > 32 then some (exc 8 (intW 0) op)
  else none

/-- An instruction whose whole effect is on the operand stack: it pops `need` operands and pushes what `f` makes of
them, TOS first; `push` is how many that is. -/
def stackOp (s : State) (w op need push : Nat) (f : Wheel → List TWord → Except Exc (List TWord)) : State :=
  issue s w op [] fun s =>
    let x := getWheel s w
    match depthExc x need need push op with
    | some e => .error (s, e)
    | none =>
      match f x (tops x need) with
      | .error e => .error (s, e)
      | .ok vs => .ok (modWheel s w fun x => popPush x need vs, .next)

/-- The first operand with a reserved tag, which no operation consumes (R142). -/
def rsvExc (op : Nat) (l : List TWord) : Option Exc :=
  (l.zipIdx.find? fun p => isRsv p.1.tag).map fun p => tagExc p.1.tag (min p.2 2) op

/-- The first operand tagged Ch, Dh or EMPTY (R144, R145 rule 1). -/
def badExc (op : Nat) (l : List TWord) : Option Exc :=
  (l.zipIdx.find? fun p => isRsv p.1.tag || p.1.tag == .empty).map fun p => tagExc p.1.tag (min p.2 2) op

/-- The POISON operand nearest TOS (R145 rule 2). -/
def poisonOf (l : List TWord) : Option TWord := l.find? fun x => x.tag == .poison

/-- A move: any tag but Ch and Dh. -/
def moveOp (op : Nat) (l : List TWord) (r : List TWord) : Except Exc (List TWord) :=
  match rsvExc op l with
  | some e => .error e
  | none => .ok r

/-- A computing operation on stack operands: R145's order, then `f` by the tag rules. -/
def compute (op : Nat) (l : List TWord) (f : Except Exc TWord) : Except Exc (List TWord) :=
  match badExc op l with
  | some e => .error e
  | none =>
    match poisonOf l with
    | some p => .ok [⟨.poison, p.val⟩]
    | none =>
      match f with
      | .error e => .error e
      | .ok r => .ok [r]

end Sys2Proof.Machine
end

