-- ==== Sys2Proof/Machine/Arith.lean ====
section
/-! DEFINITION. The arithmetic of the operation classes of R146: numeric families and their S marks (R143), the
numeric setting of R147, saturation, and the edge results of R183 to R187 and R197. -/

namespace Sys2Proof.Machine

/-- The numeric families (R143). -/
inductive Fam where
  | int | q31 | q16 | f32
  deriving DecidableEq, Repr

def famOf : Tag → Option Fam
  | .int => some .int
  | .q31 | .q31s => some .q31
  | .q16 | .q16s => some .q16
  | .f32 => some .f32
  | _ => none

def isS : Tag → Bool
  | .q31s | .q16s => true
  | _ => false

/-- The member of a family, plain or S. -/
def famTag (f : Fam) (s : Bool) : Tag :=
  match f with
  | .int => .int
  | .q31 => if s then .q31s else .q31
  | .q16 => if s then .q16s else .q16
  | .f32 => .f32

def isQ (f : Fam) : Bool := f == .q31 || f == .q16
def qBits (f : Fam) : Nat := if f == .q31 then 31 else 16

def maxI : Int := 0x7FFFFFFF
def minI : Int := -0x80000000
def w32 (v : Int) : W32 := BitVec.ofInt 32 v

/-- An exact value saturated to 32 bits, and whether it saturated. -/
def sat32 (v : Int) : Int × Bool :=
  if v > maxI then (maxI, true) else if v < minI then (minI, true) else (v, false)

/-- A Q result: saturated, with the S member if it saturated or `s` holds (R143). -/
def qRes (f : Fam) (s : Bool) (v : Int) : TWord := ⟨famTag f (s || (sat32 v).2), w32 (sat32 v).1⟩

/-- `v / 2 ^ k` rounded to nearest, ties toward +∞; and rounded toward −∞. -/
def rnd (v : Int) (k : Nat) : Int := (v + 2 ^ (k - 1)).fdiv (2 ^ k)
def rdn (v : Int) (k : Nat) : Int := v.fdiv (2 ^ k)

/-- A mixed pair under the numeric setting: TOS is read as a member of the other operand's family (R147). -/
def coerce (tchk : Bool) (a b : TWord) : Option (TWord × TWord) :=
  if tchk then
    match famOf a.tag, famOf b.tag with
    | some f, some g => if f ≠ .f32 ∧ g ≠ .f32 ∧ f ≠ g then some (a, ⟨famTag f (isS b.tag), b.val⟩) else none
    | _, _ => none
  else none

/-- Exception 3 of a pair that no row of R146 lists: an operand whose tag no row lists in its place is named, TOS first;
where both fit a row but not together the spec does not say which is named (log 8). `fits` takes the place, `true` for TOS. -/
def pairExc (op : Nat) (fits : Bool → Tag → Bool) (a b : TWord) : Exc :=
  if !fits true b.tag then tagExc b.tag 0 op
  else if !fits false a.tag then tagExc a.tag 1 op
  else if Config.mismatchIsNos then tagExc a.tag 1 op else tagExc b.tag 0 op

/-- A pair operation: the strict rows first, then a coerced mixed pair (R146, R147). `a` is NOS and `b` is TOS. -/
def pairOp (op : Nat) (tchk : Bool) (fits : Bool → Tag → Bool) (rows : TWord → TWord → Option (Except Exc TWord)) (a b : TWord) :
    Except Exc TWord :=
  match rows a b with
  | some r => r
  | none =>
    match coerce tchk a b with
    | some (a', b') =>
      match rows a' b' with
      | some r => r
      | none => .error (pairExc op fits a b)
    | none => .error (pairExc op fits a b)

/-- The exact operation of the add class on integers: `a` is NOS, `b` is TOS. -/
inductive AddOp where
  | add | sub | rsub | min | max
  deriving DecidableEq, Repr

def addZ (o : AddOp) (a b : Int) : Int :=
  match o with
  | .add => a + b
  | .sub => a - b
  | .rsub => b - a
  | .min => if a ≤ b then a else b
  | .max => if a ≤ b then b else a

def addF (o : AddOp) (a b : W32) : W32 :=
  match o with
  | .add => fAdd a b
  | .sub => fSub a b
  | .rsub => if isNan a || isNan b then nanOf a b else fAdd b (fNeg a)
  | .min => fMin a b
  | .max => fMax a b

/-- ADDR with its offset moved; a result outside 0 to FFFFFFh raises exception 4 with the ADDR operand (R146). -/
def addrMove (op : Nat) (a : TWord) (d : Int) : Except Exc TWord :=
  let o : Int := (fld a.val 0 24 : Int) + d
  if 0 ≤ o ∧ o ≤ 0xFFFFFF then .ok ⟨.addr, setFld a.val 0 24 o.toNat⟩ else .error (exc 4 a op)

/-- CODE plus INT: only REGION, the reserved bits and the result's offset are checked (R158). -/
def codeMove (op : Nat) (c : TWord) (d : Int) : Except Exc TWord :=
  let o : Int := (cOff c.val : Int) + d
  if cRegion c.val = 3 ∨ cRsv c.val = true ∨ o < 0 ∨ o > (regionEnd (cRegion c.val) : Int) then .error (exc 4 c op)
  else .ok ⟨.code, setFld c.val 0 18 o.toNat⟩

/-- The rows of the add class (R146, R183). -/
def addRows (op : Nat) (o : AddOp) (a b : TWord) : Option (Except Exc TWord) :=
  match famOf a.tag, famOf b.tag with
  | some f, some g =>
    if f = g then
      match f with
      | .int => some (.ok ⟨.int, w32 (addZ o a.val.toInt b.val.toInt)⟩)
      | .f32 => some (.ok ⟨.f32, addF o a.val b.val⟩)
      | _ => some (.ok (qRes f (isS a.tag || isS b.tag) (addZ o a.val.toInt b.val.toInt)))
    else none
  | _, _ =>
    match a.tag, b.tag with
    | .time, .time =>
      if o = .min ∨ o = .max then none
      else some (.ok ⟨.time, w32 (sat32 (addZ o a.val.toInt b.val.toInt)).1⟩)
    | .addr, .int =>
      if o = .add then some (addrMove op a b.val.toInt)
      else if o = .sub then some (addrMove op a (-b.val.toInt)) else none
    | .int, .addr => if o = .add then some (addrMove op b a.val.toInt) else none
    | .addr, .addr =>
      if o = .sub ∧ fld a.val 24 8 = fld b.val 24 8 then
        some (.ok ⟨.int, w32 ((fld a.val 0 24 : Int) - (fld b.val 0 24 : Int))⟩)
      else none
    | .code, .int => if o = .add then some (codeMove op a b.val.toInt) else none
    | .int, .code => if o = .add then some (codeMove op b a.val.toInt) else none
    | _, _ => none

/-- Tags that some row of the add class lists for `o`, in either place. -/
def addFits (o : AddOp) (_tos : Bool) (t : Tag) : Bool :=
  (famOf t).isSome || (t == .time && o != .min && o != .max) || (t == .addr && (o == .add || o == .sub)) ||
    (t == .code && o == .add)

/-- NEG and ABS (R183, R197). -/
def unaryAdd (op : Nat) (isAbs : Bool) (a : TWord) : Except Exc TWord :=
  let v := a.val.toInt
  let r := if isAbs && decide (0 ≤ v) then v else -v
  match famOf a.tag with
  | some .int => .ok ⟨.int, w32 r⟩
  | some .f32 => .ok ⟨.f32, if isAbs then fAbs a.val else fNeg a.val⟩
  | some f => .ok (qRes f (isS a.tag) r)
  | none => if a.tag = .time then .ok ⟨.time, w32 (sat32 r).1⟩ else .error (tagExc a.tag 0 op)

/-- The rows of the multiply class (R184); `high` for MULH. -/
def mulRows (high : Bool) (a b : TWord) : Option (Except Exc TWord) :=
  let p := a.val.toInt * b.val.toInt
  let s := isS a.tag || isS b.tag
  match famOf a.tag, famOf b.tag with
  | some .int, some .int => some (.ok ⟨.int, if high then w32 (p.fdiv (2 ^ 32)) else w32 p⟩)
  | some .f32, some .f32 => some (.ok ⟨.f32, fMul a.val b.val⟩)
  | some f, some g =>
    if f = .f32 ∨ g = .f32 then none
    else if f = g then some (.ok (qRes f s (if high then rdn p (qBits f) else rnd p (qBits f))))
    else if g = .int then some (.ok (qRes f s p))
    else if f = .int then some (.ok (qRes g s p))
    else none
  | _, _ => none

/-- A Q quotient by zero (R197): MAX, −MAX or 0, always the S member. -/
def qDiv0 (f : Fam) (v : Int) : TWord := ⟨famTag f true, w32 (if v > 0 then maxI else if v < 0 then -maxI else 0)⟩

/-- DIV (R185, R197): `a` divided by `b`. -/
def divRows (op : Nat) (a b : TWord) : Option (Except Exc TWord) :=
  let x := a.val.toInt
  let y := b.val.toInt
  let s := isS a.tag || isS b.tag
  match famOf a.tag, famOf b.tag with
  | some .int, some .int => if y = 0 then some (.error (exc 10 a op)) else some (.ok ⟨.int, w32 (x.tdiv y)⟩)
  | some .f32, some .f32 => some (.ok ⟨.f32, fDiv a.val b.val⟩)
  | some f, some g =>
    if f = .f32 ∨ g = .f32 ∨ f = .int then none
    else if f = g then some (.ok (if y = 0 then qDiv0 f x else qRes f s ((x * 2 ^ qBits f).tdiv y)))
    else if g = .int then some (.ok (if y = 0 then qDiv0 f x else qRes f s (x.tdiv y)))
    else none
  | _, _ => none

/-- MOD (R185, R197). -/
def modRows (op : Nat) (a b : TWord) : Option (Except Exc TWord) :=
  let x := a.val.toInt
  let y := b.val.toInt
  match famOf a.tag, famOf b.tag with
  | some .int, some .int => if y = 0 then some (.error (exc 10 a op)) else some (.ok ⟨.int, w32 (x.tmod y)⟩)
  | some f, some g =>
    if f = g ∧ isQ f = true then
      some (.ok (if y = 0 then ⟨famTag f true, 0⟩ else qRes f (isS a.tag || isS b.tag) (x.tmod y)))
    else none
  | _, _ => none

inductive ShOp where
  | shl | shr | sar
  deriving DecidableEq, Repr

/-- The shift of a value by an unsigned count (R186, R197). -/
def shiftVal (o : ShOp) (f : Fam) (s : Bool) (v : W32) (n : Nat) : TWord :=
  match o with
  | .shl =>
    if f = .int then ⟨.int, if n ≥ 32 then 0 else v <<< n⟩
    else if v = 0 then ⟨famTag f s, 0⟩
    else if n ≥ 32 then ⟨famTag f true, w32 (if v.toInt > 0 then maxI else minI)⟩
    else qRes f s (v.toInt * 2 ^ n)
  | .shr => ⟨famTag f s, if n ≥ 32 then 0 else v >>> n⟩
  | .sar => ⟨famTag f s, if n ≥ 32 then (if v.toInt < 0 then 0xFFFFFFFF else 0) else w32 (rdn v.toInt n)⟩

def shiftRows (o : ShOp) (a b : TWord) : Option (Except Exc TWord) :=
  match famOf a.tag, b.tag with
  | some f, .int => if f = .f32 then none else some (.ok (shiftVal o f (isS a.tag) a.val b.val.toNat))
  | _, _ => none

inductive LogOp where
  | and | or | xor
  deriving DecidableEq, Repr

def logVal (o : LogOp) (a b : W32) : W32 :=
  match o with
  | .and => a &&& b
  | .or => a ||| b
  | .xor => a ^^^ b

/-- AND, OR, XOR accept INT only, in both settings (R146, R147). -/
def logicOp (op : Nat) (o : LogOp) (a b : TWord) : Except Exc TWord :=
  if b.tag ≠ .int then .error (tagExc b.tag 0 op)
  else if a.tag ≠ .int then .error (tagExc a.tag 1 op)
  else .ok ⟨.int, logVal o a.val b.val⟩

/-- F32 to an integer of `k` fraction bits: NaN gives 0, beyond range gives MAX or MIN by sign (R187, R197). -/
def fToFix (x : W32) (k : Nat) : Int × Bool :=
  if isNan x then (0, true)
  else
    match fToInt x k with
    | some v => sat32 v
    | none => (if fSign x then minI else maxI, true)

/-- CVT c (R187); c = 15 is CLRS. -/
def cvtOp (op c : Nat) (a : TWord) : Except Exc TWord :=
  let v := a.val.toInt
  let s := isS a.tag
  let bad : Except Exc TWord := .error (tagExc a.tag 0 op)
  match c, famOf a.tag with
  | 0, some .int => .ok ⟨.q31, a.val⟩
  | 1, some .int => .ok ⟨.q16, a.val⟩
  | 2, some .q31 => .ok ⟨.int, a.val⟩
  | 3, some .q16 => .ok ⟨.int, a.val⟩
  | 4, some .q31 => .ok ⟨famTag .q16 s, w32 (rdn v 15)⟩
  | 5, some .q16 => .ok (qRes .q31 s (v * 2 ^ 15))
  | 6, some .int => .ok ⟨.f32, fOfInt v 0⟩
  | 7, some .q31 => .ok ⟨.f32, fOfInt v (-31)⟩
  | 8, some .q16 => .ok ⟨.f32, fOfInt v (-16)⟩
  | 9, some .f32 => .ok ⟨.int, w32 (fToFix a.val 0).1⟩
  | 10, some .f32 => .ok ⟨famTag .q31 (fToFix a.val 31).2, w32 (fToFix a.val 31).1⟩
  | 11, some .f32 => .ok ⟨famTag .q16 (fToFix a.val 16).2, w32 (fToFix a.val 16).1⟩
  | 12, none =>
    if a.tag = .sample ∨ a.tag = .duty ∨ a.tag = .time ∨ a.tag = .code then .ok ⟨.int, a.val⟩ else bad
  | 13, some .int => .ok ⟨.time, a.val⟩
  | 14, some .int => .ok ⟨.duty, a.val⟩
  | 15, some f => if isQ f && s then .ok ⟨famTag f false, a.val⟩ else bad
  | _, _ => bad

/-- Comparison of a pair (R188, R189): equality and less-than; none where the pair is not accepted. -/
def cmpRows (a b : TWord) (order : Bool) : Option (Bool × Bool × Bool) :=
  match famOf a.tag, famOf b.tag with
  | some f, some g =>
    if f = g then
      if f = .f32 then some (fEq a.val b.val, fLt a.val b.val false, isNan a.val || isNan b.val)
      else some (a.val == b.val, decide (a.val.toInt < b.val.toInt), false)
    else none
  | _, _ =>
    match a.tag, b.tag with
    | .time, .time => some (a.val == b.val, decide (a.val.toInt < b.val.toInt), false)
    | .addr, .addr =>
      if order && fld a.val 24 8 != fld b.val 24 8 then none
      else some (a.val == b.val, decide (fld a.val 0 24 < fld b.val 0 24), false)
    | .code, .code => some (a.val == b.val, decide (fld a.val 0 24 < fld b.val 0 24), false)
    | _, _ => none

def cmpFits (_tos : Bool) (t : Tag) : Bool := (famOf t).isSome || t == .time || t == .addr || t == .code

/-- Is the condition of KIND 0 to 3 met, given equality, less-than and a NaN (R188, R198)? -/
def condMet (kind : Nat) (r : Bool × Bool × Bool) : Bool :=
  match kind % 4 with
  | 0 => r.1 && !r.2.2
  | 1 => !r.1 || r.2.2
  | 2 => r.2.1 && !r.2.2
  | _ => !r.2.1 && !r.2.2

/-- Zero of an operand's own family. -/
def zeroOf (a : TWord) : TWord := ⟨a.tag, 0⟩

/-- The condition of a compare-and-branch on its operands, TOS first (R144, R145, R188): exception 3 or taken. -/
def branchCond (op : Nat) (tchk : Bool) (kind : Nat) (l : List TWord) : Except Exc Bool :=
  let bad (p : TWord) : Bool := isRsv p.tag || p.tag == .empty || p.tag == .poison
  match l.zipIdx.find? fun p => bad p.1 with
  | some p => .error (tagExc p.1.tag (min p.2 2) op)
  | none =>
    match kind, l with
    | k, b :: a :: _ =>
      let order := k % 4 ≥ 2
      match cmpRows a b order with
      | some r => .ok (condMet k r)
      | none =>
        match coerce tchk a b with
        | some (a', b') =>
          match cmpRows a' b' order with
          | some r => .ok (condMet k r)
          | none => .error (pairExc op cmpFits a b)
        | none => .error (pairExc op cmpFits a b)
    | k, [b] =>
      if (famOf b.tag).isSome || b.tag == .time then
        match cmpRows b (zeroOf b) true with
        | some r => .ok (condMet k r)
        | none => .error (tagExc b.tag 0 op)
      else .error (tagExc b.tag 0 op)
    | _, [] => .error (exc 9 (intW 0) op)

end Sys2Proof.Machine
end

