-- ==== Sys2Proof/Machine/System.lean ====
section
/-! DEFINITION. Operations that the families share: the Miller's event log (R508 to R513), reset requests
(R471), the reset history (R496), drive-select and its withdrawal (R68, R372, R373), and the program-store write
record (R491). -/

namespace Sys2Proof.Machine

/-! ### Event log -/

/-- AOTIME in microseconds, bits [36:5] (R496, R508). -/
def aoMicros (s : State) : W32 := BitVec.ofNat 32 (s.rst.aotime.toNat / 32)

/-- The value part of a retained word. -/
def retVal (s : State) (a : Nat) : Nat := (ramGet emptyW s.retained a).val.toNat

def retInt (s : State) (a v : Nat) : State := retWrite s a (intW v)

def logAddr (seq : Nat) : Nat := 0x600 + 4 * (seq % 64)

/-- The four words of a retained log entry. -/
def logEntryAt (s : State) (seq : Nat) : List Nat := (List.range 4).map fun i => retVal s (logAddr seq + i)

/-- Word 1 of an entry without its MERGE field. -/
def logKey (type arg wheel mill : Nat) : Nat := type + arg % 256 * 0x100 + wheel % 64 * 0x10000 + mill % 16 * 0x400000

/-- One entry appended: an unmirrored entry that it overwrites is lost (R511). -/
def logAppend (s : State) (key data : Nat) : State × Bool :=
  let n := retVal s 0x720
  let lost := decide (64 ≤ n) && decide (retVal s 0x721 ≤ n - 64)
  let a := logAddr n
  let s := retInt (retInt (retInt (retInt s a n) (a + 1) key) (a + 2) (aoMicros s).toNat) (a + 3) data
  let s := retInt s 0x720 (n + 1)
  (if lost then retInt s 0x722 (min 0xFFFFFFFF (retVal s 0x722 + 1)) else s, lost)

/-- The sequence number of a mirrored entry in mill 0's slice line 14051 + i, if the line passes its check and holds
the entry of its place (R512). -/
def mirrorWord (s : State) (line bit : Nat) : Nat :=
  let o := 18 * line
  let m := getMill s 0
  let v := (List.range 18).foldl (fun a i => a + (tget 0 m.slice (o + i)).toNat * 2 ^ (14 * i)) 0
  v / 2 ^ bit % 2 ^ 32

/-- The sequence numbers in the mirror: an entry is valid when its line passes and its SEQ belongs to the line; an all-zero
line holds no entry (R512, R513; log 15). -/
def mirrorSeqs (s : State) : List Nat :=
  (List.range 512).filterMap fun i =>
    let l := 14051 + i
    let q := mirrorWord s l 0
    let ty := mirrorWord s l 32 % 256
    if tget false (getMill s 0).badLines l || ty == 0 || q % 512 != i then none else some q

/-- One above the highest valid SEQ in the mirror. -/
def mirrorNext (s : State) : Nat := (mirrorSeqs s).foldl (fun n q => max n (q + 1)) 0

/-- An entry is written, or merged into the newest one where that is equal and at most 1 ms old; a lost entry is followed by
one of type 0Ch (R511). -/
def logPut (s : State) (key data : Nat) : State :=
  let n := retVal s 0x720
  let w := nth 0 (logEntryAt s (n - 1))
  let near := decide ((aoMicros s - BitVec.ofNat 32 (w 2)).toNat ≤ 1000)
  if n != 0 && w 0 == n - 1 && w 1 % 0x4000000 == key && w 3 == data && near then
    retInt s (logAddr (n - 1) + 1) (key + min 63 (w 1 / 0x4000000 + 1) * 0x4000000)
  else
    let (s, lost) := logAppend s key data
    if lost then (logAppend s (logKey 0x0C 0 0 0) (retVal s 0x722)).1 else s

/-- The log state rebuilt after an L3 or L4 release (R513): after L3 it stands in retained memory, after L4 it
comes from the mirror; then the entries of the reset history are written. -/
def rebuildLog (s : State) : State :=
  if s.miller.rebuild then
    let s := modMiller s fun m => { m with rebuild := false }
    let s := if (ramGet emptyW s.retained 0x720).tag == .int then s
      else
        let n := mirrorNext s
        retInt (retInt (retInt s 0x720 n) 0x721 n) 0x722 0
    let b := tget 0 s.rst.bkup 14
    let k := min 16 (fld b 4 28 - s.miller.histDone)
    let s := modMiller s fun m => { m with histDone := fld b 4 28 }
    forAll s (List.range k) fun s i => logPut s (logKey 1 0 0 0) (retVal s (0x710 + (fld b 0 4 + 16 - k + i) % 16))
  else s

/-- A log entry of a type, once the log is open (R509, R511). -/
def logEntry (s : State) (type arg wheel mill data : Nat) : State :=
  logPut (rebuildLog s) (logKey type arg wheel mill) data

/-! ### Reset requests and history -/

/-- The level that RSTMAP gives a source: a field of 101b to 111b acts as L4 (R471, R472). -/
def mapLevel (s : State) (lo : Nat) : Nat := min 4 (fld s.rst.map lo 3)

def raiseReset (s : State) (r : RstReq) : State := modRst s fun x => { x with reqs := x.reqs ++ [r] }

/-- A source of wheel scope at its mapped level: an L1 covers the wheel's mill, L2 and above the complex (R471). -/
def raiseWheelReset (s : State) (src level w : Nat) : State :=
  raiseReset s ⟨src, level, if level = 0 then w else if level = 1 then millOf w else 0, 0⟩

/-- A source of mill scope: an L0 becomes the L1 of the mill (R471). -/
def raiseMillReset (s : State) (src level m dom : Nat) : State :=
  raiseReset s ⟨src, max 1 level, if max 1 level = 1 then m else 0, dom⟩

/-- An entry of the reset history, copied into the log by the Miller (R496, R509). -/
def addHistory (s : State) (cause : W32) : State :=
  let b := tget 0 s.rst.bkup 14
  let h := fld b 0 4
  let s := retWrite s (0x710 + h) ⟨.int, cause⟩
  let v := BitVec.ofNat 32 ((h + 1) % 16 + (fld b 4 28 + 1) % 0x10000000 * 16)
  let t := BitVec.ofNat 32 (s.rst.aotime.toNat / 32)
  let s := modRst s fun r => { r with bkup := tset 0 (tset 0 r.bkup 14 v) 15 t }
  if s.miller.rebuild then s
  else logEntry (modMiller s fun m => { m with histDone := m.histDone + 1 }) 1 0 0 0 cause.toNat

/-! ### Drive-select -/

/-- A DRVSEL change raises event 40 with the new state (R372); every bit stays deasserted until DRVREL (R479). -/
def setDrv (s : State) (v : BitVec 24) : State :=
  let v := if s.rst.drvrel then v else 0
  if v = s.twin.drvsel then s else raiseRouted (modTwin s fun t => { t with drvsel := v }) 40 v.toNat

/-- The peer tracks and its heartbeat is current (R373). -/
def peerCovers (s : State) : Bool := s.twin.peerhb && !s.twin.peerLost && s.twin.peerTrack

/-- Groups of a list that the pair shares are withdrawn while the peer tracks (R347, R373). -/
def withdraw (s : State) (groups : List Nat) : State :=
  if peerCovers s then
    setDrv s (groups.foldl (fun v g => if bitOf s.twin.cfg g then v &&& ~~~(1#24 <<< g) else v) s.twin.drvsel)
  else s

/-- The groups of the sails that a wheel owns. -/
def wheelGroups (s : State) (w : Nat) : List Nat :=
  (List.range 24).filter fun g => (List.range 8).any fun i => ownsSail s w (8 * g + i)

/-- A wheel's guard entry, lock-up, L0, L1 or halt withdraws its groups (R373, R539). -/
def withdrawWheel (s : State) (w : Nat) : State := withdraw s (wheelGroups s w)

/-- A safe word for POISON or policy SAFE withdraws the sail's group when SAFEYIELD is 1 (R373). -/
def withdrawSail (s : State) (n : Nat) : State :=
  if bitOf s.twin.cfg 61 then withdraw s [n / 8] else s

/-! ### Program store -/

/-- The record of a line write begins (R491). -/
def pstoreBegin (s : State) (m line wheel : Nat) (image : Bool) : State :=
  retInt s (0x700 + m) (1 + line * 2 + b2n image * 0x20000 + wheel * 0x40000)

/-- ACTIVE clears when the write completes (R491). -/
def pstoreEnd (s : State) (m : Nat) : State := retInt s (0x700 + m) (retVal s (0x700 + m) / 2 * 2)

/-- A slice word written; its line gets fresh check bits (R231, R248). -/
def sliceWrite (s : State) (m o : Nat) (v : BitVec 14) : State :=
  modMill s m fun x => { x with slice := tset 0 x.slice o v, badLines := tset false x.badLines (o / 18) false }

end Sys2Proof.Machine
end

