-- ==== Sys2Proof/Machine/Hop.lean ====
section
/-! DEFINITION. The hoppers' packets, slots and replies (R414 to R427): what every hopper command shares. -/

namespace Sys2Proof.Machine

/-! ### Packets -/

/-- Byte `i` of the request cells of a slot. -/
def pktByte (s : State) (h : HopId) (n i : Nat) : Nat := (tget 0 (getSlot s h n).cells i).toNat

/-- `k` bytes from byte `i`, little-endian. -/
def pktLe (s : State) (h : HopId) (n i k : Nat) : Nat :=
  (List.range k).foldl (fun v j => v + pktByte s h n (i + j) * 256 ^ j) 0

def pktOp (s : State) (h : HopId) (n : Nat) : Nat := pktByte s h n 0
def pktCells (s : State) (h : HopId) (n : Nat) : Nat := pktByte s h n 1
def pktTag (s : State) (h : HopId) (n : Nat) : BitVec 16 := BitVec.ofNat 16 (pktLe s h n 2 2)
def pktNotify (s : State) (h : HopId) (n : Nat) : Bool := pktByte s h n 4 % 2 == 1

/-- The packet carries field `i` (R419). -/
def carried (s : State) (h : HopId) (n i : Nat) : Bool := decide (i + 3 ≤ 8 * pktCells s h n)

/-- Field `i` as written, or its default where the packet does not carry it (R419). -/
def fieldOr (s : State) (h : HopId) (n i : Nat) (d : W64) : W64 :=
  if carried s h n i then BitVec.ofNat 64 (pktLe s h n (16 + 8 * i) 8) else d

/-- A cell is complete: every byte has been written (R417). -/
def cellDone (s : State) (h : HopId) (n c : Nat) : Bool :=
  (((getSlot s h n).written >>> (64 * c)).setWidth 64) == (BitVec.allOnes 64)

/-! ### Commands (R429) -/

/-- Hoppers that accept an opcode, the range of NCELLS, and whether the command runs in the background. -/
structure CmdInfo where
  c : Bool
  s : Bool
  cells : Nat
  bg : Bool
  deriving DecidableEq, Repr

def cmdInfo : Nat → Option CmdInfo
  | 0x01 => some ⟨true, true, 1, false⟩
  | 0x02 => some ⟨true, true, 1, false⟩
  | 0x10 => some ⟨false, true, 1, true⟩
  | 0x11 => some ⟨false, true, 1, true⟩
  | 0x12 => some ⟨false, true, 1, true⟩
  | 0x20 => some ⟨true, false, 8, true⟩
  | 0x21 => some ⟨true, false, 2, true⟩
  | 0x22 => some ⟨true, false, 2, true⟩
  | 0x23 => some ⟨true, false, 7, true⟩
  | 0x24 => some ⟨true, true, 1, true⟩
  | 0x25 => some ⟨true, false, 1, true⟩
  | 0x30 => some ⟨true, false, 1, true⟩
  | 0x31 => some ⟨true, false, 1, true⟩
  | 0x32 => some ⟨true, true, 1, false⟩
  | 0x40 => some ⟨true, false, 1, true⟩
  | 0x41 => some ⟨true, false, 1, false⟩
  | 0x50 => some ⟨false, true, 1, true⟩
  | 0x51 => some ⟨false, true, 1, true⟩
  | 0x60 => some ⟨false, true, 1, true⟩
  | 0x61 => some ⟨false, true, 1, true⟩
  | 0x70 => some ⟨false, true, 1, false⟩
  | 0x71 => some ⟨false, true, 1, false⟩
  | 0x7F => some ⟨true, true, 1, false⟩
  | _ => none

/-- The hopper accepts the opcode (R429). -/
def accepts (h : HopId) (i : CmdInfo) : Bool :=
  match h with
  | .c => i.c
  | .s => i.s

/-- The slots of a hopper in use, and those that run a background or an immediate command. -/
def slotKeys (s : State) (h : HopId) : List Nat := tkeys 64 (getHop s h).slots
def runningSlots (s : State) (h : HopId) : List Nat := (slotKeys s h).filter fun n => (getSlot s h n).st == .running
def isBg (s : State) (h : HopId) (n : Nat) : Bool :=
  match cmdInfo (pktOp s h n) with
  | some i => i.bg
  | none => false
def bgRunning (s : State) (h : HopId) : Nat := ((runningSlots s h).filter (isBg s h)).length

/-! ### Replies -/

/-- HOPSTAT (R415). -/
def hopstat (s : State) (h : HopId) : W64 :=
  let x := getHop s h
  pk [(0, min 64 x.queue.length), (7, bgRunning s h), (10, b2n x.fallback), (11, b2n x.err), (16, x.lasttag.toNat),
      (32, x.donecnt)]

def hopEvent : HopId → Nat
  | .c => 47
  | .s => 48

/-- A packet completes (R416, R418, R421, R425): the reply is written, then HOPDONE, DONECNT and LASTTAG change, and
NOTIFY raises the hopper's event. -/
def finish (s : State) (h : HopId) (n status detail : Nat) (results : List W64) : State :=
  let sl := getSlot s h n
  let st := if status = 0 ∧ sl.clamps ≠ [] then 1 else status
  let r : Reply := ⟨BitVec.ofNat 8 (pktOp s h n), pktTag s h n, st, detail, s.ring_time.ns, results, sl.clamps⟩
  let s1 := modSlot s h n fun x =>
    { x with st := .done, reply := some r, phase := 0, aux := [], clamps := [], results := [], changed := false,
             committed := false, stop := false, holds := [] }
  let s1 := modHop s1 h fun x =>
    { x with donecnt := (x.donecnt + 1) % 0x100000000, lasttag := pktTag s h n, queue := x.queue.filter (· != n) }
  if pktNotify s h n then raiseRouted s1 (hopEvent h) (pktOp s h n + 0x100 * st) else s1

/-- A packet ended at orders 1 to 5: no results and no clamp entries (R421). -/
def reject (s : State) (h : HopId) (n status detail : Nat) : State :=
  finish (modSlot s h n fun x => { x with clamps := [] }) h n status detail []

/-- An object is held by a running command of either hopper (R423). -/
def held (s : State) (o : Obj) : Bool :=
  let f (h : HopId) : Bool := (runningSlots s h).any fun n => (getSlot s h n).holds.contains o
  f .c || f .s

/-- The row acts: its slot runs the row's command. -/
def runs (s : State) (h : HopId) (n op : Nat) : Bool :=
  (getSlot s h n).st == .running && pktOp s h n == op

/-- The command of a slot takes its holds, its clamps and a phase (R423, R426). -/
def begin_ (s : State) (h : HopId) (n phase : Nat) (holds : List Obj) (clamps : List Clamp) (aux : List Nat) : State :=
  modSlot s h n fun x => { x with phase := phase, holds := holds, clamps := clamps, aux := aux }

/-! ### Clamps (R420) -/

/-- A field put together from the applied values of its sub-fields: lowest bit, width, and what the class makes of the
value. Reserved bits are cleared. -/
def applyF (v : W64) (subs : List (Nat × Nat × (Nat → Nat))) : W64 :=
  pk (subs.map fun p => (p.1, p.2.2 (fld v p.1 p.2.1)))

/-- The report of a field that has been changed. -/
def clampOf (s : State) (h : HopId) (n i : Nat) (applied : W64) : List Clamp :=
  if carried s h n i && fieldOr s h n i 0 != applied then [⟨i, fieldOr s h n i 0, applied⟩] else []

/-- Class N. -/
def clampN (lo hi v : Nat) : Nat := max lo (min hi v)

/-- Class E with values 0 to `k`. -/
def clampE (k d v : Nat) : Nat := if v ≤ k then v else d

/-- A tagged word in bits [35:0], and back. -/
def wordOf (v : W64) : TWord := ⟨tagOf (fld v 32 4), v.setWidth 32⟩
def ofWord (x : TWord) : W64 := pk [(0, x.val.toNat), (32, tagCode x.tag)]

/-- Class W. -/
def clampW (v : W64) : W64 := if isRsv (wordOf v).tag then ofWord emptyW else ofWord (wordOf v)

/-! ### Units -/

/-- The number of mills and of wheels (R6, R12). -/
def nMills (s : State) : Nat := fld s.capsUnits 0 5
def nWheels (s : State) : Nat := 4 * nMills s

def hasRace1 (s : State) : Bool := bitOf s.capsUnits 8
def hasRing (s : State) : Bool := bitOf s.capsUnits 9
def hasEmu (s : State) : Bool := bitOf s.capsUnits 10
def hasWeirHi (s : State) : Bool := bitOf s.capsUnits 11
def hasWeir (s : State) (w : Nat) : Bool := decide (w < 48) || hasWeirHi s
def hasLane (s : State) (k : Nat) : Bool := if k = 0 then true else if k = 1 then hasRace1 s else hasRing s

/-- The reset level in progress: 0 for none. -/
def resetLevel (s : State) : Nat :=
  match s.rst.phase with
  | .run => 0
  | .assert l => l
  | .release l => l
  | .storm => 3

/-- The units that an L2 reset does not reset work: no L3 or L4 reset, no RETENTION. -/
def unitsLive (s : State) : Bool := decide (resetLevel s < 3) && !s.rst.retention && !s.rst.off

/-- A frame of the complex in FSTAT state `k`. -/
def frameState (s : State) (f : Nat) : Nat :=
  match getFrame s f with
  | some d => fsState s d.wheel d.slot
  | none => 0

/-- The numbers of the defined frames. -/
def frameKeys (s : State) : List Nat := tkeys 512 s.frames

/-- The frame that names a sail (R434: a sail has at most one owner). -/
def sailFrame (s : State) (j : Nat) : Option Nat :=
  (frameKeys s).find? fun f =>
    match getFrame s f with
    | some d => ownsSail s d.wheel j && (frameSails s d.wheel d.slot).contains j
    | none => false

end Sys2Proof.Machine
end

