-- ==== Sys2Proof/Machine/WStack.lean ====
section
/-! DEFINITION. Stack, frame and literal instructions (R182), and RTIME and GETMODE (R142, R172). -/

namespace Sys2Proof.Machine

abbrev Out := Host.Outcome State Fault Refusal

/-- The scratchpad word index of a frame word, as INFO of exception 15 gives it (R284). -/
def frameInfo (t i : Nat) : TWord := intW (frameAddr t i)

/-- A frame word read by the wheel: exception 15 where it cannot be corrected (R331). -/
def readFrame (s : State) (w op i : Nat) : Except (State × Exc) (State × TWord) :=
  let t := (getWheel s w).frm
  let a := frameAddr t i
  let s1 := noteRead s (.spad (Fin.ofNat 64 w)) a
  match spadRead s w a with
  | none => .error (s1, exc 15 (frameInfo t i) op)
  | some v => .ok (s1, v)

/-- NOP (R182): the instruction retires. -/
def execNop (w : WheelId) (s : State) : Out := .next (stackOp s w 0x01 0 0 fun _ _ => .ok [])

/-- DUP ( a — a a ) (R182). -/
def execDup (w : WheelId) (s : State) : Out :=
  .next (stackOp s w 0x10 1 2 fun _ l => moveOp 0x10 l [nth emptyW l 0, nth emptyW l 0])

/-- DROP ( a — ) (R182). -/
def execDrop (w : WheelId) (s : State) : Out := .next (stackOp s w 0x11 1 0 fun _ l => moveOp 0x11 l [])

/-- SWAP ( a b — b a ) (R182). -/
def execSwap (w : WheelId) (s : State) : Out :=
  .next (stackOp s w 0x12 2 2 fun _ l => moveOp 0x12 l [nth emptyW l 0, nth emptyW l 1])

/-- OVER ( a b — a b a ) (R182). -/
def execOver (w : WheelId) (s : State) : Out :=
  .next (stackOp s w 0x13 2 3 fun _ l => moveOp 0x13 l [nth emptyW l 1, nth emptyW l 0, nth emptyW l 1])

/-- ROT ( a b c — b c a ) (R182). -/
def execRot (w : WheelId) (s : State) : Out :=
  .next (stackOp s w 0x14 3 3 fun _ l => moveOp 0x14 l [nth emptyW l 1, nth emptyW l 0, nth emptyW l 2])

/-- PICK n: a copy of the entry n below TOS; n ≥ SD raises exception 9 (R182). -/
def execPick (w : WheelId) (n : BitVec 5) (s : State) : Out :=
  let op := 0x300 + n.toNat
  .next <| issue s w op [] fun s =>
    let x := getWheel s w
    match depthExc x (n.toNat + 1) 0 1 op with
    | some e => .error (s, e)
    | none =>
      let v := stkRd x n.toNat
      if isRsv v.tag then .error (s, tagExc v.tag (min n.toNat 2) op)
      else .ok (modWheel s w fun x => popPush x 0 [v], .next)

/-- PUSHI s: a sign-extended INT (R182). -/
def execPushi (w : WheelId) (v : BitVec 8) (s : State) : Out :=
  .next (stackOp s w (0x100 + v.toNat) 0 1 fun _ _ => .ok [⟨.int, v.signExtend 32⟩])

/-- The value that LITS makes of its sign-extended extension (R182); none for a tag that R181 reserves. -/
def litsVal (t : Tag) (e : BitVec 14) : Option W32 :=
  match t with
  | .int => some (e.signExtend 32)
  | .time => some (e.signExtend 32)
  | .q31 => some (e.signExtend 32 <<< 18)
  | .q16 => some (e.signExtend 32 <<< 16)
  | _ => none

/-- LITS t (R182); a reserved TAG raises exception 2 (R181). -/
def execLits (w : WheelId) (t : BitVec 4) (e : BitVec 14) (s : State) : Out :=
  let op := 0x3100 + t.toNat
  .next <| issue s w op [e.toNat] fun s =>
    match litsVal (tagOf t.toNat) e with
    | none => .error (s, exc 2 (intW 0) op)
    | some v =>
      match depthExc (getWheel s w) 0 0 1 op with
      | some x => .error (s, x)
      | none => .ok (modWheel s w fun x => popPush x 0 [⟨tagOf t.toNat, v⟩], .next)

/-- The tags that LITT takes (R181). -/
def littTag : Tag → Bool
  | .int | .q31 | .q16 | .f32 | .code | .time => true
  | _ => false

/-- LITT t: the assembled 32-bit value (R182); a reserved TAG raises exception 2 (R181). -/
def execLitt (w : WheelId) (t : BitVec 4) (v : W32) (s : State) : Out :=
  let op := 0x3000 + t.toNat * 16 + v.toNat / 0x10000000
  .next <| issue s w op [v.toNat / 0x4000 % 0x4000, v.toNat % 0x4000] fun s =>
    if littTag (tagOf t.toNat) then
      match depthExc (getWheel s w) 0 0 1 op with
      | some x => .error (s, x)
      | none => .ok (modWheel s w fun x => popPush x 0 [⟨tagOf t.toNat, v⟩], .next)
    else .error (s, exc 2 (intW 0) op)

/-- LDL i: push local Fi (R148). -/
def execLdl (w : WheelId) (i : BitVec 5) (s : State) : Out :=
  let op := 0x200 + i.toNat
  .next (stackOp s w op 0 1 fun x _ => moveOp op [winRd x i.toNat] [winRd x i.toNat])

/-- STL i: pop into local Fi (R148). -/
def execStl (w : WheelId) (i : BitVec 5) (s : State) : Out :=
  let op := 0x220 + i.toNat
  .next <| issue s w op [] fun s =>
    let x := getWheel s w
    match depthExc x 1 1 0 op with
    | some e => .error (s, e)
    | none =>
      match rsvExc op (tops x 1) with
      | some e => .error (s, e)
      | none => .ok (modWheel s w fun x => winWr (popPush x 1 []) i.toNat (stkRd x 0), .next)

/-- LDF w: push a word of the current frame (R182, R331). -/
def execLdf (w : WheelId) (i : BitVec 6) (s : State) : Out :=
  let op := 0x240 + i.toNat
  .next <| issue s w op [] fun s =>
    match depthExc (getWheel s w) 0 0 1 op with
    | some e => .error (s, e)
    | none =>
      match readFrame s w op i.toNat with
      | .error e => .error e
      | .ok (s, v) =>
        if isRsv v.tag then .error (s, tagExc v.tag 3 op)
        else .ok (modWheel s w fun x => popPush x 0 [v], .next)

/-- The frame words that a loop may write (R90). -/
def loopWord (i : Nat) : Bool := (12 ≤ i && i ≤ 31) || (60 ≤ i && i ≤ 63)

/-- STF w: pop into a frame word; a word outside 12–31 and 60–63 raises exception 5 (R90). -/
def execStf (w : WheelId) (i : BitVec 6) (s : State) : Out :=
  let op := 0x280 + i.toNat
  .next <| issue s w op [] fun s =>
    let x := getWheel s w
    match depthExc x 1 1 0 op with
    | some e => .error (s, e)
    | none =>
      match rsvExc op (tops x 1) with
      | some e => .error (s, e)
      | none =>
        if loopWord i.toNat then
          .ok (setFw (modWheel s w fun x => popPush x 1 []) w x.frm i.toNat (stkRd x 0), .next)
        else .error (s, exc 5 (Config.frameInfo5 i.toNat) op)

/-- Ring time elapsed since the current run's wake, in units of 2^-4 ns, saturating (R142). -/
def rtimeVal (s : State) (x : Wheel) : W32 :=
  match x.run with
  | none => 0
  | some r =>
    let u (t : RingStamp) : Int := (t.ns.toNat * 65536 + t.frac.toNat : Nat)
    let d := (u s.ring_time - u r.wakeAt).fdiv 4096
    BitVec.ofInt 32 (if d > 0x7FFFFFFF then 0x7FFFFFFF else if d < -0x80000000 then -0x80000000 else d)

/-- RTIME ( — t:TIME ) (R142). -/
def execRtime (w : WheelId) (s : State) : Out :=
  .next (stackOp s w 0x04 0 1 fun x _ => .ok [⟨.time, rtimeVal s x⟩])

/-- GETMODE ( — m:INT ) (R172, R182). -/
def execGetmode (w : WheelId) (s : State) : Out :=
  .next (stackOp s w 0x06 0 1 fun x _ => .ok [intW (modeView x)])

end Sys2Proof.Machine
end

