-- ==== Sys2Proof/Machine/WFlow.lean ====
section
/-! DEFINITION. Control transfer: jumps, calls, RETURN and ENTER with the return and shadow stacks, branches and
tag tests (R151 to R161, R176, R177, R188 to R191, R304). -/

namespace Sys2Proof.Machine

/-! ### Return and shadow stacks -/

/-- A RET word (R159). -/
def mkRet (addr delta : Nat) (ent world : Bool) : W32 :=
  BitVec.ofNat 32 (addr % 0x1000000 + delta % 64 * 0x1000000 + b2n ent * 0x40000000 + b2n world * 0x80000000)
def rtAddr (r : W32) : Nat := fld r 0 24
def rtDelta (r : W32) : Nat := fld r 24 6
def rtEnt (r : W32) : Bool := bitOf r 30
def rtWorld (r : W32) : Bool := bitOf r 31

/-- The shadow stack of the current world: its base (R160) and depth. -/
def shBase (x : Wheel) : Nat := if x.mode.world then 0x7840 else 0x7800
def shDepth (x : Wheel) : Nat := if x.mode.world then x.ssd else x.csd
def setSh (x : Wheel) (n : Nat) : Wheel := if x.mode.world then { x with ssd := n } else { x with csd := n }

/-- The shadow word at the top of the current world's stack; none when the stack is empty or the word cannot be
corrected, which counts as a mismatch (R331). -/
def shTop (s : State) (w : Nat) (x : Wheel) : Option TWord :=
  if shDepth x = 0 then none else spadRead s w (shBase x + (shDepth x - 1))

def noteSh (s : State) (w : Nat) (x : Wheel) : State :=
  if shDepth x = 0 then s else noteRead s (.spad (Fin.ofNat 64 w)) (shBase x + (shDepth x - 1))

/-- A RET word pushed onto both stacks (R159, R161). -/
def pushRet (x : Wheel) (r : W32) : Wheel :=
  setSh { wSpad x (shBase x + shDepth x) ⟨.ret, r⟩ with rstack := r :: x.rstack } (shDepth x + 1)

/-- Both stacks popped. -/
def popRet (x : Wheel) : Wheel := setSh { x with rstack := x.rstack.tail } (shDepth x - 1)

/-- The return stack acts as empty at the floor (R304). -/
def atFloor (x : Wheel) : Bool := x.rstack.length == x.floor || x.rstack.isEmpty

/-! ### Spill and fill -/

/-- Spilling from RF up to `k` words (R152). -/
def spill : Nat → Wheel → Wheel
  | 0, x => x
  | k + 1, x => spill k { wSpad x (0x6000 + x.rf) (tget emptyW x.regs (x.rf % 512)) with rf := x.rf + 1 }

/-- The window moved up by `d`, after spilling what the register file cannot hold (R152). -/
def windowUp (x : Wheel) (d : Nat) : Wheel :=
  let y := spill (x.vb + d + 64 - 512 - x.rf) x
  { y with vb := x.vb + d }

/-- Filling `k` words below RF; a word that cannot be corrected arrives as POISON (R155, R331). -/
def fill (w : Nat) : Nat → State → State
  | 0, s => s
  | k + 1, s =>
    let x := getWheel s w
    let a := 0x6000 + (x.rf - 1)
    let v := (spadRead s w a).getD poisonW
    fill w k (modWheel (noteRead s (.spad (Fin.ofNat 64 w)) a) w fun x =>
      { x with rf := x.rf - 1, regs := tset emptyW x.regs ((x.rf - 1) % 512) v })

/-- The window restored to `vb` and filled (R155, R301). -/
def windowTo (s : State) (w vb : Nat) : State :=
  let s := modWheel s w fun x => { x with vb := vb }
  fill w ((getWheel s w).rf - vb) s

/-! ### Jumps and calls -/

/-- The transfer to `t`, checked under R158. -/
def goto (s : State) (w op : Nat) (t : W32) (f : Wheel → Wheel) : Res :=
  match xferExc (getWheel s w) w t with
  | some n => .error (s, xferFault t n op)
  | none => .ok (modWheel s w f, .jump t)

/-- A relative transfer (R177). -/
def gotoRel (s : State) (w op : Nat) (ofs : Int) (f : Wheel → Wheel) : Res :=
  let c := (getWheel s w).pc
  match relTarget c ofs with
  | none => .error (s, exc 4 ⟨.code, relBad c ofs⟩ op)
  | some t => goto s w op t f

/-- JMP s (R191). -/
def execJmp (w : WheelId) (ofs : BitVec 8) (s : State) : Out :=
  let op := 0x400 + ofs.toNat
  .next <| issue s w op [] fun s => gotoRel s w op ofs.toInt id

/-- JMPL (R191). -/
def execJmpl (w : WheelId) (ofs : BitVec 18) (s : State) : Out :=
  let op := 0x3280 + ofs.toNat / 0x4000
  .next <| issue s w op [ofs.toNat % 0x4000] fun s => gotoRel s w op ofs.toInt id

/-- The CODE operand of JMPI and CALLI (R144 to R146). -/
def codeOperand (s : State) (w op : Nat) : Except (State × Exc) W32 :=
  let x := getWheel s w
  match depthExc x 1 1 0 op with
  | some e => .error (s, e)
  | none => if (stkRd x 0).tag = .code then .ok (stkRd x 0).val else .error (s, tagExc (stkRd x 0).tag 0 op)

/-- JMPI ( c:CODE — ) (R191). -/
def execJmpi (w : WheelId) (s : State) : Out :=
  .next <| issue s w 0x71 [] fun s =>
    match codeOperand s w 0x71 with
    | .error e => .error e
    | .ok c => goto s w 0x71 c fun x => popPush x 1 []

/-- The RET word of a CALL of `len` words at PC (R159). Where the CALL ends its region, the spec gives no return address, and
ADDR holds the offset after it modulo 2^18 (log 115, DESIGN CHOICE). -/
def callRet (x : Wheel) (len : Nat) : W32 := mkRet (codeAdd x.pc len).toNat 0 false x.mode.world

/-- A CALL: exception 8 at depth 64 comes before the target's checks (R159, R191). -/
def callRel (s : State) (w op len : Nat) (ofs : Int) : Res :=
  let x := getWheel s w
  if x.rstack.length ≥ 64 then .error (s, exc 8 (intW 0) op)
  else gotoRel s w op ofs fun y => pushRet y (callRet x len)

/-- CALL s (R159, R191). -/
def execCall (w : WheelId) (ofs : BitVec 8) (s : State) : Out :=
  let op := 0x500 + ofs.toNat
  .next <| issue s w op [] fun s => callRel s w op 1 ofs.toInt

/-- CALLL (R159, R191). -/
def execCalll (w : WheelId) (ofs : BitVec 18) (s : State) : Out :=
  let op := 0x3290 + ofs.toNat / 0x4000
  .next <| issue s w op [ofs.toNat % 0x4000] fun s => callRel s w op 2 ofs.toInt

/-- CALLI ( c:CODE — ) (R191). -/
def execCalli (w : WheelId) (s : State) : Out :=
  .next <| issue s w 0x70 [] fun s =>
    match codeOperand s w 0x70 with
    | .error e => .error e
    | .ok c =>
      let x := getWheel s w
      if x.rstack.length ≥ 64 then .error (s, exc 8 (intW 0) 0x70)
      else goto s w 0x70 c fun y => pushRet (popPush y 1 []) (callRet x 1)

/-- CADR ( — c:CODE ) (R191). -/
def execCadr (w : WheelId) (ofs : BitVec 18) (s : State) : Out :=
  let op := 0x32A0 + ofs.toNat / 0x4000
  .next <| issue s w op [ofs.toNat % 0x4000] fun s =>
    let x := getWheel s w
    match depthExc x 0 0 1 op with
    | some e => .error (s, e)
    | none =>
      match relTarget x.pc ofs.toInt with
      | none => .error (s, exc 4 ⟨.code, relBad x.pc ofs.toInt⟩ op)
      | some t => .ok (modWheel s w fun x => popPush x 0 [⟨.code, t⟩], .next)

/-! ### Branches -/

/-- A compare-and-branch of KIND `kind`: operands popped, the target checked only when taken (R177, R188). -/
def branch (s : State) (w op : Nat) (ext : List Nat) (kind : Nat) (ofs : Int) : State :=
  issue s w op ext fun s =>
    let x := getWheel s w
    let n := if kind < 4 then 2 else 1
    match depthExc x n n 0 op with
    | some e => .error (s, e)
    | none =>
      match branchCond op x.mode.tchk kind (tops x n) with
      | .error e => .error (s, e)
      | .ok false => .ok (modWheel s w fun x => popPush x n [], .next)
      | .ok true => gotoRel s w op ofs fun x => popPush x n []

/-- BEQ (R188). -/
def execBeq (w : WheelId) (o : BitVec 8) (s : State) : Out := .next (branch s w (0x800 + o.toNat) [] 0 o.toInt)
/-- BNE (R188). -/
def execBne (w : WheelId) (o : BitVec 8) (s : State) : Out := .next (branch s w (0x900 + o.toNat) [] 1 o.toInt)
/-- BLT (R188). -/
def execBlt (w : WheelId) (o : BitVec 8) (s : State) : Out := .next (branch s w (0xA00 + o.toNat) [] 2 o.toInt)
/-- BGE (R188). -/
def execBge (w : WheelId) (o : BitVec 8) (s : State) : Out := .next (branch s w (0xB00 + o.toNat) [] 3 o.toInt)
/-- BEQZ (R188). -/
def execBeqz (w : WheelId) (o : BitVec 8) (s : State) : Out := .next (branch s w (0xC00 + o.toNat) [] 4 o.toInt)
/-- BNEZ (R188). -/
def execBnez (w : WheelId) (o : BitVec 8) (s : State) : Out := .next (branch s w (0xD00 + o.toNat) [] 5 o.toInt)
/-- BLTZ (R188). -/
def execBltz (w : WheelId) (o : BitVec 8) (s : State) : Out := .next (branch s w (0xE00 + o.toNat) [] 6 o.toInt)
/-- BGEZ (R188). -/
def execBgez (w : WheelId) (o : BitVec 8) (s : State) : Out := .next (branch s w (0xF00 + o.toNat) [] 7 o.toInt)

/-- BccL: the long forms, KIND 0 to 7 (R191). -/
def execBccl (w : WheelId) (kind : BitVec 3) (o : BitVec 18) (s : State) : Out :=
  .next (branch s w (0x3200 + kind.toNat * 16 + o.toNat / 0x4000) [o.toNat % 0x4000] kind.toNat o.toInt)

/-- A tag test: TOS stays; a reserved tag raises exception 3 (R190). -/
def tagTest (s : State) (w op : Nat) (t : Nat) (sense : Bool) (ofs : Int) : State :=
  issue s w op [] fun s =>
    if t = 12 ∨ t = 13 then .error (s, exc 2 (intW 0) op)
    else
      let x := getWheel s w
      match depthExc x 1 0 0 op with
      | some e => .error (s, e)
      | none =>
        let v := stkRd x 0
        if isRsv v.tag then .error (s, tagExc v.tag 0 op)
        else if (tagCode v.tag == t) != sense then gotoRel s w op ofs id
        else .ok (s, .next)

/-- BTAG t (R190). -/
def execBtag (w : WheelId) (t : BitVec 4) (o : BitVec 7) (s : State) : Out :=
  .next (tagTest s w (0x2000 + t.toNat * 128 + o.toNat) t.toNat false o.toInt)

/-- BNTAG t (R190). -/
def execBntag (w : WheelId) (t : BitVec 4) (o : BitVec 7) (s : State) : Out :=
  .next (tagTest s w (0x2800 + t.toNat * 128 + o.toNat) t.toNat true o.toInt)

/-! ### ENTER and RETURN -/

/-- The checks of ENTER in the order of R151; n above 32 is reserved (R181), and the guard handler has no window to
move (R312). -/
def enterExc (x : Wheel) (n op : Nat) : Option Exc :=
  if n > 32 then some (exc 2 (intW 0) op)
  else if x.mode.guard then some (exc 6 (intW 0) op)
  else if atFloor x then some (exc 9 (intW 0) op)
  else
    let r := nth 0 x.rstack 0
    if rtEnt r ∨ rtWorld r ≠ x.mode.world then some (exc 2 (intW 0) op)
    else if n > x.sd then some (exc 9 (intW 0) op)
    else if x.vb + 32 + x.sd - n + 64 > 4608 then some (exc 8 (intW 0) op)
    else none

/-- DELTA and ENT of the shadow copy at the top (R159): its other bits stay; a copy that cannot be corrected stays as it is. -/
def enterShadow (s : State) (w delta : Nat) : State :=
  let x := getWheel s w
  match shTop s w x with
  | none => noteSh s w x
  | some v =>
    let r : W32 := setFld (setFld v.val 24 6 delta) 30 1 1
    modWheel (noteSh s w x) w fun x => wSpad x (shBase x + (shDepth x - 1)) { v with val := r }

/-- ENTER n (R151 to R153, R159). -/
def execEnter (w : WheelId) (n : BitVec 6) (s : State) : Out :=
  let op := 0x2C0 + n.toNat
  .next <| issue s w op [] fun s =>
    let x := getWheel s w
    match enterExc x n.toNat op with
    | some e => .error (s, e)
    | none =>
      let d := 32 + x.sd - n.toNat
      let r := nth 0 x.rstack 0
      let r' := mkRet (rtAddr r) (d - 32) true (rtWorld r)
      let s1 := modWheel s w fun x => { windowUp x d with sd := 0, rstack := r' :: x.rstack.tail }
      .ok (modWheel (enterShadow s1 w (d - 32)) w fun x => emptyLocals x n.toNat, .next)

/-- The checks of RETURN before the target, in the order of R154. -/
def returnExc (s : State) (w : Nat) (x : Wheel) (r op : Nat) : Option Exc :=
  if atFloor x then some (exc 9 (intW 0) op)
  else
    let e := nth 0 x.rstack 0
    if rtWorld e ≠ x.mode.world then some (exc 6 (intW 0) op)
    else if shTop s w x ≠ some ⟨.ret, e⟩ then some (exc 7 ⟨.ret, e⟩ op)
    else if rtEnt e = false ∧ r ≠ 0 then some (exc 2 (intW 0) op)
    else if r > depth x then some (exc 9 (intW 0) op)
    else if rtEnt e = true ∧ rtDelta e + r > 32 then some (exc 8 (intW 0) op)
    else none

/-- The callee's results moved to the caller's stack, and the caller's window back (R155). -/
def returnWindow (s : State) (w r : Nat) (e : W32) : State :=
  let x := getWheel s w
  let vs := (tops x r).reverse
  let s := modWheel s w fun x => (vs.zipIdx.foldl (fun x p => winWr x p.2 p.1) x)
  modWheel (windowTo s w (x.vb - (rtDelta e + 32))) w fun x => { x with sd := rtDelta e + r }

/-- RETURN r (R154, R155). -/
def execReturnW (w : WheelId) (r : BitVec 3) (s : State) : Out :=
  let op := 0x320 + r.toNat
  .next <| issue s w op [] fun s0 =>
    let x := getWheel s0 w
    let s := if atFloor x || rtWorld (nth 0 x.rstack 0) != x.mode.world then s0 else noteSh s0 w x
    match returnExc s0 w x r.toNat op with
    | some e => .error (s, e)
    | none =>
      let e := nth 0 x.rstack 0
      let t := BitVec.ofNat 32 (rtAddr e)
      match xferExc x w t with
      | some n => .error (s, xferFault t n op)
      | none =>
        let s := if rtEnt e && !x.mode.guard then returnWindow s w r.toNat e else s
        .ok (modWheel s w popRet, .jump t)

end Sys2Proof.Machine
end

