-- ==== Sys2Proof/Machine/Loop.lean ====
section
/-! DEFINITION. Running loops: occurrences of a source in the wake tables (R45, R82), wakes and dispatch (R83 to R87,
R105, R543), parking (R94, R95, R282), and expiry of a run (R96 to R99). -/

namespace Sys2Proof.Machine

/-! ### Occurrences -/

/-- The numbers of the wheels whose state is not that of reset, and of a wheel's entries in use. -/
def wheelKeys (s : State) : List Nat := tkeys 64 s.wheels
def wakeKeys (x : Wheel) : List Nat := tkeys 16 x.wakes

/-- The wheels and entries that bind a source (R81); `leat` for SRC 0. -/
def boundTo (s : State) (leat : Bool) (idx : Nat) : List (Nat × Nat) :=
  (wheelKeys s).flatMap fun w =>
    ((wakeKeys (getWheel s w)).filter fun e =>
      let n := getWake s w e
      n.en && n.src == !leat && n.idx == idx).map fun e => (w, e)

/-- An occurrence enters the synchronise-and-latch stage of every armed entry that binds its source (R45). -/
def pushOcc (s : State) (leat : Bool) (idx : Nat) (v : TWord) : State :=
  let s1 := (boundTo s leat idx).foldl (fun t p => modWake t p.1 p.2 fun n => { n with latch := n.latch ++ [(v, s.order)] }) s
  { s1 with order := s.order + 1 }

/-- The wheels that hold an armed entry bound to a leat (event 32, R286). -/
def boundWheels (s : State) (idx : Nat) : List Nat :=
  (wheelKeys s).filter fun w => (boundTo s true idx).any fun p => p.1 == w

/-- The wake word of a period boundary (R84). -/
def tbWord (t : Nat) (idx : BitVec 16) : TWord := intW (idx.toNat + t * 0x10000)

/-- The SAMPLE or POISON word of a leat (R54, R84). -/
def leatWordOf (d : W32) : TWord := ⟨if bitOf d 16 then .poison else .sample, d &&& 0x0FFFFFFF⟩

/-! ### Parking -/

/-- LOOP_STOP's end: no run of the frame is in progress, every named sail writes its safe word, and the frame is
stopped (R95, R111). -/
def stopDone (s : State) (w t : Nat) : State :=
  setFstat (forAll s (frameSails s w t) writeSafe) w t 0 2 0

/-- The state of a wheel that parks (R87, R150, R215, R247). -/
def parkWheel (x : Wheel) : Wheel :=
  { x with parked := true, run := none, mode := {}, pend := [], vb := 0, rf := 0, sd := 0, rstack := [], csd := 0,
           ssd := 0, floor := 0, blk := {}, blkSeg := none, rpt := {}, iterEnd := false, fresh := false,
           fetch := { x.fetch with next := [] } }

/-- The wheel parks: its run ends, and a frame that is stopping becomes stopped. -/
def park (s : State) (w : Nat) : State :=
  let r := (getWheel s w).run
  let s := modWheel (ffWrite s w) w parkWheel
  match r with
  | some r => if fsState s w r.frame = 2 then stopDone s w r.frame else s
  | none => s

/-! ### Dispatch -/

/-- The wheel takes wakes: it is parked and nothing holds it (R342, R365, R440, R538). -/
def canDispatch (s : State) (w : Nat) : Bool :=
  let x := getWheel s w
  wheelLive s w && x.parked && !x.halted && !x.hold && x.fault.isNone

/-- May the entry's loop run now: a mode pair runs only in its active direction, in RUN or RAMP (R105). -/
def pairOk (s : State) (w : Nat) (n : WakeEnt) : Bool :=
  !fsPair s w n.frame || (n.dir == fsDir s w n.frame && decide (fsX s w n.frame ≤ 1))

/-- The pending entry that goes first: earliest wake, then lowest index (R85). -/
def firstPending (x : Wheel) : Option Nat :=
  (wakeKeys x).foldl (fun best e =>
    let n := tget {} x.wakes e
    if n.pend then
      match best with
      | none => some e
      | some b => if n.stamp < (tget {} x.wakes b).stamp then some e else best
    else best) none

def slotKey (frame entry : Nat) : W32 := BitVec.ofNat 32 (frame + 16 * entry)

/-- The pending wake of an entry has expired and its exception 18 has not been taken: it comes before the run's first
instruction (R98, R99). -/
def waits18 (x : Wheel) (e : Nat) : Bool :=
  x.exc18.any fun p => p.1 == slotKey (tget {} x.wakes e).frame e && p.2.2

/-- The dispatch state of R87, with the run that begins. No boundary lies before its first instruction (R83, R293). -/
def startWheel (x : Wheel) (e : Nat) (n : WakeEnt) : Wheel :=
  let y := wWake (parkWheel x) e fun n => { n with pend := false, expired := false, taken := [] }
  let r : Run := ⟨e, n.frame, n.dir, n.wakeAt, n.expired, [], n.taken, false⟩
  let y := winWr { y with sd := 1 } 32 n.word
  { y with parked := false, frm := n.frame, run := some r, fresh := true }

/-- The first instruction of the entry point issues next; a program-store entry comes from its entry-line copy (R239). Without
a copy of that line it is read as a handler's entry point is. -/
def enterCode (s : State) (w e : Nat) (c : W32) : State :=
  modWheel s w fun x =>
    let x := { x with pc := c }
    if cRegion c ≠ 0 then x
    else if holdsLine (tget none x.fetch.entry e) (lineOf c) then
      match tget none x.fetch.entry e with
      | some l => { x with fetch := enterLine x.fetch l }
      | none => x
    else { x with fetch := entryFetch x c }

/-- A faulting dispatch (R543): the wheel issues nothing from the frame, and its record is that of a parked wheel. -/
def badDispatch (s : State) (w e : Nat) (n : WakeEnt) (num : Nat) (info : TWord) : State :=
  modWheel s w fun x =>
    { x with sd := 0, faultParked := true, fault := some ⟨num, info, ⟨.int, slotKey n.frame e⟩⟩ }

/-- The wake of entry `e` is dispatched (R87, R543). -/
def dispatch (s : State) (w e : Nat) : State :=
  let n := getWake s w e
  let a := frameAddr n.frame (if n.dir then 6 else 5)
  let s := modWheel s w fun x => startWheel x e n
  let s := match frameAt s w n.frame with
    | some f => modFrame s f fun d => { d with runs := d.runs + 1, lastWake := n.wakeAt.ns }
    | none => s
  let s := traceRec s w 0 e n.frame
  let s1 := noteRead s (.spad (Fin.ofNat 64 w)) a
  match spadRead s w a with
  | none => badDispatch s1 w e n 15 (intW a)
  | some v =>
    if v.tag ≠ .code then badDispatch s1 w e n 3 (intW (tagCode v.tag + 0x30))
    else
      match xferExc (getWheel s1 w) w v.val with
      | some _ => badDispatch s1 w e n 4 v
      | none => enterCode s1 w e v.val

/-- Pending entries are dispatched in wake order; one whose mode pair no longer admits it is discarded, and one whose run has
expired waits for its exception 18 (R85, R99, R105). -/
def dispatchFrom : Nat → State → Nat → State
  | 0, s, _ => s
  | k + 1, s, w =>
    if canDispatch s w then
      match firstPending (getWheel s w) with
      | none => s
      | some e =>
        if pairOk s w (getWake s w e) then (if waits18 (getWheel s w) e then s else dispatch s w e)
        else dispatchFrom k (modWake s w e fun n => { n with pend := false, expired := false, taken := [] }) w
    else s

def dispatchNext (s : State) (w : Nat) : State := dispatchFrom 16 s w

/-! ### Wakes -/

/-- A pending wake is replaced by a newer word: LEATCFG.LOST counts for leats 0 to 255, and event 33 is raised (R86, R113); a
ring leat has no such register (R403). -/
def replaceWake (s : State) (w e : Nat) (v : TWord) : State :=
  let n := getWake s w e
  let s := modWake s w e fun n => { n with word := v }
  let s := if n.src = false ∧ n.idx < 256 then modLeat s n.idx fun l => { l with lost := satInc 0xFF l.lost } else s
  raiseEv s w 33 (n.idx + 0x200 * b2n n.src + 0x400 * e)

/-- A wake reaches entry `e` (R83, R86, R105). -/
def wakeEntry (s : State) (w e : Nat) (v : TWord) (stamp : Nat) : State :=
  let n := getWake s w e
  if pairOk s w n then
    if n.pend then replaceWake s w e v
    else
      let f (n : WakeEnt) : WakeEnt :=
        { n with pend := true, word := v, stamp := stamp, wakeAt := s.ring_time, expired := false, taken := [] }
      dispatchNext (modWake s w e f) w
  else s

/-- The oldest occurrence in the latch stage of an entry reaches it: it is counted, and the one that completes the
group of DIV + 1 wakes (R82, R83). -/
def occurrence (s : State) (w e : Nat) : State :=
  let n := getWake s w e
  match n.latch with
  | [] => s
  | (v, stamp) :: rest =>
    if n.en then
      if n.cnt ≥ n.div then wakeEntry (modWake s w e fun n => { n with latch := rest, cnt := 0 }) w e v stamp
      else modWake s w e fun n => { n with latch := rest, cnt := n.cnt + 1 }
    else modWake s w e fun n => { n with latch := rest }

/-! ### Expiry -/

/-- A sail takes its overrun policy (R97). -/
def overrunSail (s : State) (j : Nat) : State :=
  let p := (getSail s j).ovrpol
  let s := modSail s j fun x => { x with ovrcnt := satInc 0xFF x.ovrcnt }
  if p then withdrawSail (writeSafe s j) j else s

/-- The sails of a frame's active direction, each once. -/
def activeSails (s : State) (w t : Nat) : List Nat :=
  (sailList (fw s w t (if fsDir s w t then 4 else 3))).foldl (fun l j => if l.contains j then l else l ++ [j]) []

/-- A run of the frame in slot `t` expires: policies, MISSCNT, exception 18 and the trace (R97, R98). The list is the
sails that took their policy. -/
def expire (s : State) (w t e : Nat) (written : List Nat) (count : W32) (pending : Bool) : State × List Nat :=
  let l := (activeSails s w t).filter fun j => ownsSail s w j && !written.contains j
  let s := forAll s l overrunSail
  let s := setFstat s w t 17 8 (satInc 0xFF (fld (fstat s w t) 17 8))
  let s := modWheel s w fun x => { x with exc18 := x.exc18 ++ [(slotKey t e, count, pending)] }
  (traceRec s w 5 0 t, l)

/-- DEADLINE of the frame in slot `t` (R90, R96). -/
def deadlineOf (s : State) (w t : Nat) : Nat := (fw s w t 1).val.toNat

/-- The deadline count of the run in progress, or of a pending wake, exceeds DEADLINE (R96 to R99). -/
def expiry (s : State) (w : Nat) (pend : Option Nat) (count : W32) : State :=
  match pend with
  | none =>
    match (getWheel s w).run with
    | none => s
    | some r =>
      if !r.expired && decide (count.toNat > deadlineOf s w r.frame) then
        let (s, l) := expire s w r.frame r.entry r.written count false
        modWheel s w fun x => { x with run := some { r with expired := true, taken := r.taken ++ l } }
      else s
  | some e =>
    let n := getWake s w e
    if n.pend && !n.expired && decide (count.toNat > deadlineOf s w n.frame) then
      let (s, l) := expire s w n.frame e [] count true
      modWake s w e fun n => { n with expired := true, taken := n.taken ++ l }
    else s

end Sys2Proof.Machine
end

