-- ==== Sys2Proof/Machine/Plant.lean ====
section
/-! DEFINITION. Leat words (R53 to R56, R119, R120), feedback channels (R450 to R455), encoder emulation (R456, R457),
weirs and their readback (R460 to R462, R467, R468) and sluices (R464 to R466). -/

namespace Sys2Proof.Machine

/-! ### Threshold readback (R467, R468) -/

/-- The request word of a weir's readback: its number, and its RBLEAT (R467). -/
def rbWord (s : State) (w : Nat) : W32 := BitVec.ofNat 32 (w % 128 + fld (getWeir s w).cfg 40 8 * 0x100)

/-- The weir and the leat that a request word names. -/
def rbWeir (r : W32) : Nat := fld r 0 7
def rbLeat (r : W32) : Nat := fld r 8 8

/-- The readback request of R467 is outstanding with the host. -/
def rbOutstanding (s : State) : Bool := s.readback.isSome && !s.rbRetry

/-- The mean, smallest and largest readback, their number and the leat (R446); values without a readback are not
written and read 0 (R425). -/
def calibResults (s : State) (c : Calib) : List W64 :=
  let l := c.got.map BitVec.toNat
  let k := l.length
  let leat := fld (getWeir s c.weir).cfg 40 8
  [BitVec.ofNat 64 (l.foldl (· + ·) 0 / max 1 k), BitVec.ofNat 64 (l.foldl min (nth 0 l 0)),
   BitVec.ofNat 64 (l.foldl max 0), BitVec.ofNat 64 k, BitVec.ofNat 64 leat]

/-- CALIBRATE_WEIR restores the code and completes (R446, R468). -/
def calibEnd (s : State) (c : Calib) (status : Nat) : State :=
  let r := calibResults s c
  let s := modWeir s c.weir fun x => { x with code := BitVec.ofNat 12 (fld x.cfg 0 12) }
  finish { s with calibs := s.calibs.filter fun d => d.slot != c.slot } .s c.slot status 0 r

/-- The status of a calibration that is stopped (R424, R446): its first change is the code of step 2. -/
def calibStopped (s : State) (c : Calib) : Nat :=
  if c.got ≠ [] ∨ (getSlot s .s c.slot).changed then 9 else 8

/-- Every calibration that has its COUNT readbacks completes, whatever its place in the turn (R468 step 4). -/
def calibDone (s : State) : State :=
  s.calibs.foldl (fun t c => if !c.settling && decide (c.got.length ≥ c.count) then calibEnd t c 0 else t) s

/-- The next request is written, the commands taking turns; a stopped command ends in its turn (R467, R468). -/
def calibNext : Nat → State → State
  | 0, s => s
  | k + 1, s =>
    if s.readback.isSome then s
    else
      match s.calibs with
      | [] => s
      | c :: t =>
        if c.settling then
          match t.find? fun d => !d.settling with
          | none => s
          | some d => calibNext k { s with calibs := d :: (c :: t).filter fun x => x.slot != d.slot }
        else if (getSlot s .s c.slot).stop then calibNext k (calibEnd s c (calibStopped s c))
        else { s with readback := some (rbWord s c.weir), rbRetry := false, calibs := t ++ [c] }

def calibGo (s : State) : State := calibNext 200 (calibDone s)

/-- A word with CAL = 1 on leat `n` answers the outstanding request that named that leat (R467, R468). -/
def calibWord (s : State) (n : Nat) (d : W32) : State :=
  match s.readback with
  | none => s
  | some r =>
    if !s.rbRetry && rbLeat r == n then
      let f (c : Calib) : Calib :=
        if c.weir = rbWeir r ∧ bitOf d 16 = false then { c with got := c.got ++ [d.setWidth 16] } else c
      calibGo { s with readback := none, calibs := s.calibs.map f }
    else s

/-! ### Leat words -/

/-- What a received word leaves in LEATCFG (R119, R120). -/
def leatNote (l : Leat) (d : W32) (now : W64) : Leat :=
  let bad := l.seen && decide (fld d 20 8 ≠ (l.seq.toNat + 1) % 256)
  let l := if bad then { l with seqerr := satInc 0xFF l.seqerr } else l
  let l := if bad || bitOf d 16 || bitOf d 17 then { l with badNs := some now } else l
  let l := { l with seq := BitVec.ofNat 8 (fld d 20 8), last := d.setWidth 16, seen := true,
                    failseen := l.failseen || bitOf d 16, ovrseen := l.ovrseen || bitOf d 17 }
  if bitOf d 18 then l else { l with lastFail := bitOf d 16, lastNs := now }

/-- The word breaks the sequence of its leat (R55). -/
def leatGap (s : State) (n : Nat) (d : W32) : Bool :=
  (getLeat s n).seen && decide (fld d 20 8 ≠ ((getLeat s n).seq.toNat + 1) % 256)

/-- A word is posted on leat `n` (R45, R54, R55); a cluster in reset takes no words (R479). -/
def leatPost (s : State) (n : Nat) (d : W32) : State :=
  if running s && !leatHeld s n then
    let gap := leatGap s n d
    let s := modLeat s n fun l => leatNote l d s.ring_time.ns
    let s := if gap then forAll s (boundWheels s n) fun s w => raiseEv s w 32 n else s
    if bitOf d 18 then calibWord s n d else pushOcc s true n (leatWordOf d)
  else s

/-! ### Feedback channels -/

def fbEn (x : Fb) : Bool := bitOf x.cfg 0
def fbMode (x : Fb) : Nat := fld x.cfg 1 2
def fbFclk (x : Fb) : Nat := fld x.cfg 32 8
def fbStillto (x : Fb) : Nat := fld x.cfg 40 16
def fbPosleat (x : Fb) : Nat := fld x.cfg 8 8
def fbSpdleat (x : Fb) : Nat := fld x.cfg 16 8

/-- The target of an emulation channel (R456). -/
def emuTarget (x : Emu) : Int := x.moved * (fld x.cfg 8 24 : Int) / 65536

/-- The outputs that OUTCNT shows: A, B, Z (R456). -/
def emuOuts (x : Emu) : BitVec 3 :=
  let k := x.outcnt % 4
  let ab : Nat := if k = 0 then 0 else if k = 1 then 1 else if k = 2 then 3 else 2
  BitVec.ofNat 3 (ab + 4 * b2n (decide (x.outcnt % (max 1 (fld x.cfg 32 24) : Nat) = 0)))

/-- OVF sets while the backlog exceeds FFFFh (R456). -/
def emuOvf (x : Emu) : Emu :=
  if bitOf x.cfg 0 && decide ((emuTarget x - x.outcnt).natAbs > 0xFFFF) then { x with ovf := true } else x

/-- POS of a channel changes; its emulation channel takes POS − P0 in 64 bits (R450, R456; log 50). -/
def fbSetPos (s : State) (n : Nat) (v : W32) : State :=
  let s := modFb s n fun x => { x with pos := v }
  if hasEmu s && bitOf (getEmu s n).cfg 0 then modEmu s n fun e => emuOvf { e with moved := v.toInt - e.p0.toInt }
  else s

/-- SPEED and flags after a count edge in direction `up`, `i` feedback clocks after the one before (R452). -/
def fbEdge (x : Fb) (up : Bool) (i : Nat) : Fb :=
  let sp (k : Nat) : W32 :=
    let m : Int := (fbFclk x * 1000000 / k : Nat)
    BitVec.ofInt 32 (if up then m else -m)
  if x.still then
    let k := max i (fbStillto x * fbFclk x)
    { x with speed := sp k, interval := BitVec.ofNat 24 (min 0xFFFFFF k), still := false, estimate := true, dir := up }
  else if up ≠ x.dir then { x with speed := 0, estimate := true, dir := up }
  else { x with speed := sp i, interval := BitVec.ofNat 24 i, estimate := false }

/-- The count of an edge: none, up or down (R450); both pulses in one clock coincide. -/
def fbCount (x : Fb) (aRise bRise bLevel : Bool) : Option Bool :=
  if fbMode x = 0 then (if aRise then some bLevel else none)
  else if aRise = bRise then none else some aRise

/-- FEEDBACK_COUNT_EDGE (R450, R452). -/
def execFeedbackCountEdge (n : Fin 8) (aRise _aLevel bRise bLevel : Bool) (interval : BitVec 24) (s : State) : Out :=
  let x := getFb s n
  if unitsLive s && !fbHeld s n && fbEn x && interval != 0 then
    if fbMode x == 1 && aRise && bRise then .next (modFb s n fun x => { x with coinc := satInc 0xFF x.coinc })
    else
      match fbCount x aRise bRise bLevel with
      | none => .next s
      | some up =>
        .next (modFb (fbSetPos s n (if up then x.pos + 1 else x.pos - 1)) n fun x => fbEdge x up interval.toNat)
  else .next s

/-- smod of R451; of an odd CPR, the one residue that its range leaves out is free (log 30). -/
def smod (cpr : Nat) (x : Int) : Int :=
  let m := x % (cpr : Int)
  if m ≤ cpr / 2 then m
  else if m - cpr = -(cpr / 2 : Nat) ∧ cpr % 2 = 1 then (if Config.oddResidueHigh cpr then m else m - cpr)
  else m - cpr

def sat16 (x : Int) : Int := max (-0x7FFF) (min 0x7FFF x)

/-- FEEDBACK_INDEX_EDGE (R451), whatever EN is; while EN is 0, POS holds (R450), so nothing is corrected (log 49). -/
def execFeedbackIndexEdge (n : Fin 8) (s : State) : Out :=
  let x := getFb s n
  if unitsLive s && !fbHeld s n then
    let p := x.pos
    let s := modFb s n fun x => { x with idxpos := p }
    if x.idxseen = false then .next (modFb s n fun x => { x with idxref := p, lastdev := 0, idxseen := true })
    else
      let dev := smod (fld x.cpr 0 24) (p - x.idxref).toInt
      let slip := dev - x.lastdev
      let acc := if slip = 0 then x.slipacc else sat16 (x.slipacc + slip)
      let s := if slip = 0 then s else raiseRouted (modFb s n fun x => { x with slipacc := acc }) 38 n.val
      let s := if bitOf x.cfg 3 && fbEn x then modFb (fbSetPos s n (p - BitVec.ofInt 32 dev)) n fun x => { x with lastdev := 0 }
        else modFb s n fun x => { x with lastdev := dev }
      if acc.natAbs > fld x.cpr 32 16 ∧ x.slipfault = false then
        .next (raiseRouted (modFb s n fun x => { x with slipfault := true }) 39 n.val)
      else .next s
  else .next s

/-- A channel in standstill (R452). -/
def fbStill (x : Fb) : Fb := { x with speed := 0, still := true, estimate := false }

/-- FEEDBACK_STILL_TIMEOUT (R452). -/
def execFeedbackStillTimeout (n : Fin 8) (s : State) : Out :=
  if unitsLive s && !fbHeld s n && fbEn (getFb s n) && !(getFb s n).still then .next (modFb s n fbStill) else .next s

/-- A leat number breaks the rule of R453. -/
def fbLeatBad (s : State) (n : Nat) (c : W64) : Bool :=
  let p := fld c 8 8
  let q := fld c 16 8
  let uses (v : Nat) : Bool := (List.range 8).any fun m =>
    m != n && (fbPosleat (getFb s m) == v || fbSpdleat (getFb s m) == v)
  (p != 0xFF && (p == q || uses p)) || (q != 0xFF && uses q)

/-- A write to FBCFGn is refused (R455). -/
def fbcfgBad (s : State) (n : Nat) (old v : W64) : Bool :=
  bitOf v 2 || decide (fld v 32 8 < 0x32) || decide (fld v 32 8 > 0xC8) || decide (fld v 40 16 = 0) || fbLeatBad s n v ||
  (bitOf old 0 && (fld v 1 2 != fld old 1 2 || fld v 32 8 != fld old 32 8 || fld v 4 3 != fld old 4 3))

/-- FBCFGn, FBCPRn or FBPOSn written (R454, R455). -/
def fbWrite (s : State) (n reg : Nat) (v : W64) (be : BitVec 8) : State :=
  let x := getFb s n
  let err (s : State) : State := modFb s n fun x => { x with err := true }
  if reg = 0 then
    let c := mergeRw 0x00FFFFFF_1FFFFFFF x.cfg v be
    if fbcfgBad s n x.cfg c then err s
    else modFb s n fun x =>
      let y := { x with cfg := c, idxseen := x.idxseen && !(bitOf c 0 && !bitOf x.cfg 0) }
      if bitOf c 0 then y else fbStill y
  else if reg = 1 then
    let c := mergeRw 0x0000FFFF_00FFFFFF x.cpr v be
    if fld c 0 24 = 0 ∨ (fbEn x = true ∧ fld c 0 24 ≠ fld x.cpr 0 24) then err s
    else modFb s n fun x => { x with cpr := c }
  else if fbEn x then err s
  else fbSetPos s n ((mergeRw 0xFFFFFFFF (x.pos.setWidth 64) v be).setWidth 32)

/-- FBCFG_WRITE (R455). -/
def execFbcfgWrite (n : Fin 8) (reg : Fin 3) (v : W64) (be : BitVec 8) (s : State) : Out :=
  if running s && !fbHeld s n then .next (fbWrite s n reg v be) else .next s

/-- FBSTn written: SLIPFAULT and ERR clear by one, CNTCLR clears COINC (R454). -/
def fbstWrite (s : State) (n : Nat) (v : W64) : State :=
  modFb s n fun x =>
    let x := if bitOf v 1 then { x with slipfault := false, slipacc := 0, lastdev := 0 } else x
    let x := if bitOf v 2 then { x with err := false } else x
    if bitOf v 16 then { x with coinc := 0 } else x

/-- FBST_CNTCLR (R454). -/
def execFbstCntclr (n : Fin 8) (s : State) : Out :=
  if running s && !fbHeld s n then .next (fbstWrite s n 0x10000) else .next s

/-- The words of R453 for one channel: SAMPLE, FAIL, OVR, HOST, SEQ. -/
def fbWord (sample : Nat) (fail ovr host : Bool) (seq : BitVec 8) : W32 :=
  BitVec.ofNat 32 (sample % 0x10000 + 0x10000 * b2n fail + 0x20000 * b2n ovr + 0x80000 * b2n host + 0x100000 * seq.toNat)

/-- The speed word's SAMPLE before saturation (R453). -/
def fbScaled (x : Fb) : Int := x.speed.toInt.tdiv (2 ^ fld x.cfg 24 4 : Nat)

/-- A channel's word on leat `p` with the next SEQ of that leat: a cluster in reset takes none (R453, R479). -/
def fbInject (s : State) (p : Nat) (w : BitVec 8 → W32) : State :=
  if p = 0xFF ∨ leatHeld s p = true then s
  else
    let q := (getLeat s p).fbSeq + 1
    leatPost (modLeat s p fun l => { l with fbSeq := q }) p (w q)

def fbPostPos (s : State) (n : Nat) : State :=
  let x := getFb s n
  let fail := !fbEn x || (x.slipfault && bitOf x.cfg 28)
  fbInject s (fbPosleat x) (fbWord (fld x.pos 0 16) fail false (!x.idxseen))

def fbPostSpd (s : State) (n : Nat) : State :=
  let x := getFb s n
  let v := fbScaled x
  let c := max (-0x8000) (min 0x7FFF v)
  let fail := !fbEn x || (x.slipfault && bitOf x.cfg 28)
  fbInject s (fbSpdleat x) (fbWord (c % 0x10000).toNat fail (decide (c ≠ v)) (x.still || x.estimate))

/-- FEEDBACK_SNAPSHOT at a boundary of timebase `t` (R453). -/
def fbSnapshot (s : State) (t : Nat) : State :=
  forAll s (List.range 8) fun s n =>
    let x := getFb s n
    if fld x.cfg 4 3 == t && bitOf x.cfg 7 && running s && !fbHeld s n then fbPostSpd (fbPostPos s n) n else s

/-! ### Encoder emulation -/

/-- Emulation starts: P0 is POS, OUTCNT is 0 (R456). -/
def emuStart (x : Emu) (pos : W32) : Emu :=
  let y := { x with p0 := pos, moved := 0, outcnt := 0 }
  { y with outs := emuOuts y }

/-- EMUCFGn written (R456, R457): while EN is 1, a write that reaches MUL, ECPR or MINSTEP is refused; nothing where the
unit is absent (R14). -/
def emuWrite (s : State) (n : Nat) (v : W64) (be : BitVec 8) : State :=
  if hasEmu s then
    let x := getEmu s n
    let c := mergeRw 0xFFFFFFFF_FFFFFF01 x.cfg v be
    let bad := (bitOf x.cfg 0 && be.toNat / 2 != 0) || decide (fld c 8 24 = 0) || decide (fld c 32 24 = 0) || decide (fld c 56 8 < 2)
    if bad then modEmu s n fun x => { x with err := true }
    else
      let s := modEmu s n fun x => { x with cfg := c }
      if bitOf c 0 && !bitOf x.cfg 0 then modEmu s n fun e => emuStart e (getFb s n).pos else s
  else s

/-- EMUCFG_WRITE (R457). -/
def execEmucfgWrite (n : Fin 8) (v : W64) (be : BitVec 8) (s : State) : Out :=
  if running s && !fbHeld s n then .next (emuWrite s n v be) else .next s

/-- EMU_OUTPUT_STEP: OUTCNT moves one count toward the target (R456). -/
def execEmuOutputStep (n : Fin 8) (s : State) : Out :=
  let x := getEmu s n
  if running s && hasEmu s && !fbHeld s n && bitOf x.cfg 0 then
    let t := emuTarget x
    let y := emuOvf x
    let y := { y with outcnt := if t > x.outcnt then x.outcnt + 1 else if t < x.outcnt then x.outcnt - 1 else x.outcnt }
    .next (modEmu s n fun _ => { y with outs := emuOuts y })
  else .next s

/-! ### Weirs -/

/-- CALIBRATE_WEIR holds the weir (R461). -/
def calibrating (s : State) (w : Nat) : Bool := held s (.weir w)

/-- WEIR_CLRw pulses (R461). -/
def weirPulse (s : State) (w : Nat) : State := modWeir s w fun x => { x with clr := true }

/-- A firmware clear (R461). -/
def weirClear (s : State) (w : Nat) : State :=
  if (getWeir s w).codeok && !calibrating s w then weirPulse s w else modWeir s w fun x => { x with err := true }

/-- WEIR_CLEAR (R461). -/
def execWeirClear (w : Fin 96) (s : State) : Out :=
  if running s && hasWeir s w then .next (weirClear s w) else .next s

/-- WEIRCFGw written (R460, R461). -/
def weirWrite (s : State) (w : Nat) (v : W64) (be : BitVec 8) : State :=
  if hasWeir s w then
    let x := getWeir s w
    let c := mergeRw 0x0000FFFF_FFFFFFFF x.cfg v be
    if calibrating s w && fld c 0 12 != fld x.cfg 0 12 then modWeir s w fun x => { x with err := true }
    else
      let cal := calibrating s w
      modWeir s w fun x =>
        { x with cfg := c, codeok := x.codeok || (bitOf be 0 && bitOf be 1),
                 code := if cal then x.code else BitVec.ofNat 12 (fld c 0 12) }
  else s

/-- WEIRCFG_WRITE (R460). -/
def execWeircfgWrite (w : Fin 96) (v : W64) (be : BitVec 8) (s : State) : Out :=
  if running s then .next (weirWrite s w v be) else .next s

/-- WEIRSTw written: CLR, ERR and CNTCLR (R460); a write whose clear is refused does nothing else (R461). -/
def weirstWrite (s : State) (w : Nat) (v : W64) : State :=
  if hasWeir s w then
    if bitOf v 2 && (!(getWeir s w).codeok || calibrating s w) then modWeir s w fun x => { x with err := true }
    else
    let s := modWeir s w fun x =>
      { x with err := x.err && !bitOf v 3, tripcnt := if bitOf v 16 then 0 else x.tripcnt }
    if bitOf v 2 then weirClear s w else s
  else s

/-- WEIRST_CNTCLR (R460). -/
def execWeirstCntclr (w : Fin 96) (s : State) : Out :=
  if running s then .next (weirstWrite s w 0x10000) else .next s

/-- A trip of a weir is counted and raises event 36 (R462). -/
def weirTrip (s : State) (w : Nat) : State :=
  raiseRouted (modWeir s w fun x => { x with tripcnt := satInc 0xFF x.tripcnt }) 36 w

/-- WEIR_LATCH_CHANGE: LAT as its synchroniser reads it, or a condition that persists past a clear pulse (R462). -/
def execWeirLatchChange (w : Fin 96) (level persists : Bool) (s : State) : Out :=
  let x := getWeir s w
  if unitsLive s && hasWeir s w then
    if persists then
      if level && x.lat && x.clr then .next (weirTrip (modWeir s w fun x => { x with clr := false }) w) else .next s
    else if level && !x.lat then .next (weirTrip (modWeir s w fun x => { x with lat := true }) w)
    else if !level && x.lat then .next (modWeir s w fun x => { x with lat := false, clr := false })
    else .next s
  else .next s

/-- WEIR_BOUNDARY_CLEAR at a boundary of timebase `t` (R461). -/
def weirBoundary (s : State) (t : Nat) : State :=
  forAll s (tkeys 96 s.weirs) fun s w =>
    let x := getWeir s w
    if hasWeir s w && bitOf x.cfg 12 && x.codeok && x.lat && fld x.cfg 13 3 == t then weirPulse s w else s

/-! ### Sluices -/

/-- A weir of group `g` is tripped (R465); absent weirs have no place in the masks (R15). -/
def weirOf (s : State) (g w : Nat) : Bool := hasWeir s w && bitOf (getWeir s w).cfg (16 + g) && (getWeir s w).lat

def groupTripped (s : State) (g : Nat) : Bool := (List.range 96).any fun w => weirOf s g w

/-- A sail of the group is owned by a started frame (R465). -/
def groupStarted (s : State) (g : Nat) : Bool :=
  (List.range 8).any fun i =>
    match sailFrame s (8 * g + i) with
    | some f => frameState s f == 1
    | none => false

def sluiceErr (s : State) (g : Nat) : State := modSluice s g fun x => { x with err := true }

/-- ARM is low for one status clock where it was high, then high; a host group that was tripped is released (R463). -/
def armHigh (s : State) (g : Nat) (pulsed : Bool) : State :=
  modSluice s g fun x => { x with arm := true, pulsed := pulsed, st := false }

/-- The table of R465 refuses a write with these arming bits: SETARM, DISARM, REARM. -/
def armRefused (s : State) (g : Nat) (set dis re : Bool) : Bool :=
  let a := (getSluice s g).arm
  if set && !dis && !re then a || groupTripped s g
  else if re && !set && !dis then !a || groupTripped s g
  else if dis && !set && !re then !a || groupStarted s g
  else set || dis || re

/-- The arming bits of one write (R465). -/
def sluiceArm (s : State) (g : Nat) (set dis re : Bool) : State :=
  if armRefused s g set dis re then sluiceErr s g
  else if set then armHigh s g false
  else if re then armHigh s g true
  else if dis then modSluice s g fun x => { x with arm := false, pulsed := false }
  else s

/-- SLUICEg written (R464); a refused write does nothing else (R465). -/
def sluiceWrite (s : State) (g : Nat) (v : W64) : State :=
  if armRefused s g (bitOf v 1) (bitOf v 2) (bitOf v 3) then sluiceErr s g
  else
  let s := modSluice s g fun x =>
    let x := { x with tripped := x.tripped && !bitOf v 5, err := x.err && !bitOf v 6 }
    if bitOf v 24 then { x with tripcnt := 0, cause := 0, causev := false } else x
  sluiceArm s g (bitOf v 1) (bitOf v 2) (bitOf v 3)

/-- SETARM (R465). -/
def execSetarm (g : Fin 24) (s : State) : Out := if running s then .next (sluiceArm s g true false false) else .next s

/-- DISARM (R465). -/
def execDisarm (g : Fin 24) (s : State) : Out := if running s then .next (sluiceArm s g false true false) else .next s

/-- REARM (R465). -/
def execRearm (g : Fin 24) (s : State) : Out := if running s then .next (sluiceArm s g false false true) else .next s

/-- SLUICE_CNTCLR (R464). -/
def execSluiceCntclr (g : Fin 24) (s : State) : Out :=
  if running s then .next (sluiceWrite s g 0x1000000) else .next s

/-- SLUICE_TRIP: a rise of ST (R466). -/
def execSluiceTrip (g : Fin 24) (s : State) : Out :=
  if unitsLive s && !(getSluice s g).st then
    let c := (List.range 96).find? fun w => weirOf s g w
    .next (raiseRouted (modSluice s g fun x =>
      { x with st := true, tripped := true, tripcnt := satInc 0xFF x.tripcnt, cause := c.getD 0, causev := c.isSome })
      37 g.val)
  else .next s

/-! ### CALIBRATE_WEIR (R446, R468) -/

/-- Some group in the weir's GRP is armed (R468 step 1). -/
def grpArmed (s : State) (w : Nat) : Bool :=
  (List.range 24).any fun g => bitOf (getWeir s w).cfg (16 + g) && (getSluice s g).arm

/-- CALIBRATE_WEIR: checks, steps 1 and 2, and the first request where the code needs no settling. -/
def execCalibrateWeir (h : HopId) (slot : SlotId) (s : State) : Out :=
  let n := slot.val
  if running s && h == .s && runs s h n 0x51 && (getSlot s h n).phase == 0 then
    let w := fld (fieldOr s h n 0 0) 0 7
    let x := getWeir s w
    let cur := fld x.cfg 0 12
    if w > 95 ∨ hasWeir s w = false then .next (reject s h n 7 0)
    else if held s (.weir w) then .next (reject s h n 2 1)
    else
      let c1 := applyF (fieldOr s h n 1 (BitVec.ofNat 64 cur)) [(0, 12, id)]
      let c2 := applyF (fieldOr s h n 2 1) [(0, 7, clampN 1 64)]
      let code := fld c1 0 12
      let diff := decide (code ≠ cur)
      if diff && grpArmed s w then .next (reject s h n 2 2)
      else
        let c0 := applyF (fieldOr s h n 0 0) [(0, 7, id)]
        let s := begin_ s h n 1 [.weir w] (clampOf s h n 0 c0 ++ clampOf s h n 1 c1 ++ clampOf s h n 2 c2) []
        let s := modSlot s h n fun y => { y with changed := diff }
        let s := modWeir s w fun y => { y with code := BitVec.ofNat 12 code }
        .next (calibGo { s with calibs := s.calibs ++ [⟨w, n, diff, fld c2 0 7, []⟩] })
  else .next s

/-- WEIR_DAC_SETTLED: the 2 µs of R468 step 2 have passed. -/
def execWeirDacSettled (w : Fin 96) (s : State) : Out :=
  if running s then
    .next (calibGo { s with calibs := s.calibs.map fun c => if c.weir = w.val then { c with settling := false } else c })
  else .next s

/-- READBACK_RETRY: a refused request is written again (R467). -/
def execReadbackRetry (s : State) : Out :=
  if running s && s.rbRetry then
    match s.readback with
    | none => .next { s with rbRetry := false }
    | some r =>
      match s.calibs.find? fun c => c.weir == rbWeir r && (getSlot s .s c.slot).stop with
      | some c => .next (calibGo (calibEnd { s with rbRetry := false, readback := none } c (calibStopped s c)))
      | none => .next { s with rbRetry := false }
  else .next s

/-- LEAT_WORD (R45, R53 to R56, R119). -/
def execLeatWord (n : Fin 256) (d : W32) (s : State) : Out := .next (leatPost s n d)

end Sys2Proof.Machine
end

