-- ==== Sys2Proof/Machine/Segment.lean ====
section
/-! DEFINITION. Segments: the descriptor that an ADDR word selects, the ordered checks of a memory access, and
the place it reaches (R162 to R169, R312). -/

namespace Sys2Proof.Machine

/-- Fields of a segment descriptor (R164). -/
def sgBase (d : W64) : Nat := fld d 0 24
def sgLimit (d : W64) : Nat := fld d 24 24
def sgSpace (d : W64) : Nat := fld d 48 3
def sgPosted (d : W64) : Bool := bitOf d 51
def sgRd (d : W64) : Bool := bitOf d 52
def sgWr (d : W64) : Bool := bitOf d 53
def sgUser (d : W64) : Bool := bitOf d 54
def sgPtr (d : W64) : Bool := bitOf d 55

/-- The descriptor that selector 00h names in the guard handler (R312): SPACE 7 stands for the guard record,
offsets 0 to 17h, with RD, WR and PTR, supervisor only. -/
def guardSeg : W64 := pk [(24, 0x17), (48, 7), (52, 1), (53, 1), (55, 1)]

/-- A segment table entry by world; entry 0 is NULL (R165). -/
def segEnt (s : State) (world : Bool) (sel : Nat) : W64 :=
  if sel = 0 then 0 else tget 0 (if world then s.segS else s.segC) sel

/-- The descriptor that a selector names on a wheel. -/
def segOf (s : State) (x : Wheel) (sel : Nat) : W64 :=
  if x.mode.guard && sel == 0 then guardSeg else segEnt s x.mode.world sel

def aSel (a : W32) : Nat := fld a 24 8
def aOff (a : W32) : Nat := fld a 0 24

/-- An ADDR word moved by an offset. -/
def aAdd (a : TWord) (d : Int) : TWord := { a with val := setFld a.val 0 24 (((aOff a.val : Int) + d) % 0x1000000).toNat }

/-- Is the descriptor's SPACE one that names memory? NULL, and the reserved codes, name none (R164, R167). -/
def sgNull (d : W64) : Bool := sgSpace d == 0 || sgSpace d == 4 || sgSpace d == 5 || sgSpace d == 6

/-- Checks 2 to 5 of R167 for the offset range `lo` to `hi` of a descriptor; INFO is the ADDR word `a`. -/
def rightsExc (x : Wheel) (d : W64) (a : TWord) (hi : Int) (store : Bool) (op : Nat) : Option Exc :=
  if sgNull d then some (exc 4 a op)
  else if hi > (sgLimit d : Int) then some (exc 4 a op)
  else if sgUser d = false ∧ x.mode.level = false then some (exc 6 (intW 0) op)
  else if (if store then sgWr d else sgRd d) = false then some (exc 5 a op)
  else none

/-- Checks 1 to 5 and 7 of R167 for an access of `n` words at the ADDR operand `a`, operand number `k`. -/
def accessExc (s : State) (x : Wheel) (a : TWord) (k n : Nat) (store : Bool) (op : Nat) : Option Exc :=
  if a.tag ≠ .addr then some (tagExc a.tag k op)
  else
    let d := segOf s x (aSel a.val)
    match rightsExc x d a ((aOff a.val : Int) + (n : Int) - 1) store op with
    | some e => some e
    | none => none

/-- Check 7: an access wider than one word at an odd address (R167). -/
def oddExc (d : W64) (a : TWord) (n op : Nat) : Option Exc :=
  if n = 2 ∧ (sgBase d + aOff a.val) % 2 = 1 then some (exc 13 a op) else none

/-- Where a word of a segment lies. -/
inductive Place where
  | spad (a : Nat) | mp (a : Nat) | host (a : Nat) | guard (i : Nat)
  deriving DecidableEq, Repr

/-- The place of offset `o` of a descriptor on wheel `w`. -/
def placeOf (w : Nat) (d : W64) (o : Nat) : Place :=
  match sgSpace d with
  | 1 => .spad ((sgBase d + o) % 0x8000)
  | 2 => .mp ((sgBase d + o) % 0x400000)
  | 3 => .host ((sgBase d + o) % 0x1000000)
  | _ => .guard (0x18 * w + o)

/-- Checks 8 and 9 of R167 on loaded words: PTR, then the reserved tags. -/
def loadedExc (ptr : Bool) (a : TWord) (op : Nat) (l : List TWord) : Option Exc :=
  if !ptr && l.any fun v => isPtr v.tag then some (exc 5 a op)
  else (l.find? fun v => isRsv v.tag).map fun v => tagExc v.tag 4 op

/-- A word of a store-buffer entry, if the entry writes millpond word `a` (R326). -/
def entWord (e : StoreEnt) (a : Nat) : Option TWord :=
  if e.addr ≤ a then e.data[a - e.addr]? else none

/-- The newest buffered store of a wheel that writes word `a`: its position from the head, and the word. -/
def covered (b : List StoreEnt) (a : Nat) : Option (Nat × TWord) :=
  (b.zipIdx.reverse.findSome? fun p => (entWord p.1 a).map fun v => (p.2, v))

/-- A word of the guard record read by the guard handler: POISON where it cannot be corrected (R331). -/
def guardRead (s : State) (i : Nat) : State × TWord := (noteRead s .retained i, (retRead s i).getD poisonW)

end Sys2Proof.Machine
end

