-- ==== Sys2Proof/Machine/Pair.lean ====
section
/-! DEFINITION. What the twin pair's commands share: drive-select (R347, R372, R378), ring time and its steering (R361,
R394, R397), staging of intents (R406), mirroring and tracking (R364 to R369), CONTROL messages (R360), the divergence
check (R375), and joining and leaving (R376 to R382). -/

namespace Sys2Proof.Machine

/-! ### Configuration and status -/

def twGroups (s : State) : BitVec 24 := s.twin.cfg.setWidth 24
def safeYield (s : State) : Bool := bitOf s.twin.cfg 61
def hbStop (s : State) : Bool := bitOf s.twin.cfg 60

def laneUp (s : State) (k : Nat) : Bool := (getLane s k).st == .up
def bothUp (s : State) : Bool := laneUp s 0 && laneUp s 1

/-- The mirror interval in ns (R364, R380). -/
def mirrorNs (s : State) : Nat := if bothUp s then 5000 else 10000

/-- A role of a joined pair (R347, R378: mirroring stops with LEAVE). -/
def joinedRole : Role → Bool
  | .leader | .follower | .split | .leaving => true
  | _ => false

/-- Mirroring runs: the pair is joined and the peer is not lost. -/
def mirroring (s : State) : Bool := joinedRole s.twin.role && !s.twin.peerLost

/-- The timebase of a sail group (R133). -/
def groupTb (s : State) (g : Nat) : Nat := (getSail s (8 * g)).tb

def drives (s : State) (g : Nat) : Bool := bitOf s.twin.drvsel g
def shared (s : State) (g : Nat) : Bool := bitOf (twGroups s) g
def tracks (s : State) (g : Nat) : Bool := mirroring s && shared s g && !drives s g

/-- The group of a frame: that of its sails (R349). -/
def frameGroup (s : State) (d : FrameDef) : Option Nat := ((frameSails s d.wheel d.slot).head?).map (· / 8)

def frameTracked (s : State) (d : FrameDef) : Bool :=
  match frameGroup s d with
  | some g => tracks s g
  | none => false

def frameDriven (s : State) (d : FrameDef) : Bool :=
  match frameGroup s d with
  | some g => mirroring s && shared s g && drives s g
  | none => false

/-- TWINSTAT.TRACK (R366, R369). -/
def trackNow (s : State) : Bool :=
  mirroring s && !s.twin.trackBad && s.twin.cnt.isEmpty &&
  (List.range 24).any (fun g => tracks s g) &&
  (frameKeys s).all fun f =>
    match getFrame s f with
    | none => true
    | some d => !(frameTracked s d && frameState s f == 1) ||
        (d.appliedRun.isSome && decide ((s.ring_time.ns - d.appliedAt).toNat ≤ mirrorNs s))

/-- TWINSTAT.MIRAGE (R384). -/
def mirageNow (s : State) : Nat :=
  let l := s.twin.ages.filter fun p => decide ((s.ring_time.ns - p.1).toNat ≤ mirrorNs s)
  min 0xFFFF (l.foldl (fun m p => max m (p.2 / 16)) 0)

def roleCode : Role → Nat
  | .simplex => 0 | .leader => 1 | .follower => 2 | .split => 3 | .joining => 4 | .leaving => 5 | .held => 6

/-- TWINSTAT (R384). -/
def twinstat (s : State) : W64 :=
  let t := s.twin
  pk [(0, roleCode t.role), (3, b2n (trackNow s)), (4, b2n (laneUp s 0) + 2 * b2n (laneUp s 1)), (6, b2n t.talign),
      (7, b2n t.peerhb), (8, t.miss), (16, t.jerr), (20, b2n t.err), (21, b2n t.divflag), (32, mirageNow s),
      (48, t.takecnt)]

/-- TWINDIV (R385). -/
def twindiv (s : State) : W64 :=
  let t := s.twin
  pk [(0, t.dFrame.toNat), (9, t.dSail.toNat), (17, t.dDiff), (25, t.dOutcome), (27, t.dOwn.toNat), (33, t.dPeer.toNat),
      (39, t.dMerged)]

/-- The four registers of a lane (R353), EN first. -/
def laneStCode : LaneSt → Nat
  | .off => 0 | .waitlock => 1 | .hunt => 2 | .up => 3 | .retrain => 4

def laneRegs (s : State) (k : Nat) : List W64 :=
  let l := getLane s k
  if hasLane s k then
    [pk [(0, b2n l.en)], pk [(0, laneStCode l.st), (3, b2n l.rxlock), (4, l.blkpos), (11, b2n l.err)],
     pk [(0, l.corr), (32, l.uncorr)], pk [(0, l.good), (32, l.crcerr), (48, l.seqerr)]]
  else [0, 0, 0, 0]

/-! ### Drive-select -/

/-- The complex runs TWIN_LEAVE as the one that leaves (R378). -/
def leavingNow (s : State) : Bool :=
  match s.twin.leaveAt with
  | some (_, peer) => !peer
  | none => false

/-- The role of a joined complex from the groups that it drives (R347); one that leaves shows leaving. -/
def rolePair (s : State) : State :=
  if mirroring s && !leavingNow s then
    let g := twGroups s
    let d := s.twin.drvsel &&& g
    modTwin s fun t => { t with role := if d = g then .leader else if d = 0 then .follower else .split }
  else s

/-- The bits that R347 and R382 give the complex outside a joined pair; deasserted until DRVREL (R479). -/
def drvRest (s : State) : State :=
  if s.rst.drvrel then setDrv s (if s.twin.role = .held then ~~~ (twGroups s) else BitVec.allOnes 24) else s

/-- TWIN_LEAVE's end on the complex that leaves (R378 steps 3 and 4); `drives` fell with the handover. -/
def enterHeld (s : State) : State :=
  let s := setDrv s (s.twin.drvsel &&& ~~~ (twGroups s))
  modTwin s fun t => { t with role := if t.cfg.setWidth 24 = (0 : BitVec 24) then .simplex else .held }

/-! ### CONTROL messages (R360) -/

/-- A message takes the next CSEQ, is due for a slot, and is repeated until it is acknowledged. -/
def sendMsg (s : State) (m : CtlMsg) : State :=
  modTwin s fun t =>
    { t with out := if m = .ackonly then t.out else t.out ++ [(t.cseq, m)], due := t.due ++ [(t.cseq, m)],
             cseq := t.cseq + 1 }

/-- A received message is acknowledged: by the next message that is due, or by ACKONLY. -/
def ackMsg (s : State) (c : BitVec 16) : State :=
  let s := modTwin s fun t => { t with ackNext := c }
  if s.twin.due.isEmpty then sendMsg s .ackonly else s

/-! ### Ring time -/

def stampInt (r : RingStamp) : Int := r.ns.toNat * 65536 + r.frac.toNat
def ofStamp (i : Int) : RingStamp :=
  let n := (i % 2 ^ 80).toNat
  ⟨BitVec.ofNat 64 (n / 65536), BitVec.ofNat 16 n⟩

/-- A stamp of a TIME frame, which resolves 2^-4 ns (R394). -/
def stampCut (r : RingStamp) : RingStamp := { r with frac := r.frac &&& 0xF000 }

/-- A stamp difference, signed. -/
def stampDiff (a b : RingStamp) : Int :=
  let d := (stampInt a - stampInt b) % 2 ^ 80
  if d ≥ 2 ^ 79 then d - 2 ^ 80 else d

/-- The two-way offset of R361, in units of 2^-16 ns. -/
def timeOffset (t1 t2 t3 t4 : RingStamp) : Int := (stampDiff t3 t2 - stampDiff t4 t1) / 2

/-- Ring time steps (R397): STEPPED, and event 45. -/
def stepTime (s : State) (d : Int) : State :=
  raiseRouted (modRing { s with ring_time := ofStamp (stampInt s.ring_time + d) } fun r => { r with stepped := true }) 45 0

/-- Ring time slews by at most 1 ns (R361, R397). -/
def slewTime (s : State) (d : Int) : State :=
  { s with ring_time := ofStamp (stampInt s.ring_time + max (-65536) (min 65536 d)) }

/-! ### Staging of intents (R406) -/

def keyLt (a b : IntentKey) : Bool := decide (a.posted < b.posted) || (a.posted == b.posted && decide (a.origin < b.origin))

def ffKey (slot j : Nat) : Nat := 4 * slot + j

/-- The value that a binding stages: sat(MAG × GAIN) in the slot's family (R406). -/
def stageVal (cur : TWord) (q16 : Bool) (mag gain : W32) : TWord :=
  qRes (if q16 then .q16 else .q31) (isS cur.tag) (rnd (mag.toInt * gain.toInt) 31)

/-- The key is greater than those of the slot's staged and last applied values. -/
def keyNew (x : Wheel) (k : Nat) (i : Intent) : Bool :=
  (match tget none x.staged k with
   | some v => keyLt (keyOf v.it) (keyOf i)
   | none => true) &&
  (match tget none x.applied k with
   | some v => keyLt v (keyOf i)
   | none => true)

/-- One VALID binding of the intent's set (R404, R406). -/
def stageOne (s : State) (i : Intent) (b : W64) : State :=
  match getFrame s (fld b 8 9) with
  | none => s
  | some d =>
    if fsState s d.wheel d.slot = 1 then
      let j := fld b 17 2
      let k := ffKey d.slot j
      let x := getWheel s d.wheel
      if keyNew x k i then
        let v := stageVal (fw s d.wheel d.slot (60 + j)) (bitOf d.ffq16 j) i.mag ((b >>> 32).setWidth 32)
        let repl := (tget none x.staged k).isSome
        let s := noteFw s d.wheel d.slot [60 + j]
        let s := modWheel s d.wheel fun x => { x with staged := tset none x.staged k (some ⟨v, i⟩) }
        if repl then modRing s fun r => { r with repl := satInc 0xFF r.repl } else s
      else modRing s fun r => { r with disc := satInc 0xFFFF r.disc }
    else s

/-- An accepted intent is staged in every VALID binding of its set, in table order (R406). -/
def stageIntent (s : State) (i : Intent) : State :=
  (s.ring.bind.filter fun b => bitOf b 19 && fld b 0 8 == i.set.toNat).foldl (fun s b => stageOne s i b) s

/-- A boundary of timebase `t` stamped `now`, whose last boundary was stamped `old` and whose occurrence has order stamp `o`,
is due on every wheel: the staged values take effect in its wake cycle (R93, R134). -/
def ffPost (s : State) (t : Nat) (now : W64) (old : Option W64) (o : Nat) : State :=
  forAll s (tkeys 64 s.wheels) fun s w =>
    if (getWheel s w).staged.isEmpty && (getWheel s w).wakes.isEmpty then s
    else ffLoose (modWheel s w fun x => { x with ffDue := x.ffDue ++ [⟨t, now, old, o⟩] }) w

/-- A frame's staged values are discarded (R408). -/
def dropStaged (s : State) (w slot : Nat) : State :=
  modWheel s w fun x =>
    { x with staged := (List.range 4).foldl (fun t j => tset none t (ffKey slot j) none) x.staged }

/-! ### Divergence (R368, R375) -/

def divPers (s : State) : Nat := fld s.twin.cfg 40 4
def divThr (s : State) : Nat := if bothUp s then fld s.twin.cfg 24 8 else fld s.twin.cfg 32 8

/-- The clock domains that a frame uses (R375, R497): its mill, the millpond, the status clock, its timebase and the
clusters of its leats. -/
def frameDomains (s : State) (d : FrameDef) : List Nat :=
  let leats := d.wakes.filterMap fun e => e.bind fun e =>
    let n := getWake s d.wheel e
    if !n.src && decide (n.idx < 256) then some (26 + n.idx / 16) else none
  [millOf d.wheel, 16, 54, 42 + fsTb s d.wheel d.slot] ++ leats

/-- A leat of the frame has been bad within DIVPERS periods (R375 bit 2). -/
def leatBadNow (s : State) (d : FrameDef) : Bool :=
  let win := divPers s * (fw s d.wheel d.slot 2).val.toNat
  d.wakes.any fun e =>
    match e with
    | none => false
    | some e =>
      let n := getWake s d.wheel e
      !n.src && decide (n.idx < 256) &&
        (match (getLeat s n.idx).badNs with
         | some t => decide ((s.ring_time.ns - t).toNat ≤ win)
         | none => false)

/-- The self-check bits of R375 for a frame. -/
def selfCheck (s : State) (d : FrameDef) : BitVec 6 :=
  let clk := (frameDomains s d).any fun i => bitOf s.twin.clkFail i
  let sup := [8, 9, 10, 11].any fun i => (tget {} s.miller.sensors i).hi || (tget {} s.miller.sensors i).lo
  let tmp := (List.range 8).any fun i => (tget {} s.miller.sensors i).hi
  BitVec.ofNat 6 (b2n clk + 2 * b2n (decide (s.mem.uecnt > s.mem.ueMark)) + 4 * b2n (leatBadNow s d) + 8 * b2n sup +
    16 * b2n tmp + 32 * b2n (getWheel s d.wheel).guardSeen)

/-- A self-check starts the marks afresh. -/
def selfClear (s : State) (d : FrameDef) : State :=
  modWheel (modMemR (modTwin s fun t => { t with clkFail := 0 }) fun r => { r with ueMark := r.uecnt }) d.wheel
    fun x => { x with guardSeen := false }

def info41 (d : FrameDef) : Nat := d.wheel % 64 + 64 * (d.slot % 16)

/-- The outcome table of R375: own and peer failed. -/
def divOutcome (s : State) (c : DivChk) (own peer : Bool) : State :=
  let drv := if c.driver then own else peer
  let trk := if c.driver then peer else own
  let o := if drv && !trk then 1 else if !drv && trk then 2 else 3
  let s := modTwin s fun t => { t with dOutcome := o, chk := none }
  let s := if c.driver && drv && !trk then
      modTwin s fun t => { t with yieldAt := t.yieldAt ||| (1#24 <<< (c.sail.toNat / 8)) } else s
  match getFrame s c.frame.toNat with
  | some d => raiseRouted s 41 (info41 d)
  | none => s

/-- Both results are known: the outcome is applied. -/
def divSettle (s : State) : State :=
  match s.twin.chk with
  | none => s
  | some c =>
    match c.own, c.peer with
    | some a, some b => divOutcome s c (a != 0) (b != 0)
    | _, _ => s

/-- This side runs its self-check and sends DIVRESULT (R375 step 2). -/
def divOwn (s : State) : State :=
  match s.twin.chk with
  | none => s
  | some c =>
    match getFrame s c.frame.toNat with
    | none => s
    | some d =>
      let b := selfCheck s d
      let s := modTwin (selfClear s d) fun t => { t with dOwn := b, chk := some { c with own := some b } }
      divSettle (sendMsg s (.divresult b))

/-- A divergence is flagged for sail `j` in period `p` (R368, R375). -/
def divFlag (s : State) (j diff : Nat) (p : BitVec 16) : State :=
  match sailFrame s j with
  | none => s
  | some f =>
    match getFrame s f with
    | none => s
    | some d =>
      let s := raiseRouted s 41 (info41 d)
      let s := modTwin s fun t =>
        { t with divflag := true, dFrame := BitVec.ofNat 9 f, dSail := BitVec.ofNat 8 j, dDiff := min 0xFF diff }
      if s.twin.chk.isSome then modTwin s fun t => { t with dMerged := satInc 0xFF t.dMerged }
      else
        let s := modTwin s fun t => { t with dMerged := 0, chk := some ⟨BitVec.ofNat 9 f, BitVec.ofNat 8 j, false, none, none⟩ }
        divOwn (sendMsg s (.divcheck (BitVec.ofNat 9 f) (BitVec.ofNat 8 j) p))

/-- DIVERGENCE_COMPARE of one period of a sail (R368). -/
def compareDuty (s : State) (own drv : DutyRec) : State :=
  let j := drv.sail.toNat
  let delta := (fld own.word 0 24 : Int) - fld drv.word 0 24
  let x := fld own.word 26 6 != fld drv.word 26 6 || own.safe != drv.safe || decide (delta.natAbs > divThr s * 4096)
  let c := if x then tget 0 s.twin.cnt j + 1 else 0
  if x && decide (c ≥ divPers s) then
    divFlag (modTwin s fun t => { t with cnt := tset 0 t.cnt j 0 }) j (delta.natAbs / 4096) drv.pidx
  else modTwin s fun t => { t with cnt := tset 0 t.cnt j c }

/-- The driver's record and the tracker's own word of a sail meet: a period is compared once, within 2 µs (R368). -/
def meetDuty (s : State) (j : Nat) : State :=
  match tget none s.twin.drvDuty j with
  | none => s
  | some d =>
    match (tget [] s.twin.ownDuty j).find? fun o => o.1.pidx == d.pidx with
    | none => s
    | some o =>
      let s := modTwin s fun t => { t with drvDuty := tset none t.drvDuty j none }
      if (s.ring_time.ns - o.2).toNat ≤ 2000 then compareDuty s o.1 d else s

/-! ### Mirroring (R364) -/

/-- The record of a sail's last word in force in the period `p`. -/
def dutyRec (s : State) (j : Nat) (p : BitVec 16) : DutyRec := ⟨(getSail s j).out, BitVec.ofNat 8 j, p, (getSail s j).safeact⟩

/-- MIRROR_DUTY_QUEUE for period `p` of timebase `t`: the driver queues its words, the tracker keeps its own. -/
def mirrorDuty (s : State) (t : Nat) (p : BitVec 16) : State :=
  if mirroring s then
    forAll s (List.range 192) fun s j =>
      if (getSail s j).tb = t ∧ shared s (j / 8) = true then
        if drives s (j / 8) then modTwin s fun x => { x with dutyQ := x.dutyQ ++ [dutyRec s j p] }
        else
          let now := s.ring_time.ns
          let l := (tget [] s.twin.ownDuty j).filter fun o => decide ((now - o.2).toNat ≤ 2000)
          meetDuty (modTwin s fun x => { x with ownDuty := tset [] x.ownDuty j ((l ++ [(dutyRec s j p, now)]).drop (l.length - 7)) }) j
      else s
  else s

/-- The 22 words of a STATE record: 12 to 31, FSTAT, XOUT (R359); an uncorrectable word reads POISON (R331). -/
def recWordIdx : List Nat := (List.range 20).map (· + 12) ++ [0, 11]

def readFw (s : State) (w t i : Nat) : TWord := fw s w t i

def stateRec (s : State) (f : Nat) (d : FrameDef) : StateRec :=
  ⟨BitVec.ofNat 9 f, true, d.runs, d.lastWake, recWordIdx.map fun i => readFw s d.wheel d.slot i⟩

def noteFrame (s : State) (d : FrameDef) : State := noteFw s d.wheel d.slot recWordIdx

/-- A record enters the queue; a queued record of the same frame is replaced. -/
def queueState (q : List StateRec) (r : StateRec) : List StateRec :=
  if q.any fun x => x.frame == r.frame then q.map fun x => if x.frame = r.frame then r else x else q ++ [r]

/-- `a` is newer than `b` modulo 65,536. -/
def newer16 (a b : BitVec 16) : Bool := a != b && decide ((a - b).toNat < 0x8000)

/-- A STATE record for a frame of a tracked group is staged when it is newer (R366, R367). -/
def stageRec (s : State) (r : StateRec) : State :=
  if r.valid && mirroring s then
    match getFrame s r.frame.toNat with
    | none => modTwin s fun t => { t with trackBad := true }
    | some d =>
      if frameDriven s d then s
      else if fsState s d.wheel d.slot ≠ 1 ∧ d.moveTo.isNone then modTwin s fun t => { t with trackBad := true }
      else
        let ok := match d.stagedRec with
          | some q => newer16 r.runcount q.runcount
          | none => match d.appliedRun with
            | some q => newer16 r.runcount q
            | none => true
        if ok then modFrame s r.frame.toNat fun d => { d with stagedRec := some r } else s
  else s

/-! ### Joining and leaving (R376 to R382) -/

/-- The frame map that HELLO digests (R376): number, sails, wake sources, DEADLINE, PERIOD, entry points. -/
def frameMapWords (s : State) : List Nat :=
  (frameKeys s).flatMap fun f =>
    match getFrame s f with
    | none => []
    | some d =>
      let v (i : Nat) : Nat := (fw s d.wheel d.slot i).val.toNat
      let wk := d.wakes.map fun e =>
        match e with
        | some e =>
          let n := getWake s d.wheel e
          1 + 2 * b2n n.src + 4 * n.idx + 0x800 * b2n n.dir + 0x1000 * n.div
        | none => 0
      [f, v 3, v 4, v 1, v 2, v 5, v 6] ++ wk

/-- The fuse serial number (R502). -/
def serialOf (s : State) : W64 := pk [(0, (tget 0 s.fuseSh 2).toNat), (32, (tget 0 s.fuseSh 3).toNat)]

def ownHello (s : State) : HelloBody :=
  { capsId := s.capsId, capsUnits := s.capsUnits, groups := twGroups s, frameMap := Config.mapDigest (frameMapWords s),
    microcode := (List.range 16).map fun m => ((getMill s m).mcId, (getMill s m).mcDigest),
    twintake := s.twin.take, serial := serialOf s }

/-- JERR of the first difference between two HELLO bodies (R376 step 3, R377). -/
def helloDiff (a b : HelloBody) : Option Nat :=
  if a.capsId ≠ b.capsId ∨ a.capsUnits ≠ b.capsUnits then some 3
  else if a.groups ≠ b.groups then some 4
  else if a.frameMap ≠ b.frameMap then some 5
  else if a.microcode ≠ b.microcode then some 6
  else none

/-- A TWIN_JOIN ends before its mirroring starts in step 6 (R377). -/
def joinFail (s : State) (status jerr : Nat) : State :=
  match s.twin.joinAt with
  | none => s
  | some (slot, _, newc) =>
    let s := modTwin s fun t =>
      { t with joinAt := none, jerr := jerr, out := [], due := [], copyQ := [], copyDue := none, peerHello := none,
               role := if newc && t.cfg.setWidth 24 != (0 : BitVec 24) then .held else .simplex }
    let s := drvRest s
    finish s .c slot status jerr [twinstat s]

/-- A difference of the HELLO bodies ends the TWIN_JOIN with 02h (R376 step 3); the own HELLO and its acknowledgements still
go out, so that the peer finds the difference too. -/
def joinDiffer (s : State) (jerr : Nat) : State :=
  let o := s.twin.out.filter fun m => m.2 == .hello
  let d := s.twin.due.filter fun m => m.2 == .hello || m.2 == .ackonly
  modTwin (joinFail s 2 jerr) fun t => { t with out := o, due := d }

/-- The frames of GROUPS that are started, in ascending number. -/
def groupFrames (s : State) : List (Nat × FrameDef) :=
  (frameKeys s).filterMap fun f =>
    match getFrame s f with
    | some d =>
      match frameGroup s d with
      | some g => if shared s g && frameState s f == 1 then some (f, d) else none
      | none => none
    | none => none

def copyExt (s : State) (d : FrameDef) : CopyExt :=
  let x := getWheel s d.wheel
  ⟨(List.range 4).map fun j => readFw s d.wheel d.slot (60 + j), (List.range 4).map fun j => tget none x.applied (ffKey d.slot j)⟩

/-- Intents whose staged values the driver holds in the frames of GROUPS (R376 step 5), each once, in key order of the
frames. -/
def heldIntents (s : State) : List Intent :=
  ((groupFrames s).flatMap fun p => (List.range 4).filterMap fun j =>
    (tget none (getWheel s p.2.wheel).staged (ffKey p.2.slot j)).map fun (v : Staged) => v.it).eraseDups

/-- Messages of up to seven intents (R360). -/
def intentMsgs : Nat → List Intent → List CtlMsg
  | 0, _ => []
  | k + 1, l => if l.isEmpty then [] else .intentcopy (l.take 7) :: intentMsgs k (l.drop 7)

def isCopydone : CtlMsg → Bool
  | .copydone _ => true
  | _ => false
def isHello : CtlMsg → Bool
  | .hello => true
  | _ => false
def isIntents : CtlMsg → Bool
  | .intentcopy _ => true
  | _ => false

/-- One step of R376 ends and the next begins, where its end has been reached. The newcomer is a follower once the driver's
headers show it as leader, which is when the last INTENTCOPY has its ACK (log 99). -/
def joinOnce (s : State) : State :=
  match s.twin.joinAt with
  | none => s
  | some (slot, step, newc) =>
    let goTo (s : State) (k : Nat) : State := modTwin s fun t => { t with joinAt := some (slot, k, newc) }
    let waits (p : CtlMsg → Bool) : Bool := s.twin.out.any fun m => p m.2
    if step = 1 then
      if laneUp s 0 && (laneUp s 1 || !hasRace1 s) then goTo s 2 else s
    else if step = 2 then
      if s.twin.talign then
        sendMsg (sendMsg (goTo s 3) .hello) (.join (if newc then 0 else twGroups s))
      else s
    else if step = 3 then
      match s.twin.peerHello with
      | none => s
      | some h =>
        match helloDiff (ownHello s) h with
        | some j => joinDiffer s j
        | none =>
          if waits isHello then s
          else if newc then goTo s 4
          else
            let l := groupFrames s
            let q := l.map fun p => (stateRec s p.1 p.2, copyExt s p.2)
            goTo (modTwin s fun t => { t with copyQ := q, copied := q.length }) 4
    else if step = 4 then
      if newc then s
      else if s.twin.copyQ.isEmpty then
        goTo (sendMsg s (.copydone s.twin.copied)) 41
      else s
    else if step = 41 then
      if waits isCopydone then s
      else goTo ((intentMsgs 300 (heldIntents s)).foldl sendMsg s) 5
    else if step = 5 then
      if (if newc then s.twin.peerRole == 1 else !waits isIntents) then
        let s := modTwin (goTo s 6) fun t => { t with role := if newc then .follower else .leader, peerLost := false, newcomer := newc }
        modSlot s .c slot fun x => { x with committed := true }
      else s
    else
      if (if newc then trackNow s else s.twin.peerTrack) then
        let s := modTwin s fun t => { t with joinAt := none }
        finish s .c slot 0 0 [twinstat s]
      else s

/-- TWIN_JOIN goes on as far as it can. -/
def joinAdvance (s : State) : State := joinOnce (joinOnce (joinOnce (joinOnce (joinOnce (joinOnce s)))))

/-- TWIN_LEAVE ends (R378). -/
def leaveEnd (s : State) (status : Nat) : State :=
  match s.twin.leaveAt with
  | none => s
  | some (slot, _) =>
    let s := rolePair (modTwin s fun t => { t with leaveAt := none })
    finish s .c slot status 0 [twinstat s]

/-- Step 3 and 4 of R378 on the leaving complex, once it drives no group. -/
def leaveStep (s : State) : State :=
  let s := sendMsg (modTwin s fun t => { t with hand := none }) (.leave (twGroups s))
  leaveEnd (enterHeld s) 0

/-- A TWIN_JOIN ends in step 6, whose role stands (R372, R377). -/
def joinCut (s : State) (status jerr : Nat) : State :=
  match s.twin.joinAt with
  | none => s
  | some (slot, _, _) =>
    let s := modTwin s fun t => { t with joinAt := none, jerr := jerr }
    finish s .c slot status jerr [twinstat s]

/-- The peer is declared lost (R371, R372, R374, R377): before step 6 of a TWIN_JOIN that alone ends; from step 6 on the
takeover runs. -/
def declareLost (s : State) : State :=
  let early := match s.twin.joinAt with
    | some (_, step, _) => step != 6
    | none => false
  if early then joinFail s 8 9
  else
    let s := modTwin s fun t =>
      { t with peerLost := true, peerhb := false, takeAt := t.cfg.setWidth 24 &&& ~~~ t.drvsel, takeNew := true,
               hand := none, yieldAt := 0, chk := none, role := .leader, peerHello := none, rxCseq := none, rxDone := [],
               out := [], due := [], dutyQ := [], stateQ := [] }
    joinCut (leaveEnd s 8) 8 9

/-! ### Drive at a boundary (R133, R372, R375, R378) -/

/-- The groups of a mask whose timebase is `t`. -/
def tbGroups (s : State) (m : BitVec 24) (t : Nat) : BitVec 24 :=
  (List.range 24).foldl (fun v g => if bitOf m g && groupTb s g == t then v ||| (1#24 <<< g) else v) 0

def countBits (m : BitVec 24) : Nat := ((List.range 24).filter fun g => bitOf m g).length

/-- TAKEOVER, withdrawal and handover at a boundary of timebase `t` with index `idx`. -/
def boundaryDrive (s : State) (t : Nat) (idx : BitVec 16) : State :=
  let tw := s.twin
  let yl := tbGroups s tw.yieldAt t
  let tk := tbGroups s tw.takeAt t &&& ~~~ tw.drvsel
  let (hg, htake) := match tw.hand with
    | some (g, tk, ix) => if nth 0 ix t = idx then (tbGroups s g t, tk) else (0, false)
    | none => (0, false)
  let up := tk ||| (if htake then hg else 0)
  let down := yl ||| (if htake then 0 else hg)
  let stamp := up != 0 && (tw.takeNew || !tw.peerLost)
  let s := modTwin s fun x =>
    { x with yieldAt := x.yieldAt &&& ~~~ yl, takeAt := x.takeAt &&& ~~~ (tbGroups s tw.takeAt t),
             takeNew := x.takeNew && tk == 0, take := if stamp then s.ring_time.ns else x.take,
             takecnt := min 0xFFFF (x.takecnt + countBits tk),
             hand := x.hand.map fun h => (h.1 &&& ~~~ hg, h.2.1, h.2.2) }
  let s := rolePair (setDrv s ((s.twin.drvsel &&& ~~~ down) ||| up))
  match s.twin.hand, s.twin.leaveAt with
  | some (0, false, _), some (_, false) => leaveStep s
  | some (0, true, _), _ => modTwin s fun x => { x with hand := none }
  | _, _ => s

end Sys2Proof.Machine
end

