-- ==== Sys2Proof/Machine/Boundary.lean ====
section
/-! DEFINITION. Wakes, period boundaries, deadlines, hopper writes to frames, moves of frames and fetch returns (R60,
R83, R92 to R99, R108, R233, R237, R241, R440, R441). -/

namespace Sys2Proof.Machine

/-! ### Wakes and deadlines -/

/-- WAKE: the oldest occurrence in the latch stage of an entry reaches it (R82, R83, R86). -/
def execWake (w : WheelId) (e : Fin 16) (s : State) : Out :=
  if running s && millRuns s (millOf w) then
    match (getWake s w e).latch with
    | (_, o) :: _ => .next (ffWake (occurrence s w e) w o)
    | [] => .next s
  else .next s

/-- DEADLINE_EXPIRY (R97, R98); a halted wheel's runs do not expire (R539). -/
def execDeadlineExpiry (w : WheelId) (pend : Option (Fin 16)) (count : W32) (s : State) : Out :=
  if running s && !(getWheel s w).halted then .next (expiry s w (pend.map Fin.val) count) else .next s

/-! ### Boundaries -/

/-- A timebase index that is not the last one plus 1 (R60). -/
def idxSkips (b : Timebase) (idx : BitVec 16) : Bool := b.seen && idx != b.idx + 1

/-- The wheels that own a sail on timebase `t` (event 34, R286). -/
def tbOwners (s : State) (t : Nat) : List Nat :=
  (((List.range 192).filter fun n => (getSail s n).owned && (getSail s n).tb == t).map fun n => (getSail s n).owner).eraseDups

/-- The wake entries of a frame. -/
def frameWakes (d : FrameDef) : List Nat := d.wakes.filterMap id

/-- A run of the frame is in progress on its wheel. -/
def runOf (s : State) (d : FrameDef) : Bool :=
  match (getWheel s d.wheel).run with
  | some r => r.frame == d.slot
  | none => false

/-- LOOP_STOP at its boundary (R95): entries disarmed, PEND cleared, staged values discarded (R408). -/
def stopFrame (s : State) (f : Nat) (d : FrameDef) : State :=
  let s := modFrame s f fun d => { d with stop := false, arm := false }
  if fsState s d.wheel d.slot = 1 then
    let s := (frameWakes d).foldl (fun s e => modWake s d.wheel e fun n => { n with en := false, pend := false, latch := [] }) s
    let s := dropStaged (setFstat s d.wheel d.slot 0 2 2) d.wheel d.slot
    if runOf s d then s else stopDone s d.wheel d.slot
  else s

/-- The entries of a started frame are armed (R82, R95). -/
def armFrame (s : State) (f : Nat) (d : FrameDef) : State :=
  (frameWakes d).foldl (fun s e => modWake s d.wheel e fun n => { n with en := true, cnt := 0, latch := [], pend := false })
    (modFrame s f fun d => { d with arm := false })

/-- A mode pair at a boundary (R108): DWELL begins, or a period of it ends. -/
def dwellFrame (s : State) (d : FrameDef) : State :=
  let w := d.wheel
  let t := d.slot
  if fsPair s w t && fsState s w t != 0 then
    if fsX s w t = 3 then
      let cut (x : Wheel) : Wheel := { x with run := x.run.map fun r => if r.frame = t then { r with cut := true } else r }
      let s := noteFw (modWheel s w cut) w t [3, 4, 10]
      forAll (setFstat (setFstat s w t 4 2 2) w t 6 8 (fw s w t 10).val.toNat) (frameSails s w t) writeSafe
    else if fsX s w t = 2 then setFstat s w t 6 8 (fld (fstat s w t) 6 8 - 1)
    else s
  else s

/-- No leat word or boundary bound to the wheel's entries is in the latch stage. -/
def latchEmpty (x : Wheel) : Bool := x.wakes.all fun p => p.2.latch.isEmpty

/-- The wheel applies hopper writes now. -/
def canApply (s : State) (w : Nat) : Bool :=
  let x := getWheel s w
  wheelLive s w && x.parked && latchEmpty x

/-! ### The steal register (R322) -/

/-- The requester of a steal-register request, in the order of the round robin. -/
def stealOf : StealReq → Nat
  | .debug _ => 0
  | .mirror _ => 1
  | .tdest _ => 2

/-- A requester holds a request toward the wheel's scratchpad, in the register or before it. -/
def stealHeld (x : Wheel) (k : Nat) : Bool :=
  (match x.steal with
   | some r => stealOf r == k
   | none => false) || x.stealQ.any fun r => stealOf r == k

/-- A request toward a scratchpad takes the steal register, or waits for it. A requester holds at most one: while it does, it
makes no other (log 94). -/
def askSteal (s : State) (w : Nat) (r : StealReq) : State :=
  modWheel s w fun x =>
    if stealHeld x (stealOf r) then x
    else if x.steal.isNone then { x with steal := some r } else { x with stealQ := x.stealQ ++ [r] }

/-- The tailrace asks for the next slot whose frame word 7 it has to reload, unless it holds a request. -/
def nextTdest (s : State) (w : Nat) : State :=
  match (getWheel s w).tdestDue with
  | k :: l => if stealHeld (getWheel s w) 2 then s else askSteal (modWheel s w fun x => { x with tdestDue := l }) w (.tdest k)
  | [] => s

/-- The telemetry descriptor copy of the tailrace follows frame word 7 (R321). -/
def askTdest (s : State) (w slot : Nat) : State :=
  nextTdest (modWheel s w fun x => { x with tdestDue := x.tdestDue ++ [slot] }) w

/-! ### Moves (R440, R441) -/

/-- A word of a moved frame: a CODE word names the target mill (R441). -/
def moveWord (w w' : Nat) (v : TWord) : TWord :=
  if v.tag = .code ∧ millOf w ≠ millOf w' then { v with val := setFld v.val 18 4 (millOf w') } else v

/-- The lowest free frame slot of a wheel. -/
def freeSlot (s : State) (w : Nat) : Option Nat := (List.range 16).find? fun t => (frameAt s w t).isNone

/-- The free wake entries of a wheel, lowest first. -/
def freeWakes (s : State) (w : Nat) : List Nat := (List.range 16).filter fun e => !(getWake s w e).alloc

/-- The frames on the wheels of a mill. -/
def millFrames (s : State) (m : Nat) : List Nat :=
  (frameKeys s).filter fun f => match getFrame s f with
    | some d => millOf d.wheel == m
    | none => false

/-- EVCFG and EVROUTE bits of a mill's wheels pass to those of another mill, and are cleared at the source (R439). -/
def moveEvents (s : State) (m m' : Nat) : State :=
  forAll s (List.range 4) fun s k =>
    let a := 4 * m + k
    let b := 4 * m' + k
    let c := (getWheel s a).evcfg
    let s := modWheel (modWheel s a fun x => { x with evcfg := 0 }) b fun x => { x with evcfg := c }
    forAll s ((List.range 13).map (36 + ·)) fun s e =>
      let r := tget 0 s.evroute e
      { s with evroute := tset 0 s.evroute e (setFld (setFld r a 1 0) b 1 (b2n (bitOf r a))) }

/-- OCCUPIED follows the frames on the standby mill (R26, R439): the first frame of a KIND 1 move takes the events of
its mill along, and the last one back returns them. -/
def settleStandby (s : State) : State :=
  let occ := decide (s.standby < 16) && !(millFrames s s.standby).isEmpty
  match s.svc.moved with
  | some (a, b) =>
    if occ && !s.occupied then moveEvents { s with occupied := true } a b
    else if !occ && s.occupied then modSvc (moveEvents { s with occupied := false } b a) fun v => { v with moved := none }
    else s
  | none => { s with occupied := occ }

/-- The source entries of a moved frame, with the target entries that take their place and the entry-line copies loaded from
the target mill (R239, R440 steps 1, 3 and 5). Occurrences in the latch stage that complete no wake stay with the entry. -/
def moveWakes (s : State) (w t w' t' : Nat) : List ((Nat × Nat) × Option LineCopy) → State
  | [] => s
  | ((e, e'), c) :: l =>
    let n := getWake s w e
    let s := modWake s w e fun _ => {}
    let s := modWake s w' e' fun _ => { n with frame := t', pend := false }
    let s := modWheel s w fun x => { x with fetch := { x.fetch with entry := tset none x.fetch.entry e none } }
    moveWakes (modWheel s w' fun x => { x with fetch := { x.fetch with entry := tset none x.fetch.entry e' c } }) w t w' t' l

/-- The staged values and keys of a slot pass to another wheel's slot (R408). -/
def moveStaged (s : State) (w t w' t' : Nat) : State :=
  forAll s (List.range 4) fun s j =>
    let x := getWheel s w
    let v := tget none x.staged (ffKey t j)
    let a := tget none x.applied (ffKey t j)
    let s := modWheel s w fun x =>
      { x with staged := tset none x.staged (ffKey t j) none, applied := tset none x.applied (ffKey t j) none }
    modWheel s w' fun x =>
      { x with staged := tset none x.staged (ffKey t' j) v, applied := tset none x.applied (ffKey t' j) a }

/-- Entries of a table below a bound. -/
def tabBelow {α : Type} (k : Nat) (t : Tab α) : Tab α := t.filter fun p => decide (p.1 < k)
def tabFromKey {α : Type} (k : Nat) (t : Tab α) : Tab α := t.filter fun p => decide (k ≤ p.1)

/-- The words of a scratchpad below 6000h as a unit reads them: POISON with value 0 for one that cannot be corrected (R331). -/
def readCells (x : Wheel) : Tab TWord :=
  (tabBelow 0x6000 x.spad.ecc).foldl (fun t p => if isUe p.2 then tset emptyW t p.1 poisonW else t) (tabBelow 0x6000 x.spad.cells)

/-- The copier of R528 steps 2 and 3: pinned store and scratchpad words 0000h to 5FFFh; the copy is whole at the move, because
every later write to a copied word went to both wheels. Each word read counts as a reader's visit (R329, R330), and the copy has
fresh check bits; a pinned word that cannot be corrected stays so in the copy (log 93, DESIGN CHOICE). -/
def copyWheel (s : State) (w w' : Nat) : State :=
  let x := getWheel s w
  let s := x.spad.ecc.foldl (fun s p => if p.1 < 0x6000 then spadNote s w p.1 else s) s
  let s := x.pinned.ecc.foldl (fun s p => noteRead s (.pinned (Fin.ofNat 64 w)) p.1) s
  modWheel s w' fun y =>
    { y with pinned := { cells := x.pinned.cells, ecc := x.pinned.ecc.filter fun p => isUe p.2 },
             spad := { cells := readCells x ++ tabFromKey 0x6000 y.spad.cells, ecc := tabFromKey 0x6000 y.spad.ecc } }

/-- Some frame is defined on a wheel. -/
def wheelHasFrames (s : State) (w : Nat) : Bool :=
  (frameKeys s).any fun f => match getFrame s f with
    | some d => d.wheel == w
    | none => false

/-- Steps 3 to 5 of R440: frame `f` moves to wheel `w'`. A wheel without frames takes the source's pinned store and local
words (R440 step 1, R441). Every word read is a visit, and one that cannot be corrected moves as POISON (R329 to R331). -/
def moveFrame (s : State) (f : Nat) (d : FrameDef) (w' : Nat) : State :=
  let w := d.wheel
  let t := d.slot
  match freeSlot s w' with
  | none => s
  | some t' =>
    let es := frameWakes d
    let fr := freeWakes s w'
    if fr.length < es.length then s
    else
      let sails := (frameSails s w t).filter fun j => ownsSail s w j
      let ws := (List.range 64).map fun i => moveWord w w' (fw s w t i)
      let mp := es.zip fr
      let s := noteFw s w t (List.range 64)
      let s := if wheelHasFrames s w' then s else copyWheel s w w'
      let s := ws.zipIdx.foldl (fun s p => setFw s w' t' p.2 p.1) s
      let s := moveStaged (moveWakes s w t w' t' (mp.zip (d.moveLines ++ es.map fun _ => none))) w t w' t'
      let s := askTdest s w' t'
      let s := forAll s sails fun s j => modSail s j fun x => { x with owner := w' }
      let home := if s.standby < 16 ∧ millOf w' = s.standby ∧ millOf w ≠ s.standby then some w
        else if s.standby < 16 ∧ millOf w' = s.standby then d.home else none
      let g (e : Option Nat) : Option Nat := e.bind fun e => (mp.find? fun p => p.1 == e).map (·.2)
      settleStandby (modFrame s f fun d =>
        { d with wheel := w', slot := t', wakes := d.wakes.map g, moveTo := none, moveLines := [], home := home })

/-- A wake of the entry is pending, or an occurrence in the latch stage completes its group and so makes one by the boundary's
wake cycle (R45, R82, R83). -/
def wakeComing (n : WakeEnt) : Bool := n.pend || (n.en && decide (n.cnt + n.latch.length > n.div))

/-- A due move is made at a boundary at whose wake cycle the source is parked and no wake of the frame is pending (R440
step 2), and the target wheel applies hopper writes (R92; DEDUCED, log 112). -/
def moveDue (s : State) (f : Nat) (d : FrameDef) : State :=
  match d.moveTo with
  | none => s
  | some w' =>
    let x := getWheel s d.wheel
    if x.parked && x.fault.isNone && canApply s w' && !((frameWakes d).any fun e => wakeComing (tget {} x.wakes e)) then
      moveFrame s f d w'
    else s

/-- Every defined frame whose timebase is `t`. -/
def tbFrames (s : State) (t : Nat) : List Nat :=
  (frameKeys s).filter fun f => match getFrame s f with
    | some d => fsTb s d.wheel d.slot == t
    | none => false

def eachFrame (s : State) (l : List Nat) (g : State → Nat → FrameDef → State) : State :=
  forAll s l fun s f => match getFrame s f with
    | some d => g s f d
    | none => s

/-- Arming of the frames of timebase `t` (R95). -/
def armDue (s : State) (t : Nat) : State := eachFrame s (tbFrames s t) fun s f d => if d.arm then armFrame s f d else s

/-- The boundary's occurrence and the arming of started frames, in the order that the open value fixes (log 9). -/
def armAndCount (s : State) (t : Nat) (idx : BitVec 16) : State :=
  if Config.armBoundaryCounts then pushOcc (armDue s t) false t (tbWord t idx)
  else armDue (pushOcc s false t (tbWord t idx)) t

/-- The boundary actions of timebase `t` (R60, R93, R95, R108, R134, R364, R372, R453, R461). -/
def boundary (s : State) (t : Nat) (idx : BitVec 16) : State :=
  let b := getTb s t
  let now := s.ring_time.ns
  let s := if idxSkips b idx then forAll s (tbOwners s t) fun s w => raiseEv s w 34 t else s
  let s := modTb s t fun _ => ⟨idx, true, now⟩
  if running s then
    let s := mirrorDuty s t (if b.seen then b.idx else idx - 1)
    let s := boundaryDrive s t idx
    let s := eachFrame s (tbFrames s t) fun s f d => if d.stop then stopFrame s f d else s
    let s := eachFrame s (tbFrames s t) fun s _ d => dwellFrame s d
    let s := eachFrame s (tbFrames s t) moveDue
    let s := weirBoundary (fbSnapshot s t) t
    ffPost (armAndCount s t idx) t now (if b.seen then some b.stamp else none) s.order
  else s

/-- PERIOD_BOUNDARY (R60); a timebase domain that is held receives no pulse. -/
def execPeriodBoundary (t : Fin 8) (idx : BitVec 16) (s : State) : Out :=
  if unitsLive s && !domHeld s (42 + t) then .next (boundary s t idx) else .next s

/-- An entry that a flip wakes (R108): its latched boundary is this wake, whose wake cycle this is, and its count restarts. -/
def flipWake (s : State) (w e t : Nat) : State :=
  let s1 := modWake s w e fun n => { n with latch := n.latch.dropLast, cnt := 0 }
  let s2 := wakeEntry { s1 with order := s1.order + 1 } w e (tbWord t (getTb s t).idx) s.order
  match (getWake s w e).latch.getLast? with
  | some (_, o) => ffWake s2 w o
  | none => s2

/-- MODE_PAIR_FLIP: the boundary at which XCOUNT has reached 0 (R108). -/
def execModePairFlip (w : WheelId) (slot : Fin 16) (s : State) : Out :=
  let t := slot.val
  if running s && fsPair s w t && fsState s w t != 0 && fsX s w t == 2 && fld (fstat s w t) 6 8 == 0 then
    let dir := !fsDir s w t
    let s := setFstat (setFstat s w t 3 1 (b2n dir)) w t 4 2 0
    let s := setFw s w t 11 ⟨.q31, 0⟩
    let tb := fsTb s w t
    let l := (wakeKeys (getWheel s w)).filter fun e =>
      let n := getWake s w e
      n.en && n.frame == t && n.dir == dir && n.src && n.idx == tb
    .next (forAll s l fun s e => flipWake s w e tb)
  else .next s

/-! ### Hopper writes (R92) -/

/-- The lines of a frame's entry points in the program store, with their entries (R239). -/
def frameLines (s : State) (d : FrameDef) : List (Nat × Nat) :=
  (frameWakes d).filterMap fun e =>
    let v := fw s d.wheel d.slot (if (getWake s d.wheel e).dir then 6 else 5)
    if v.tag == .code && cRegion v.val == 0 then some (e, lineOf v.val) else none

/-- The entry-line copies of a frame fail their check in mill `m` (R241, R544). -/
def linesBad (s : State) (d : FrameDef) (m : Nat) : Bool := (frameLines s d).any fun p => badLine s m p.2

/-- LOOP_START on one stopped frame (R82, R95, R111, R485). -/
def startFrame (s : State) (f : Nat) (d : FrameDef) : State :=
  let w := d.wheel
  let t := d.slot
  let s := (frameLines s d).foldl (fun s p => modWheel s w fun x =>
    { x with fetch := { x.fetch with entry := tset none x.fetch.entry p.1 (some (lineCopy s (millOf w) p.2)) } }) s
  let s := setFstat s w t 0 2 1
  let s := if fsPair s w t then setFw (setFstat (setFstat s w t 3 1 0) w t 4 2 0) w t 11 ⟨.q31, 0⟩ else s
  let s := forAll s (frameSails s w t) fun s j => modSail s j fun x => { x with owned := true, owner := w }
  modFrame s f fun d => { d with arm := true, stop := false }

/-- The counts of LOOP_START in a slot: frames changed, frames left under R544. -/
def countStart (s : State) (h : HopId) (n : Nat) (left : Bool) : State :=
  modSlot s h n fun x =>
    { x with aux := [nth 0 x.aux 0 + b2n (!left), nth 0 x.aux 1 + b2n left], changed := x.changed || !left }

/-- One pending hopper write. That of LOOP_STOP makes the frame's next boundary the one at which it stops (R92, R95; DEDUCED,
log 112). -/
def frameAct (s : State) (w : Nat) : FrameAct → State
  | .word t i v h n => modSlot (setFw s w t i v) h n fun x => { x with aux := [nth 0 x.aux 0 + 1], changed := true }
  | .stop f _ _ => modFrame s f fun d => { d with stop := true }
  | .start _ f h n =>
    match getFrame s f with
    | none => s
    | some d =>
      if fsState s d.wheel d.slot ≠ 0 then s
      else
        let s := noteFw s d.wheel d.slot [0, 3, 4, 5, 6]
        if linesBad s d (millOf d.wheel) then countStart s h n true else countStart (startFrame s f d) h n false
  | .done h n => finish s h n 0 0 [BitVec.ofNat 64 (nth 0 (getSlot s h n).aux 0)]

/-- HOPPER_FRAME_WRITE: the oldest pending write, one word per wc (R92). -/
def execHopperFrameWrite (w : WheelId) (s : State) : Out :=
  match (getWheel s w).acts with
  | [] => .next s
  | a :: t => if canApply s w then .next (frameAct (modWheel s w fun x => { x with acts := t }) w a) else .next s

/-! ### Fetch (R233 to R241) -/

/-- A line that a transfer waits for returns: good, it is entered; bad, the instruction at its target raises
exception 14 when it would issue (R237, R241). -/
def wantReturn (s : State) (w j : Nat) : State :=
  if badLine s (millOf w) j then
    if canIssue s w then
      let op := (tget 0 (getMill s (millOf w)).slice (cOff (getWheel s w).pc)).toNat
      failAt (modWheel s w fun x => { x with fetch := { x.fetch with want := none } }) w (exc 14 (intW j) op)
    else s
  else modWheel s w fun x =>
    { x with fetch := enterLine (btbWrite x.fetch (lineCopy s (millOf w) j)) (lineCopy s (millOf w) j) }

/-- FETCH_LINE_RETURN: the older of the wheel's two reads, which is the prefetch (R233). -/
def execFetchLineReturn (w : WheelId) (s : State) : Out :=
  let f := (getWheel s w).fetch
  if wheelLive s w then
    match f.preWant, f.want with
    | some _, _ => .next (landPre s w)
    | none, some (j, _) => .next (wantReturn s w j)
    | none, none => .next s
  else .next s

end Sys2Proof.Machine
end

