-- ==== Sys2Proof/Machine/Crypto.lean ====
section
/-! DEFINITION. SHA-384 and ECDSA P-384, which R273, R274, R503 and R516 name: the spec gives their names and their byte
orders, and the published standards give their constants and steps (PRESUMED, log 11). Numbers are `Nat`, as the
standards write them, so that a signature can be checked by evaluation. -/

namespace Sys2Proof.Machine

/-- `f x`, with `x` evaluated to a numeral first. -/
def withVal {α : Type} (x : Nat) (f : Nat → α) : α :=
  match x with
  | 0 => f 0
  | n + 1 => f (n + 1)

/-! ### SHA-384 -/

/-- A word of 64 bits, its rotation and its addition. -/
def w64 (x : Nat) : Nat := x % 0x10000000000000000
def ror64 (x n : Nat) : Nat := (x >>> n) ||| w64 (x <<< (64 - n))
def add64 (l : List Nat) : Nat := w64 (l.foldl (· + ·) 0)

/-- The round constants: 64 bits of the fraction of the cube root of each of the first 80 primes. -/
def shaK0 : List Nat :=
  [0x428A2F98D728AE22, 0x7137449123EF65CD, 0xB5C0FBCFEC4D3B2F, 0xE9B5DBA58189DBBC,
   0x3956C25BF348B538, 0x59F111F1B605D019, 0x923F82A4AF194F9B, 0xAB1C5ED5DA6D8118,
   0xD807AA98A3030242, 0x12835B0145706FBE, 0x243185BE4EE4B28C, 0x550C7DC3D5FFB4E2,
   0x72BE5D74F27B896F, 0x80DEB1FE3B1696B1, 0x9BDC06A725C71235, 0xC19BF174CF692694]
def shaK1 : List Nat :=
  [0xE49B69C19EF14AD2, 0xEFBE4786384F25E3, 0x0FC19DC68B8CD5B5, 0x240CA1CC77AC9C65,
   0x2DE92C6F592B0275, 0x4A7484AA6EA6E483, 0x5CB0A9DCBD41FBD4, 0x76F988DA831153B5,
   0x983E5152EE66DFAB, 0xA831C66D2DB43210, 0xB00327C898FB213F, 0xBF597FC7BEEF0EE4,
   0xC6E00BF33DA88FC2, 0xD5A79147930AA725, 0x06CA6351E003826F, 0x142929670A0E6E70]
def shaK2 : List Nat :=
  [0x27B70A8546D22FFC, 0x2E1B21385C26C926, 0x4D2C6DFC5AC42AED, 0x53380D139D95B3DF,
   0x650A73548BAF63DE, 0x766A0ABB3C77B2A8, 0x81C2C92E47EDAEE6, 0x92722C851482353B,
   0xA2BFE8A14CF10364, 0xA81A664BBC423001, 0xC24B8B70D0F89791, 0xC76C51A30654BE30,
   0xD192E819D6EF5218, 0xD69906245565A910, 0xF40E35855771202A, 0x106AA07032BBD1B8]
def shaK3 : List Nat :=
  [0x19A4C116B8D2D0C8, 0x1E376C085141AB53, 0x2748774CDF8EEB99, 0x34B0BCB5E19B48A8,
   0x391C0CB3C5C95A63, 0x4ED8AA4AE3418ACB, 0x5B9CCA4F7763E373, 0x682E6FF3D6B2B8A3,
   0x748F82EE5DEFB2FC, 0x78A5636F43172F60, 0x84C87814A1F0AB72, 0x8CC702081A6439EC,
   0x90BEFFFA23631E28, 0xA4506CEBDE82BDE9, 0xBEF9A3F7B2C67915, 0xC67178F2E372532B]
def shaK4 : List Nat :=
  [0xCA273ECEEA26619C, 0xD186B8C721C0C207, 0xEADA7DD6CDE0EB1E, 0xF57D4F7FEE6ED178,
   0x06F067AA72176FBA, 0x0A637DC5A2C898A6, 0x113F9804BEF90DAE, 0x1B710B35131C471B,
   0x28DB77F523047D84, 0x32CAAB7B40C72493, 0x3C9EBE0A15C9BEBC, 0x431D67C49C100D4C,
   0x4CC5D4BECB3E42B6, 0x597F299CFC657E2A, 0x5FCB6FAB3AD6FAEC, 0x6C44198C4A475817]
def shaK : List Nat := shaK0 ++ shaK1 ++ shaK2 ++ shaK3 ++ shaK4

/-- The first hash value: 64 bits of the fraction of the square root of the 9th to 16th prime. -/
def shaInit : List Nat :=
  [0xCBBB9D5DC1059ED8, 0x629A292A367CD507, 0x9159015A3070DD17, 0x152FECD8F70E5939,
   0x67332667FFC00B31, 0x8EB44A8768581511, 0xDB0C2E0D64F98FA7, 0x47B5481DBEFA4FA4]

/-- A byte string as a number, most significant byte first (R273, R274: big-endian). -/
def bigEnd (b : List Byte) : Nat := b.foldl (fun v x => 256 * v + x.toNat) 0

/-- The next message word of the schedule, from the last 16. -/
def shaNext (w : List Nat) : Nat :=
  let g (i : Nat) : Nat := w.getD i 0
  add64 [ror64 (g 14) 19 ^^^ ror64 (g 14) 61 ^^^ (g 14 >>> 6), g 9, ror64 (g 1) 1 ^^^ ror64 (g 1) 8 ^^^ (g 1 >>> 7), g 0]

/-- One round: the working words a to h, the constant and the message word. -/
def shaRound (v : List Nat) (k w : Nat) : List Nat :=
  match v with
  | [a, b, c, d, e, f, g, h] =>
    withVal (add64 [h, ror64 e 14 ^^^ ror64 e 18 ^^^ ror64 e 41, (e &&& f) ^^^ ((0xFFFFFFFFFFFFFFFF - e) &&& g), k, w]) fun t =>
      withVal (add64 [t, ror64 a 28 ^^^ ror64 a 34 ^^^ ror64 a 39, (a &&& b) ^^^ (a &&& c) ^^^ (b &&& c)]) fun a' =>
        withVal (w64 (d + t)) fun e' => [a', a, b, c, e', e, f, g]
  | _ => v

/-- The rounds on the working words and the last 16 message words. -/
def shaRounds (ks : List Nat) (v w : List Nat) : List Nat :=
  match ks with
  | [] => v
  | k :: ks => withVal (shaNext w) fun n => shaRounds ks (shaRound v k (w.getD 0 0)) (w.drop 1 ++ [n])

/-- One block of 128 bytes. -/
def shaBlock (h : List Nat) (b : List Byte) : List Nat :=
  let w := (List.range 16).map fun i => bigEnd ((b.drop (8 * i)).take 8)
  (h.zip (shaRounds shaK h w)).map fun p => w64 (p.1 + p.2)

/-- The message with its padding: 80h, zeros, and its length in bits as 16 bytes. -/
def shaPad (b : List Byte) : List Byte :=
  let n := b.length
  b ++ [0x80] ++ List.replicate ((239 - n % 128) % 128) 0 ++
    (List.range 16).map fun i => BitVec.ofNat 8 (8 * n / 256 ^ (15 - i))

/-- SHA-384 of a byte string, byte 0 most significant. -/
@[irreducible] def sha384 (b : List Byte) : BitVec 384 :=
  let m := shaPad b
  let h := (List.range (m.length / 128)).foldl (fun h i => shaBlock h ((m.drop (128 * i)).take 128)) shaInit
  BitVec.ofNat 384 ((h.take 6).foldl (fun v x => 0x10000000000000000 * v + x) 0)

/-! ### ECDSA P-384 -/

/-- The field, the order of the base point, the curve's b and the base point of P-384. -/
def p384 : Nat := 0xFFFFFFFFFFFFFFFFFFFFFFFFFFFFFFFFFFFFFFFFFFFFFFFFFFFFFFFFFFFFFFFEFFFFFFFF0000000000000000FFFFFFFF
def n384 : Nat := 0xFFFFFFFFFFFFFFFFFFFFFFFFFFFFFFFFFFFFFFFFFFFFFFFFC7634D81F4372DDF581A0DB248B0A77AECEC196ACCC52973
def b384 : Nat := 0xB3312FA7E23EE7E4988E056BE3F82D19181D9C6EFE8141120314088F5013875AC656398D8A2ED19D2A85C8EDD3EC2AEF
def gx384 : Nat := 0xAA87CA22BE8B05378EB1C71EF320AD746E1D3B628BA79B9859F741E082542A385502F25DBF55296C3A545E3872760AB7
def gy384 : Nat := 0x3617DE4A96262C6F5D9E98BF9292DC29F8F41DBD289A147CE9DA3113B5F0B8C00A60B1CE1D7E819D7A431D7C90EA0E5F

/-- Difference and power of residues. -/
def subM (m a b : Nat) : Nat := (a + (m - b % m)) % m
def powM (m a k n : Nat) : Nat := match n with
  | 0 => 1
  | n + 1 => withVal (powM m a (k / 2) n) fun r => if k % 2 = 1 then r * r * a % m else r * r % m

/-- A curve point in Jacobian coordinates: (X / Z², Y / Z³), and the point at infinity where Z is 0. -/
structure Point where
  x : Nat
  y : Nat
  z : Nat

def mkPoint (x y z : Nat) : Point := withVal x fun x => withVal y fun y => withVal z fun z => ⟨x, y, z⟩

/-- Twice a point. -/
def dblPoint (a : Point) : Point :=
  let p := p384
  withVal (a.z * a.z % p) fun d => withVal (a.y * a.y % p) fun g => withVal (a.x * g % p) fun b =>
    withVal (3 * subM p a.x d * (a.x + d) % p) fun k => withVal (subM p (k * k) (8 * b)) fun x =>
      mkPoint x (subM p (k * subM p (4 * b) x) (8 * g * g)) (2 * a.y * a.z % p)

/-- The sum of two points. -/
def addPoint (a b : Point) : Point :=
  let p := p384
  if a.z = 0 then b else if b.z = 0 then a else
    withVal (a.z * a.z % p) fun za => withVal (b.z * b.z % p) fun zb =>
      withVal (a.x * zb % p) fun u => withVal (subM p (b.x * za) u) fun h =>
        withVal (a.y * zb * b.z % p) fun s => withVal (subM p (b.y * za * a.z) s) fun r =>
          if h = 0 then (if r = 0 then dblPoint a else ⟨1, 1, 0⟩)
          else withVal (h * h % p) fun h2 => withVal (subM p (r * r) (h2 * h + 2 * u * h2)) fun x =>
            mkPoint x (subM p (r * subM p (u * h2) x) (s * h2 * h)) (h * a.z * b.z % p)

/-- `u · a + v · b`, from the most significant of `n` bits. -/
def mulPoint (u v : Nat) (a b : Point) (n : Nat) : Point := match n with
  | 0 => ⟨1, 1, 0⟩
  | n + 1 =>
    let q := dblPoint (mulPoint (u / 2) (v / 2) a b n)
    let q := if u % 2 = 1 then addPoint q a else q
    if v % 2 = 1 then addPoint q b else q

/-- The signature `sig` (r then s) is the key's over the digest `d` (R274 order 5): the key is an uncompressed point of the
curve (R273). -/
@[irreducible] def ecdsaOk (key : List Byte) (d : BitVec 384) (sig : List Byte) : Bool :=
  let qx := bigEnd ((key.drop 1).take 48)
  let qy := bigEnd ((key.drop 49).take 48)
  let r := bigEnd (sig.take 48)
  let s := bigEnd ((sig.drop 48).take 48)
  key.length == 97 && sig.length == 96 && key.getD 0 0 == 4 && decide (qx < p384) && decide (qy < p384) &&
    qy * qy % p384 == (qx ^ 3 + (p384 - 3) * qx + b384) % p384 &&
    decide (0 < r) && decide (r < n384) && decide (0 < s) && decide (s < n384) &&
    (let i := powM n384 s (n384 - 2) 384
     let q := mulPoint (d.toNat * i % n384) (r * i % n384) ⟨gx384, gy384, 1⟩ ⟨qx, qy, 1⟩ 384
     q.z != 0 && (q.x * powM p384 q.z (p384 - 3) 384 % p384) % n384 == r)

end Sys2Proof.Machine
end

