-- ==== Sys2Proof/Machine/WLoop.lean ====
section
/-! DEFINITION. Instructions that serve loops: WAIT, SAIL, TELL, the ROM primitives and RPT (R103, R106 to R117,
R193 to R195, R223 to R228, R268 to R271). -/

namespace Sys2Proof.Machine

/-! ### WAIT -/

/-- The busy descriptors of a wheel are its active records (R295): does one of them name the Service world? -/
def serviceActive (s : State) (x : Wheel) : Bool :=
  (List.range 64).any fun i =>
    (bitOf x.busyC i && bitOf (tget 0 s.excC i) 21) || (bitOf x.busyS i && bitOf (tget 0 s.excS i) 21)

/-- The exception 18 of the run that ends is discarded; those of pending wakes stay (R303). -/
def dropRun18 (l : List (W32 × W32 × Bool)) : List (W32 × W32 × Bool) := l.filter fun p => p.2.2

/-- The armed entries of a wheel whose entry point lies in the program store, with that line (R239). -/
def entryLines (s : State) (w : Nat) : List (Nat × Nat) :=
  (wakeKeys (getWheel s w)).filterMap fun e =>
    let n := getWake s w e
    let v := fw s w n.frame (if n.dir then 6 else 5)
    if n.en && v.tag == .code && cRegion v.val == 0 then some (e, lineOf v.val) else none

/-- The entry-line copies reloaded by the first WAIT after a FLUSH or a reset: the first line that fails its check
leaves its entry disarmed and stops the reload (R239, R241). -/
def reloadEntries (s : State) (w : Nat) : List (Nat × Nat) → State × Option Nat
  | [] => (modWheel s w fun x => { x with fetch := { x.fetch with reload := false } }, none)
  | (e, j) :: t =>
    if badLine s (millOf w) j then (modWake s w e fun n => { n with en := false }, some j)
    else
      let c := lineCopy s (millOf w) j
      reloadEntries (modWheel s w fun x => { x with fetch := { x.fetch with entry := tset none x.fetch.entry e (some c) } }) w t

/-- WAIT's own effect: records, floor and FEXIT discarded, the wheel parked, the next pending wake dispatched (R85,
R194, R303). -/
def waitPark (s : State) (w : Nat) : State :=
  let t := (getWheel s w).frm
  let s := traceRec s w 4 0 t
  let f (x : Wheel) : Wheel :=
    { x with active := none, busyC := 0, busyS := 0, asyC := 0, asyS := 0, fexitC := {}, exc18 := dropRun18 x.exc18 }
  dispatchNext (park (modWheel s w f) w) w

/-- WAIT (R194). -/
def execWait (w : WheelId) (s : State) : Out :=
  .next <| issue s w 0x02 [] fun s =>
    let x := getWheel s w
    if x.mode.world || x.mode.guard || serviceActive s x then .error (s, exc 6 (intW 0) 0x02)
    else if x.fetch.reload then
      match reloadEntries s w (entryLines s w) with
      | (s, some j) => .error (s, exc 14 (intW j) 0x02)
      | (s, none) => .ok (waitPark s w, .stop)
    else .ok (waitPark s w, .stop)

/-! ### SAIL -/

/-- The run after it has written a sail: in time only before its expiry (R96). -/
def noteWritten (x : Wheel) (j : Nat) : Wheel :=
  match x.run with
  | some r => if r.expired then x else { x with run := some { r with written := j :: r.written } }
  | none => x

def runTaken (x : Wheel) : List Nat :=
  match x.run with
  | some r => r.taken
  | none => []

/-- DWELL has begun during the run (R110). -/
def runCut (x : Wheel) : Bool :=
  match x.run with
  | some r => r.cut
  | none => false

/-- SAIL k on sail `j` with duty word `d`, after steps 1 to 5 of R178 (R103, R109, R110). A SAIL that writes the safe word for
POISON does not count as one that has written the sail in time: the spec does not say, and at expiry the sail takes its
overrun policy as well (log 89, DESIGN CHOICE). -/
def sailTo (s : State) (w op j : Nat) (d : TWord) : Res :=
  let x := getWheel s w
  if j = 0xFF ∨ ownsSail s w j = false then .error (s, exc 5 (intW j) op)
  else if (runTaken x).contains j || runCut x || (fsPair s w x.frm && fsX s w x.frm == 2) then
    .ok (modSail (modWheel s w fun x => popPush x 1 []) j fun y => { y with latecnt := satInc 0xFF y.latecnt }, .next)
  else if d.tag = .poison then
    let s := modSail (writeSafe s j) j fun y => { y with poisoned := true }
    .error (withdrawSail s j, exc 11 (intW j) op)
  else if d.tag ≠ .duty then .error (s, tagExc d.tag 0 op)
  else if fld d.val 25 1 = 1 ∨ fld d.val 26 2 = 3 then .error (s, exc 2 d op)
  else
    let s := traceRec (writeDuty s j d.val) w 1 j x.frm
    .ok (modWheel s w fun x => noteWritten (popPush x 1 []) j, .next)

/-- SAIL k ( d:DUTY — ) (R103). -/
def execSail (w : WheelId) (k : BitVec 2) (s : State) : Out :=
  let op := 0x328 + k.toNat
  .next <| issue s w op [] fun s =>
    let x := getWheel s w
    match depthExc x 1 1 0 op with
    | some e => .error (s, e)
    | none =>
      match readFrame s w op (if fsDir s w x.frm then 4 else 3) with
      | .error e => .error e
      | .ok (s, v) => sailTo s w op (fld v.val (8 * k.toNat) 8) (stkRd x 0)

/-! ### TELL -/

/-- The checks of TDEST at TELL, in the order of R115. -/
def tellExc (s : State) (x : Wheel) (d : TWord) (op : Nat) : Option Exc :=
  if d.tag ≠ .addr then some (tagExc d.tag 3 op)
  else
    let g := segOf s x (aSel d.val)
    if sgNull g then some (exc 4 d op)
    else if aOff d.val + 3 > sgLimit g then some (exc 4 d op)
    else if sgUser g = false ∧ x.mode.level = false then some (exc 6 (intW 0) op)
    else if sgSpace g ≠ 2 ∨ sgRd g = false ∨ sgWr g = false then some (exc 5 d op)
    else none

/-- Words 2 and 3 of a record: ring time (R114). -/
def tellTime (s : State) : List TWord :=
  [⟨.int, BitVec.ofNat 32 (fld s.ring_time.ns 0 32)⟩, ⟨.int, BitVec.ofNat 32 (fld s.ring_time.ns 32 32)⟩]

/-- The record of R114, stamped with ring time at its retirement. -/
def tellRec (s : State) (w : Nat) (x : Wheel) (d v : TWord) (n : Nat) : TellRec :=
  ⟨w, x.mode.world, !x.mode.level, (sgBase (segOf s x (aSel d.val)) + aOff d.val) % 0x400000, x.frm, n,
    [v, intW (n % 256 + x.frm % 16 * 0x100 + w * 0x1000 + x.tellSeq.toNat * 0x1000000)] ++ tellTime s⟩

def tellQueue (s : State) (w : Nat) : List TellRec := tget [] s.tail.queues w

/-- A record enters its wheel's queue, and the record sequence moves on (R114). -/
def tellPut (s : State) (w : Nat) (r : TellRec) : State :=
  let s := { s with tail := { s.tail with queues := tset [] s.tail.queues w (tellQueue s w ++ [r]) } }
  modWheel s w fun x => { popPush x 1 [] with tellSeq := x.tellSeq + 1 }

/-- TELL n ( x — ) (R114 to R117). -/
def execTell (w : WheelId) (n : BitVec 8) (s : State) : Out :=
  let op := 0x600 + n.toNat
  .next <| issue s w op [] fun s =>
    let x := getWheel s w
    match depthExc x 1 1 0 op with
    | some e => .error (s, e)
    | none =>
      match rsvExc op (tops x 1) with
      | some e => .error (s, e)
      | none =>
        let d := tget emptyW x.tdest x.frm
        match tellExc s x d op with
        | some e => .error (s, e)
        | none =>
          let r := tellRec s w x d (stkRd x 0) n.toNat
          if (tellQueue s w).length < 4 then .ok (tellPut s w r, .next)
          else .ok (modWheel s w fun x => { x with stall := .tellFull r, stallOp := BitVec.ofNat 14 op }, .stay)

/-! ### ROM primitives -/

/-- Frame words read in order: exception 15 for a word that cannot be corrected, exception 3 for one tagged Ch, Dh
or EMPTY (R145, R265, R331). -/
def readWords (s : State) (w op : Nat) : List Nat → Except (State × Exc) (State × List TWord)
  | [] => .ok (s, [])
  | i :: t =>
    match readFrame s w op i with
    | .error e => .error e
    | .ok (s, v) =>
      if isRsv v.tag || v.tag == .empty then .error (s, tagExc v.tag 3 op)
      else
        match readWords s w op t with
        | .error e => .error e
        | .ok (s, l) => .ok (s, v :: l)

/-- A primitive with `n` stack operands, TOS first, and the frame words `ws`: the order of R178 and R145; `tags` is
the tag check of R193; `law` answers the result and the frame words written. -/
def prim (s : State) (w op n : Nat) (ws : List Nat) (tags : List TWord → List TWord → Option Exc)
    (law : List TWord → List TWord → Except Exc (TWord × List (Nat × TWord))) : Res :=
  let x := getWheel s w
  match depthExc x n n 1 op with
  | some e => .error (s, e)
  | none =>
    let l := tops x n
    match badExc op l with
    | some e => .error (s, e)
    | none =>
      match readWords s w op ws with
      | .error e => .error e
      | .ok (s, f) =>
        match poisonOf (l ++ f) with
        | some p => .ok (modWheel s w fun x => popPush x n [⟨.poison, p.val⟩], .next)
        | none =>
          match tags l f with
          | some e => .error (s, e)
          | none =>
            match law l f with
            | .error e => .error (s, e)
            | .ok (r, wr) =>
              let s := modWheel s w fun x => popPush x n [r]
              .ok (wr.foldl (fun s p => setFw s w x.frm p.1 p.2) s, .next)

/-- The family of an operand has to be `f`. -/
def inFam (f : Fam) (v : TWord) : Bool := famOf v.tag == some f

/-- Every frame word satisfies its test, or exception 3 names the first that does not (R193). -/
def frameTags (op : Nat) (l : List (TWord × Bool)) : Option Exc :=
  (l.find? fun p => !p.2).map fun p => tagExc p.1.tag 3 op

def anyS (l : List TWord) : Bool := l.any fun v => isS v.tag

/-- SCALE and SCALEU on the value formed from the sample (R195). -/
def scaleLaw (v : Int) (f : List TWord) : TWord :=
  let g := nth emptyW f 0
  let o := nth emptyW f 1
  qRes .q31 (isS g.tag || isS o.tag) (rnd (v * g.val.toInt) 31 + o.val.toInt)

def scaleOp (s : State) (w op i : Nat) (val : W32 → Int) : State :=
  issue s w op [] fun s =>
    if i = 63 then .error (s, exc 2 (intW 0) op)
    else
      prim s w op 1 [i, i + 1]
        (fun l f =>
          if (nth emptyW l 0).tag ≠ .sample then some (tagExc (nth emptyW l 0).tag 0 op)
          else frameTags op (f.map fun v => (v, inFam .q31 v)))
        fun l f => .ok (scaleLaw (val (nth emptyW l 0).val) f, [])

/-- SCALE w: SAMPLE bits [15:0] signed, times 2^16 (R195). -/
def execScale (w : WheelId) (i : BitVec 6) (s : State) : Out :=
  .next (scaleOp s w (0x1000 + i.toNat) i.toNat fun v => (BitVec.ofNat 16 v.toNat).toInt * 0x10000)

/-- SCALEU w: SAMPLE bits [15:0] unsigned, times 2^15 (R195). -/
def execScaleu (w : WheelId) (i : BitVec 6) (s : State) : Out :=
  .next (scaleOp s w (0x1040 + i.toNat) i.toNat fun v => (fld v 0 16 : Int) * 0x8000)

/-- CLAMP's value (R195). -/
def clampVal (x lo hi : Int) : Int := if lo > hi then lo else if x > hi then hi else if x < lo then lo else x

/-- CLAMP w ( x — y ) (R195). -/
def execClamp (w : WheelId) (i : BitVec 6) (s : State) : Out :=
  let op := 0x1080 + i.toNat
  .next <| issue s w op [] fun s =>
    if i.toNat = 63 then .error (s, exc 2 (intW 0) op)
    else
      prim s w op 1 [i.toNat, i.toNat + 1]
        (fun l f =>
          let x := nth emptyW l 0
          match famOf x.tag with
          | some g => if isQ g then frameTags op (f.map fun v => (v, inFam g v)) else some (tagExc x.tag 0 op)
          | none => some (tagExc x.tag 0 op))
        fun l f =>
          let x := nth emptyW l 0
          let lo := nth emptyW f 0
          let hi := nth emptyW f 1
          .ok (⟨famTag ((famOf x.tag).getD .q31) (anyS [x, lo, hi]), w32 (clampVal x.val.toInt lo.val.toInt hi.val.toInt)⟩, [])

/-- The DUTY word of MKDUTY (R195). -/
def dutyOf (x ctl : W32) : W32 :=
  BitVec.ofNat 32 (fld ctl 0 8 * 0x1000000 + (if x.toInt ≤ 0 then 0 else fld x 7 24))

/-- MKDUTY w ( x — d:DUTY ) (R195). -/
def execMkduty (w : WheelId) (i : BitVec 6) (s : State) : Out :=
  let op := 0x10C0 + i.toNat
  .next <| issue s w op [] fun s =>
    prim s w op 1 [i.toNat]
      (fun l f =>
        if inFam .q31 (nth emptyW l 0) then frameTags op (f.map fun v => (v, v.tag == .int))
        else some (tagExc (nth emptyW l 0).tag 0 op))
      fun l f => .ok (⟨.duty, dutyOf (nth emptyW l 0).val (nth emptyW f 0).val⟩, [])

/-- An exact value saturated, with the mark that saturation sets (R268). -/
def satM (m : Bool) (v : Int) : Int × Bool := ((sat32 v).1, m || (sat32 v).2)

/-- A product with a gain of either Q family, rounded into Q31 and saturated (R268). -/
def gain (e : Int) (k : TWord) (m : Bool) : Int × Bool := satM m (rnd (e * k.val.toInt) (qBits ((famOf k.tag).getD .q31)))

/-- The limits and the integrator hold of R269: `u`, the integrator. -/
def limitLaw (e uraw icand integ umin umax : Int) : Int × Int :=
  if umin > umax then (umin, integ)
  else if uraw > umax then (umax, if e > 0 then integ else icand)
  else if uraw < umin then (umin, if e < 0 then integ else icand)
  else (uraw, icand)

def isGain (v : TWord) : Bool := inFam .q31 v || inFam .q16 v
def q31w (m : Bool) (v : Int) : TWord := ⟨famTag .q31 m, w32 v⟩

/-- The PI law (R269). -/
def piqLaw (b : Nat) (l f : List TWord) : TWord × List (Nat × TWord) :=
  let v (i : Nat) : Int := (nth emptyW f i).val.toInt
  let e := (nth emptyW l 0).val.toInt
  let m := anyS (l ++ f)
  let p := gain e (nth emptyW f 0) m
  let i := gain e (nth emptyW f 1) p.2
  let c := satM i.2 (v 4 + i.1)
  let u := satM c.2 (p.1 + c.1)
  let r := limitLaw e u.1 c.1 (v 4) (v 2) (v 3)
  (q31w u.2 r.1, [(12 + b, q31w u.2 r.2)])

/-- PIQ b ( e — u ) (R268, R269). -/
def execPiq (w : WheelId) (b : BitVec 3) (s : State) : Out :=
  let op := 0x1100 + b.toNat
  let k := b.toNat
  .next <| issue s w op [] fun s =>
    if k = 7 then .error (s, exc 2 (intW 0) op)
    else
      prim s w op 1 [32 + 4 * k, 33 + 4 * k, 34 + 4 * k, 35 + 4 * k, 12 + k]
        (fun l f =>
          if inFam .q31 (nth emptyW l 0) then
            frameTags op (f.zipIdx.map fun p => (p.1, if p.2 < 2 then isGain p.1 else inFam .q31 p.1))
          else some (tagExc (nth emptyW l 0).tag 0 op))
        fun l f => .ok (piqLaw k l f)

/-- The PID law (R270). -/
def pidqLaw (b : Nat) (l f : List TWord) : TWord × List (Nat × TWord) :=
  let v (i : Nat) : Int := (nth emptyW f i).val.toInt
  let e := (nth emptyW l 0).val.toInt
  let m := anyS (l ++ f)
  let d0 := satM m (e - v 8)
  let dd := gain d0.1 (nth emptyW f 2) d0.2
  let d1 := satM dd.2 (dd.1 - v 7)
  let d2 := gain d1.1 (nth emptyW f 3) d1.2
  let df := satM d2.2 (v 7 + d2.1)
  let p := gain e (nth emptyW f 0) df.2
  let i := gain e (nth emptyW f 1) p.2
  let c := satM i.2 (v 6 + i.1)
  let u := satM c.2 (p.1 + c.1 + df.1)
  let r := limitLaw e u.1 c.1 (v 6) (v 4) (v 5)
  (q31w u.2 r.1, [(12 + 3 * b, q31w u.2 r.2), (13 + 3 * b, q31w u.2 df.1), (14 + 3 * b, q31w u.2 e)])

/-- PIDQ b ( e — u ) (R268, R270). -/
def execPidq (w : WheelId) (b : BitVec 3) (s : State) : Out :=
  let op := 0x1108 + b.toNat
  let k := b.toNat
  .next <| issue s w op [] fun s =>
    if k ≥ 4 then .error (s, exc 2 (intW 0) op)
    else
      prim s w op 1 (((List.range 6).map fun i => 32 + 6 * k + i) ++ [12 + 3 * k, 13 + 3 * k, 14 + 3 * k])
        (fun l f =>
          if inFam .q31 (nth emptyW l 0) then
            frameTags op (f.zipIdx.map fun p => (p.1, if p.2 < 3 then isGain p.1 else inFam .q31 p.1))
          else some (tagExc (nth emptyW l 0).tag 0 op))
        fun l f => .ok (pidqLaw k l f)

/-- The slew law (R271). -/
def slewLaw (i : Nat) (l f : List TWord) : TWord × List (Nat × TWord) :=
  let y := (nth emptyW f 0).val.toInt
  let st := max 0 (nth emptyW f 1).val.toInt
  let d := satM (anyS (l ++ f)) ((nth emptyW l 0).val.toInt - y)
  let d1 := if d.1 > st then st else d.1
  let d2 := if d1 < -st then -st else d1
  let r := satM d.2 (y + d2)
  (q31w r.2 r.1, [(i, q31w r.2 r.1)])

/-- SLEW w ( x — y ) (R268, R271). -/
def execSlew (w : WheelId) (i : BitVec 6) (s : State) : Out :=
  let op := 0x1140 + i.toNat
  let k := i.toNat
  .next <| issue s w op [] fun s =>
    if k < 12 ∨ k > 31 then .error (s, exc 2 (intW 0) op)
    else
      prim s w op 1 [k, k + 20]
        (fun l f =>
          if inFam .q31 (nth emptyW l 0) then frameTags op (f.map fun v => (v, inFam .q31 v))
          else some (tagExc (nth emptyW l 0).tag 0 op))
        fun l f => .ok (slewLaw k l f)

/-- The target and the next XSTATE of CROSS (R107); 0 RUN, 1 RAMP, 2 DWELL, 3 DWELL pending. `out` is the output that
a target gives. -/
def crossNext (xstate : Nat) (agrees small : Bool) (req : Int) (out : Int → Int) : Int × Nat :=
  match xstate with
  | 0 => if agrees then (out req, 0) else (out 0, 1)
  | 1 => if agrees then (out req, 0) else if out 0 = 0 ∧ small then (out 0, 3) else (out 0, 1)
  | n => (out 0, n)

/-- The CROSS law (R106, R107) on XSLEW, XZERO, XDWELL, XOUT and FSTAT; operands are request (TOS) and measured. An XSLEW
below 0 acts as 0, as R271 says of SLEW (log 27, DEDUCED). -/
def crossLaw (l f : List TWord) : TWord × List (Nat × TWord) :=
  let req := (nth emptyW l 0).val.toInt
  let mea := (nth emptyW l 1).val.toInt
  let slew := max 0 (nth emptyW f 0).val.toInt
  let zero := (nth emptyW f 1).val.toInt
  let xout := (nth emptyW f 3).val.toInt
  let st := (nth emptyW f 4).val
  let b := bitOf st 3
  let agrees := decide (req = 0) || (if b then decide (req < 0) else decide (0 < req))
  let out (t : Int) : Int := if t - xout > slew then xout + slew else if t - xout < -slew then xout - slew else t
  let old := fld st 4 2
  let r := crossNext old agrees (decide ((mea.natAbs : Int) ≤ zero)) req out
  let runs := if r.2 = 1 then satInc 0x7F (if old = 0 then 0 else fld st 25 7) else fld st 25 7
  let y := q31w (anyS (l ++ f)) r.1
  (y, [(11, y), (0, ⟨.int, setFld (setFld st 4 2 r.2) 25 7 runs⟩)])

/-- CROSS ( m r — a ) (R106). -/
def execCross (w : WheelId) (s : State) : Out :=
  .next <| issue s w 0x05 [] fun s =>
    prim s w 0x05 2 [8, 9, 10, 11, 0]
      (fun l f =>
        if !inFam .q31 (nth emptyW l 0) then some (tagExc (nth emptyW l 0).tag 0 0x05)
        else if !inFam .q31 (nth emptyW l 1) then some (tagExc (nth emptyW l 1).tag 1 0x05)
        else frameTags 0x05 (f.zipIdx.map fun p => (p.1, if p.2 = 2 ∨ p.2 = 4 then p.1.tag == .int else inFam .q31 p.1)))
      fun l f => if bitOf (nth emptyW f 4).val 2 then .ok (crossLaw l f) else .error (exc 2 (intW 0) 0x05)

/-! ### RPT -/

/-- RPT n ( c:INT — ) (R223). -/
def execRpt (w : WheelId) (n : BitVec 6) (s : State) : Out :=
  let op := 0x1180 + n.toNat
  .next <| issue s w op [] fun s =>
    let x := getWheel s w
    match depthExc x 1 1 0 op with
    | some e => .error (s, e)
    | none =>
      let c := stkRd x 0
      if c.tag ≠ .int then .error (s, tagExc c.tag 0 op)
      else if cOff x.pc + n.toNat + 1 > regionEnd (cRegion x.pc) then .error (s, exc 4 ⟨.code, x.pc⟩ op)
      else if rptActive x then .error (s, exc 2 (intW 0) op)
      else if c.val.toInt ≤ 0 then .ok (modWheel s w fun x => popPush x 1 [], .jump (codeAdd x.pc (n.toNat + 2)))
      else
        let r : Rpt := ⟨BitVec.ofNat 32 (1 + n.toNat * 2), codeAdd x.pc 1, c.val⟩
        .ok (modWheel s w fun x => { popPush x 1 [] with rpt := r, fetch := newRep x.fetch r.start false }, .next)

/-- RPT_ITERATION_END (R224): the end of an iteration that the last body instruction's retirement has made due. -/
def execRptIterationEnd (w : WheelId) (s : State) : Out :=
  .next (modWheel s w fun x => iterationEnd (endRep x))

/-- MODE_CHANGE_EFFECT (R244): pending changes whose shadow has retired take effect. -/
def execModeChangeEffect (w : WheelId) (s : State) : Out := .next (modWheel s w applyDue)

end Sys2Proof.Machine
end

