-- ==== Sys2Proof/Machine/WMem.lean ====
section
/-! DEFINITION. LD, ST, LD2, ST2 (R167 to R169, R192) and the block instructions MOVE, FILL, SCAN and DOT
(R202 to R218). -/

namespace Sys2Proof.Machine

/-! ### Loads and stores -/

/-- A load's words pushed after checks 8 and 9. -/
def pushLoaded (s : State) (w op : Nat) (d : W64) (a : TWord) (l : List TWord) : Res :=
  match loadedExc (sgPtr d) a op l with
  | some e => .error (s, e)
  | none => .ok (modWheel s w fun x => popPush x 1 l, .next)

/-- A load from the scratchpad: exception 15 names the first word that cannot be corrected. -/
def loadSpad (s : State) (w op : Nat) (d : W64) (a : TWord) (n : Nat) : Res :=
  let ad (i : Nat) : Nat := (sgBase d + aOff a.val + i) % 0x8000
  let s1 := (List.range n).foldl (fun s i => noteRead s (.spad (Fin.ofNat 64 w)) (ad i)) s
  match (List.range n).find? fun i => (spadRead s w (ad i)).isNone with
  | some i => .error (s1, exc 15 (aAdd a i) op)
  | none => pushLoaded s1 w op d a ((List.range n).map fun i => spadWord s w (ad i))

/-- A load from the millpond: forwarded, held for a partial overlap, or stalled until its word returns (R127, R129, R326). -/
def loadMp (s : State) (w op : Nat) (d : W64) (a : TWord) (n : Nat) : Res :=
  let b := (getWheel s w).sbuf
  let ad := (sgBase d + aOff a.val) % 0x400000
  let c := (List.range n).map fun i => covered b (ad + i)
  let stall (t : Stall) : Res := .ok (modWheel s w fun x => { x with stall := t, stallOp := BitVec.ofNat 14 op }, .stay)
  if c.all (·.isSome) then pushLoaded s w op d a (c.filterMap fun o => o.map (·.2))
  else
    match c.filterMap fun o => o.map (·.1) with
    | [] => stall (.mpLoad ad n (sgPtr d) a none)
    | k :: _ => stall (.mpDrain (k + 1) ad n (sgPtr d) a)

/-- A load of `n` words (R167, R168). -/
def loadOp (s : State) (w op n : Nat) : State :=
  issue s w op [] fun s =>
    let x := getWheel s w
    match depthExc x 1 1 n op with
    | some e => .error (s, e)
    | none =>
      let a := stkRd x 0
      match accessExc s x a 0 n false op with
      | some e => .error (s, e)
      | none =>
        let d := segOf s x (aSel a.val)
        match oddExc d a n op with
        | some e => .error (s, e)
        | none =>
          match placeOf w d (aOff a.val) with
          | .spad _ => loadSpad s w op d a n
          | .mp _ => loadMp s w op d a n
          | .host _ =>
            .ok (modWheel s w fun x => { x with stall := .hostLoad a n, stallOp := BitVec.ofNat 14 op }, .stay)
          | .guard i =>
            let r0 := guardRead s i
            if n = 1 then pushLoaded r0.1 w op d a [r0.2]
            else
              let r1 := guardRead r0.1 (i + 1)
              pushLoaded r1.1 w op d a [r0.2, r1.2]

/-- A HOST store is posted in compat mode when the descriptor says so (R169). -/
def isPosted (x : Wheel) (d : W64) : Bool := x.mode.compat && sgPosted d

/-- A store of the words `vs` whose checks have passed; `pops` operands leave the stack when it retires. -/
def storeWords (s : State) (w op : Nat) (d : W64) (a : TWord) (vs : List TWord) (pops : Nat) : Res :=
  let x := getWheel s w
  let stall (t : Stall) : Res := .ok (modWheel s w fun x => { x with stall := t, stallOp := BitVec.ofNat 14 op }, .stay)
  match placeOf w d (aOff a.val) with
  | .spad _ =>
    .ok (vs.zipIdx.foldl (fun s p => spadWrite s w ((sgBase d + aOff a.val + p.2) % 0x8000) p.1)
      (modWheel s w fun x => popPush x pops []), .next)
  | .mp m =>
    let e : StoreEnt := ⟨m, vs, false⟩
    if x.sbuf.length < 4 then .ok (modWheel s w fun x => { popPush x pops [] with sbuf := x.sbuf ++ [e] }, .next)
    else stall (.storeFull e pops)
  | .host _ =>
    if isPosted x d then
      if x.posted.length < 4 then
        .ok (modWheel s w fun x => { popPush x pops [] with posted := x.posted ++ [(a, vs.map (·.val))] }, .next)
      else stall (.postFull a pops (vs.map (·.val)))
    else stall (.hostStore a pops (vs.map (·.val)))
  | .guard i => .ok (vs.zipIdx.foldl (fun s p => retWrite s (i + p.2) p.1) (modWheel s w fun x => popPush x pops []), .next)

/-- A store of `n` words: the data tags first, then R167's order; PTR is check 6 and alignment check 7. -/
def storeOp (s : State) (w op n : Nat) : State :=
  issue s w op [] fun s =>
    let x := getWheel s w
    match depthExc x (n + 1) (n + 1) 0 op with
    | some e => .error (s, e)
    | none =>
      let a := stkRd x 0
      let vs := ((List.range n).map fun i => stkRd x (n - i))
      match (tops x (n + 1)).zipIdx.find? fun p => p.2 != 0 && isRsv p.1.tag with
      | some p => .error (s, tagExc p.1.tag p.2 op)
      | none =>
        match accessExc s x a 0 n true op with
        | some e => .error (s, e)
        | none =>
          let d := segOf s x (aSel a.val)
          if !sgPtr d && vs.any fun v => isPtr v.tag then .error (s, exc 5 a op)
          else
            match oddExc d a n op with
            | some e => .error (s, e)
            | none => storeWords s w op d a vs (n + 1)

/-- LD ( a:ADDR — x ) (R192). -/
def execLd (w : WheelId) (s : State) : Out := .next (loadOp s w 0x60 1)

/-- ST ( x a:ADDR — ) (R192). -/
def execSt (w : WheelId) (s : State) : Out := .next (storeOp s w 0x61 1)

/-- LD2 ( a:ADDR — x0 x1 ) (R192). -/
def execLd2 (w : WheelId) (s : State) : Out := .next (loadOp s w 0x62 2)

/-- ST2 ( x0 x1 a:ADDR — ) (R192). -/
def execSt2 (w : WheelId) (s : State) : Out := .next (storeOp s w 0x63 2)

/-! ### Block instructions -/

/-- The four block instructions by BLK.CTL.OP (R211). -/
def opMove : Nat := 0
def opFill : Nat := 1
def opScan : Nat := 2
def opDot : Nat := 3

def bOp (b : Blk) : Nat := fld b.ctl 1 2
def bDesc (b : Blk) : Bool := bitOf b.ctl 3
def bCtl (b : Blk) (lo n v : Nat) : Blk := { b with ctl := setFld b.ctl lo n v }

/-- Does the instruction read a source run, a second source run, or write a destination run? -/
def hasSrc (o : Nat) : Bool := o != opFill
def hasDst (o : Nat) : Bool := o != opScan

/-- Checks 1 to 5 of R167 on the first and then on the last element of a run of `n` words from `a` (R204); `desc` for a run
that ends at `a`. An offset outside 0 to FFFFFFh raises exception 4 in its element's turn (log 111, DEDUCED). -/
def runExc (x : Wheel) (d : W64) (a : TWord) (n : Nat) (desc store : Bool) (op : Nat) : Option Exc :=
  let o : Int := aOff a.val
  let first := if desc then o - ((n : Int) - 1) else o
  let last := if desc then o else o + ((n : Int) - 1)
  if first < 0 then some (exc 4 a op)
  else
    match rightsExc x d a first store op with
    | some e => some e
    | none => if last > 0xFFFFFF then some (exc 4 a op) else rightsExc x d a last store op

/-- The setup checks of R204 over both runs, source first: the descriptors used, or the exception. A run of no words has no
first or last element, and passes (log 91, DESIGN CHOICE). -/
def setupChk (s : State) (x : Wheel) (o op n : Nat) (src dst : TWord) (desc : Bool) : Except Exc (W64 × W64) :=
  let d1 := if hasSrc o then segOf s x (aSel src.val) else 0
  let d2 := if hasDst o then segOf s x (aSel dst.val) else 0
  if n = 0 then .ok (d1, d2)
  else
    match (if hasSrc o then runExc x d1 src n desc false op else none) with
    | some e => .error e
    | none =>
      match (if hasDst o then runExc x d2 dst n desc (o != opDot) op else none) with
      | some e => .error e
      | none => .ok (d1, d2)

/-- MOVE copies downward when both runs overlap and the destination starts above the source (R206). -/
def moveDesc (w : Nat) (d1 d2 : W64) (src dst : TWord) (n : Nat) : Bool :=
  match placeOf w d1 (aOff src.val), placeOf w d2 (aOff dst.val) with
  | .spad a, .spad b => decide (a < b ∧ b < a + n)
  | .mp a, .mp b => decide (a < b ∧ b < a + n)
  | .guard a, .guard b => decide (a < b ∧ b < a + n)
  | .host a, .host b => decide (a < b ∧ b < a + n)
  | _, _ => false

/-- The tag checks of step 6 on a block instruction's operands (R144, R192, R208): TOS is n:INT, then the addresses. -/
def blkTags (o op : Nat) (l : List TWord) : Option Exc :=
  let t (i : Nat) : Tag := (nth emptyW l i).tag
  if t 0 ≠ .int then some (tagExc (t 0) 0 op)
  else if t 1 ≠ .addr then some (tagExc (t 1) 1 op)
  else if o = opMove ∨ o = opDot then (if t 2 ≠ .addr then some (tagExc (t 2) 2 op) else none)
  else if isRsv (t 2) then some (tagExc (t 2) 2 op)
  else if o = opScan ∧ (t 2 = .empty ∨ t 2 = .poison) then some (tagExc (t 2) 2 op)
  else none

/-- What one element step does. -/
inductive Elem where
  /-- the element is done; the block registers after it, and whether SCAN has matched -/
  | done (s : State) (hit : Bool)
  /-- the store buffer or the posted stores are full: the element `u` waits -/
  | full (s : State) (u : TWord)
  /-- a host access has gone out, or a millpond element is asked for -/
  | wait (s : State) (t : Stall)
  | fail (s : State) (e : Exc)

/-- One source element. -/
inductive Src where
  | val (s : State) (v : TWord)
  | host (s : State)
  | mp (s : State) (a : Nat)
  | fail (s : State) (e : Exc)

/-- A source element read by a block instruction: at once in the scratchpad and where the wheel's own store buffer covers it;
a millpond word has to be granted and to return (R205, R217, R219, R323, R331). -/
def readElem (s : State) (w op : Nat) (d : W64) (a : TWord) : Src :=
  match placeOf w d (aOff a.val) with
  | .spad i =>
    let s1 := noteRead s (.spad (Fin.ofNat 64 w)) i
    match spadRead s w i with
    | some v => .val s1 v
    | none => .fail s1 (exc 15 a op)
  | .mp i =>
    match covered (getWheel s w).sbuf i with
    | some (_, v) => .val s v
    | none => .mp s i
  | .host _ => .host s
  | .guard i =>
    let r := guardRead s i
    .val r.1 r.2

/-- The registers after an element: addresses move on, REM falls, DONE rises (R211). -/
def advance (b : Blk) : Blk :=
  let k : Int := if bDesc b then -1 else 1
  let o := bOp b
  { b with src := if hasSrc o then aAdd b.src k else b.src, dst := if hasDst o then aAdd b.dst k else b.dst,
           rem := b.rem - 1, done := b.done + 1 }

def setBlk (s : State) (w : Nat) (b : Blk) : State := modWheel s w fun x => { x with blk := b }

/-- An element stored by MOVE or FILL. -/
def writeElem (s : State) (w : Nat) (d : W64) (b : Blk) (v : TWord) : Elem :=
  let x := getWheel s w
  match placeOf w d (aOff b.dst.val) with
  | .spad i => .done (setBlk (spadWrite s w i v) w (advance b)) false
  | .mp i =>
    if x.sbuf.length < 4 then
      .done (setBlk (modWheel s w fun x => { x with sbuf := x.sbuf ++ [⟨i, [v], false⟩] }) w (advance b)) false
    else .full s v
  | .host _ =>
    if isPosted x d then
      if x.posted.length < 4 then
        .done (setBlk (modWheel s w fun x => { x with posted := x.posted ++ [(b.dst, [v.val])] }) w (advance b)) false
      else .full s v
    else .wait s (.blkWrite b.dst v.val)
  | .guard i => .done (setBlk (retWrite s i v) w (advance b)) false

/-- DOT's family code in BLK.CTL.FAM. -/
def famCode : Fam → Nat
  | .int => 0 | .q31 => 1 | .q16 => 2 | .f32 => 3
def famOfCode (n : Nat) : Fam := if n = 0 then .int else if n = 1 then .q31 else if n = 2 then .q16 else .f32

/-- An exact product added to the accumulator (R209). -/
def dotAcc (f : Fam) (acc : BitVec 96) (a b : W32) : BitVec 96 :=
  match f with
  | .int => BitVec.ofNat 96 ((BitVec.ofNat 32 acc.toNat + a * b).toNat)
  | .f32 => BitVec.ofNat 96 ((fAdd (BitVec.ofNat 32 acc.toNat) (fMul a b)).toNat)
  | _ => acc + BitVec.ofInt 96 (a.toInt * b.toInt)

/-- DOT's result (R209, R210). -/
def dotRes (b : Blk) : TWord :=
  if bitOf b.ctl 8 then ⟨.poison, b.x.val⟩
  else
    let f := famOfCode (fld b.ctl 4 2)
    match f with
    | .int => ⟨.int, BitVec.ofNat 32 b.acc.toNat⟩
    | .f32 => ⟨.f32, BitVec.ofNat 32 b.acc.toNat⟩
    | _ => qRes f (bitOf b.ctl 7) (rnd b.acc.toInt (qBits f))

/-- One pair of DOT (R205, R209, R210); `u` is the va element and `v` the vb element. -/
def dotElem (s : State) (w op : Nat) (b : Blk) (u v : TWord) : Elem :=
  let bad (p : TWord) : Bool := isRsv p.tag || p.tag == .empty
  if bad u then .fail s (tagExc u.tag 5 op)
  else if bad v then .fail s (tagExc v.tag 5 op)
  else
    -- the family comes from va element 0, or from vb element 0 when that is POISON
    let b := if b.done = 0 ∧ bitOf b.ctl 6 = false then
        match famOf u.tag, famOf v.tag with
        | some f, _ => bCtl (bCtl b 4 2 (famCode f)) 6 1 1
        | none, some f => if u.tag = .poison then bCtl (bCtl b 4 2 (famCode f)) 6 1 1 else b
        | none, none => b
      else b
    let fixed := bitOf b.ctl 6
    let f := famOfCode (fld b.ctl 4 2)
    let out (p : TWord) : Bool := p.tag != .poison && (if fixed then famOf p.tag != some f else b.done == 0)
    if out u then .fail s (tagExc u.tag 5 op)
    else if out v then .fail s (tagExc v.tag 5 op)
    else
      let psn := bitOf b.ctl 8
      let b := if !psn && (u.tag == .poison || v.tag == .poison)
        then { bCtl b 8 1 1 with x := if u.tag = .poison then u else v } else b
      let b := if isS u.tag || isS v.tag then bCtl b 7 1 1 else b
      let b := if bitOf b.ctl 8 then b else { b with acc := dotAcc f b.acc u.val v.val }
      .done (setBlk s w (advance b)) false

/-- An element with its source words at hand. -/
def doElem (s : State) (w op : Nat) (d2 : W64) (b : Blk) (u v : TWord) : Elem :=
  let o := bOp b
  if o = opDot then dotElem s w op b u v
  else if o = opScan then
    if isRsv u.tag || u.tag == .empty then .fail s (tagExc u.tag 5 op)
    else if u.tag ≠ .poison ∧ u = b.x then .done s true
    else .done (setBlk s w (advance b)) false
  else writeElem s w d2 b u

/-- MOVE's checks on the word it moves (R205). -/
def moveExc (op : Nat) (d1 d2 : W64) (b : Blk) (u : TWord) : Option Exc :=
  if isRsv u.tag then some (tagExc u.tag 5 op)
  else if isPtr u.tag ∧ sgPtr d1 = false then some (exc 5 b.src op)
  else if isPtr u.tag ∧ sgPtr d2 = false then some (exc 5 b.dst op)
  else none

/-- A source word that has been answered, or the element read. -/
def srcOr (s : State) (w op : Nat) (d : W64) (a : TWord) : Option TWord → Src
  | some u => .val s u
  | none => readElem s w op d a

/-- The next element: its source words read, or answered before, and its work. DOT reads both its words before it checks the tag
of either (log 91, DESIGN CHOICE). -/
def elemStep (s : State) (w op : Nat) (d1 d2 : W64) (b : Blk) (u? v? : Option TWord) : Elem :=
  let o := bOp b
  if o = opFill then writeElem s w d2 b b.x
  else
    match srcOr s w op d1 b.src u? with
    | .fail s e => .fail s e
    | .host s => .wait s (.blkRead false emptyW b.src)
    | .mp s i => .wait s (.blkMp false emptyW b.src i none)
    | .val s u =>
      if o = opDot then
        match srcOr s w op d2 b.dst v? with
        | .fail s e => .fail s e
        | .host s => .wait s (.blkRead true u b.dst)
        | .mp s i => .wait s (.blkMp true u b.dst i none)
        | .val s v => doElem s w op d2 b u v
      else
        match (if o = opMove then moveExc op d1 d2 b u else none) with
        | some e => .fail s e
        | none => doElem s w op d2 b u emptyW

/-- The instruction completes: its result is pushed and ACTIVE clears. -/
def blkFinish (s : State) (w : Nat) (hit : Bool) : State :=
  modWheel s w fun x =>
    let b := x.blk
    let y := { x with blk := bCtl b 0 1 0, blkSeg := none }
    if bOp b = opScan then popPush y 0 [if hit then ⟨.int, b.done⟩ else ⟨.int, 0xFFFFFFFF⟩]
    else if bOp b = opDot then popPush y 0 [dotRes b]
    else y

/-- Up to `k` steps of the block instruction in progress; `u?` and `v?` are source words that have been answered, `host` by the
host. -/
def blkSteps (s : State) (w op : Nat) (d1 d2 : W64) (host : Bool) : Nat → Option TWord → Option TWord → Res
  | k, u?, v? =>
    if (getWheel s w).blk.rem = 0 then .ok (blkFinish s w false, .next)
    else
      match k with
      | 0 => .ok (s, .stay)
      | k + 1 =>
        match elemStep s w op d1 d2 (getWheel s w).blk u? v? with
        | .fail s e => .error (s, e)
        | .full s u => .ok (modWheel s w fun x => { x with stall := .blkFull u host, stallOp := BitVec.ofNat 14 op }, .stay)
        | .wait s t => .ok (modWheel s w fun x => { x with stall := t, stallOp := BitVec.ofNat 14 op }, .stay)
        | .done s true => .ok (blkFinish s w true, .next)
        | .done s false => blkSteps s w op d1 d2 false k none none

/-- The checks of a resume (R213, R214): reserved control bits, the tags of the address registers that the operation uses (the
other holds INT 0; log 91, DESIGN CHOICE), then R204 over the rest; a run of no words has nothing to check. -/
def resumeChk (s : State) (x : Wheel) (op : Nat) : Except Exc (W64 × W64) :=
  let b := x.blk
  let o := bOp b
  if fld b.ctl 9 23 ≠ 0 ∨ (bDesc b = true ∧ o ≠ opMove) then .error (exc 2 (intW 0) op)
  else if hasSrc o = true ∧ b.src.tag ≠ .addr then .error (tagExc b.src.tag 5 op)
  else if hasDst o = true ∧ b.dst.tag ≠ .addr then .error (tagExc b.dst.tag 5 op)
  else
    match setupChk s x o op b.rem.toNat b.src b.dst (bDesc b) with
    | .error e => .error e
    | .ok d =>
      if o = opFill ∧ b.rem ≠ 0 ∧ isPtr b.x.tag = true ∧ sgPtr d.2 = false then .error (exc 5 b.dst op) else .ok d

/-- The descriptors of an instruction that was not interrupted, else those of a resume (R216). -/
def segsOf (s : State) (x : Wheel) (op : Nat) : Except Exc (W64 × W64) :=
  match x.blkSeg with
  | some d => .ok d
  | none => resumeChk s x op

/-- The block registers that setup fills from the operands (R202, R206). -/
def setupBlk (w o n : Nat) (d : W64 × W64) (l : List TWord) : Blk :=
  let a1 := nth emptyW l 1
  let a2 := nth emptyW l 2
  let src := if o = opScan then a1 else a2
  let dst := a1
  let desc := o == opMove && moveDesc w d.1 d.2 src dst n
  let k : Int := if desc then (n : Int) - 1 else 0
  let z : TWord := ⟨.int, 0⟩
  { ctl := BitVec.ofNat 32 (1 + o * 2 + b2n desc * 8),
    src := if hasSrc o then aAdd src k else z, dst := if hasDst o then aAdd dst k else z,
    rem := BitVec.ofNat 32 n, done := 0, x := if o = opFill ∨ o = opScan then a2 else z, acc := 0 }

/-- A block instruction issues: it resumes the one in progress, or sets up a new one, and runs up to `steps` steps
before its next boundary (R202 to R205, R212, R213, R216). -/
def blockOp (s : State) (w o steps : Nat) : State :=
  let op := 0x80 + o
  issue s w op [] fun s =>
    let x := getWheel s w
    if resumes x op then
      let push := if o = opScan ∨ o = opDot then 1 else 0
      match depthExc x 0 0 push op with
      | some e => .error (s, e)
      | none =>
        match segsOf s x op with
        | .error e => .error (s, e)
        | .ok d => blkSteps (modWheel s w fun x => { x with blkSeg := some d }) w op d.1 d.2 false steps none none
    else
      let l := tops x 3
      let push := if o = opScan ∨ o = opDot then 1 else 0
      match depthExc x 3 3 push op with
      | some e => .error (s, e)
      | none =>
        match blkTags o op l with
        | some e => .error (s, e)
        | none =>
          let nw := nth emptyW l 0
          if nw.val.toInt < 0 ∨ (o = opDot ∧ nw.val = 0) then .error (s, exc 2 nw op)
          else
            let n := nw.val.toNat
            let a1 := nth emptyW l 1
            let a2 := nth emptyW l 2
            match setupChk s x o op n (if o = opScan then a1 else a2) a1 false with
            | .error e => .error (s, e)
            | .ok d =>
              if o = opFill ∧ n ≠ 0 ∧ isPtr a2.tag = true ∧ sgPtr d.2 = false then .error (s, exc 5 a1 op)
              else
                let s1 := modWheel s w fun x => { popPush x 3 [] with blk := setupBlk w o n d l, blkSeg := some d }
                blkSteps s1 w op d.1 d.2 false steps none none

/-- MOVE ( src dst n — ) (R206). -/
def execMove (w : WheelId) (steps : Nat) (s : State) : Out := .next (blockOp s w opMove steps)

/-- FILL ( x dst n — ) (R207). -/
def execFill (w : WheelId) (steps : Nat) (s : State) : Out := .next (blockOp s w opFill steps)

/-- SCAN ( x src n — i ) (R208). -/
def execScan (w : WheelId) (steps : Nat) (s : State) : Out := .next (blockOp s w opScan steps)

/-- DOT ( va vb n — acc ) (R209, R210). -/
def execDot (w : WheelId) (steps : Nat) (s : State) : Out := .next (blockOp s w opDot steps)

end Sys2Proof.Machine
end

