-- ==== Sys2Proof/Machine/Except.lean ====
section
/-! DEFINITION. Taking an exception and returning from one: descriptors (R287 to R289), the choice at a boundary
(R293 to R295), entry and its record (R296 to R299), the guard handler (R309 to R314), and RTE (R300, R301, R313). -/

namespace Sys2Proof.Machine

/-! ### Descriptors -/

def dOffset (d : W64) : Nat := fld d 0 18
def dRegion (d : W64) : Nat := fld d 18 2
def dValid (d : W64) : Bool := bitOf d 20
def dWorld (d : W64) : Bool := bitOf d 21
def dLevel (d : W64) : Bool := bitOf d 22
def dTchk (d : W64) : Bool := bitOf d 23
def dCompat (d : W64) : Bool := bitOf d 24
def dPri (d : W64) : Nat := fld d 25 3
def dRetmask (d : W64) : Nat := fld d 28 4
def dStack (d : W64) : Nat := fld d 32 8

/-- The descriptor that a table world and an index name (R287). -/
def descr (s : State) (r : DRef) : W64 := tget 0 (if r.world then s.excS else s.excC) r.idx

def isBusy (x : Wheel) (r : DRef) : Bool := bitOf (if r.world then x.busyS else x.busyC) r.idx
def setBusy (x : Wheel) (r : DRef) (b asy : Bool) : Wheel :=
  let m : W64 := 1#64 <<< r.idx
  let u (v : W64) (on : Bool) : W64 := if on then v ||| m else v &&& ~~~ m
  if r.world then { x with busyS := u x.busyS b, asyS := u x.asyS (b && asy) }
  else { x with busyC := u x.busyC b, asyC := u x.asyC (b && asy) }

/-- The current priority (R294). -/
def curPri (s : State) (x : Wheel) : Nat :=
  match x.active with
  | none => 0
  | some r => if bitOf (if r.world then x.asyS else x.asyC) r.idx then 8 else dPri (descr s r)

/-! ### The saved state (R298, R299) -/

/-- MODE, P1 and P2 in record word 1. -/
def recMode (x : Wheel) : Nat :=
  let ch (c : ModeChg) : Nat := b2n c.level + 2 * b2n c.tchk + 4 * b2n c.compat
  modeView x +
    (match x.pend with
     | [] => 0
     | [a] => ch a * 0x100
     | a :: b :: _ => ch a * 0x100 + 0x800 + ch b * 0x1000 + b.cnt % 4 * 0x8000)

def recStk (x : Wheel) : Nat :=
  x.rstack.length + x.csd * 0x80 + x.ssd * 0x4000 + x.frm * 0x200000

/-- The 24 words of a record: the wheel's state, CAUSE, INFO, INFO2, GACT. -/
def recordOf (x : Wheel) (parked : Bool) (cause : Nat) (info info2 : TWord) (gact : Nat) : List TWord :=
  let z := intW 0
  let head := if parked then [z, z, z, intW 0x2000000]
    else [⟨.code, x.pc⟩, intW (recMode x), intW (x.vb + x.sd * 0x2000 + x.floor * 0x80000), intW (recStk x)]
  let prev := match x.active with
    | none => 0
    | some r => r.idx + 0x40 * b2n r.world + 0x80
  let b := x.blk
  let blk := if blkActive x then
      [⟨.int, b.ctl⟩, b.src, b.dst, ⟨.int, b.rem⟩, ⟨.int, b.done⟩, b.x, ⟨.int, BitVec.ofNat 32 (fld b.acc 0 32)⟩,
       ⟨.int, BitVec.ofNat 32 (fld b.acc 32 32)⟩, ⟨.int, BitVec.ofNat 32 (fld b.acc 64 32)⟩]
    else List.replicate 9 z
  let rpt := if rptActive x then [⟨.int, x.rpt.ctl⟩, ⟨.code, x.rpt.start⟩, ⟨.int, x.rpt.cnt⟩] else [z, z, z]
  head ++ [intW cause, info, info2, intW prev] ++ blk ++ rpt ++ [intW gact, z, z, z]

/-- CAUSE (R299). -/
def causeWord (num cls reason : Nat) (r : DRef) : Nat :=
  num + cls * 0x40 + reason * 0x100 + r.idx * 0x4000 + 0x100000 * b2n r.world

/-! ### The guard handler -/

/-- A lock-up: the wheel issues nothing more and raises the lock-up source (R314). -/
def lockUp (s : State) (w : Nat) : State :=
  let s := modWheel s w fun x => { x with lockup := true, fault := none, faultParked := false }
  let s := traceRec s w 7 0 0
  let s := logEntry s 3 0 w (millOf w) (retVal s (0x18 * w + 4))
  withdrawWheel (raiseWheelReset s 9 (mapLevel s 21) w) w

/-- Guard entry (R310): the record to retained memory, the guard bank, and the guard entry point. -/
def guardEntry (s : State) (w num reason : Nat) (r : DRef) (parked : Bool) (info info2 : TWord) : State :=
  let x := getWheel s w
  let cause := causeWord num 3 reason r
  let s := (recordOf x parked cause info info2 1).zipIdx.foldl (fun s p => retWrite s (0x18 * w + p.2) p.1) s
  let s := modWheel (landWant s w) w fun x =>
    let y := emptyLocals { x with mode := { x.mode with guard := true }, gsd := 0 } 0
    { y with mode := { world := x.mode.world, level := true, guard := true }, pend := [], blk := {}, blkSeg := none,
             rpt := {}, iterEnd := false, floor := x.rstack.length, parked := false, fault := none, faultParked := false,
             pc := mkCode 2 (millOf w) 0, fresh := true, guardSeen := true, fetch := { x.fetch with next := [] } }
  let s := traceRec s w 6 num 0
  withdrawWheel (logEntry s 2 0 w (millOf w) cause) w

/-! ### Entry -/

/-- What a wheel takes at a boundary: number, class, table world, INFO, INFO2. -/
structure Taken where
  num : Nat
  cls : Nat
  world : Bool
  info : TWord
  info2 : TWord
  deriving DecidableEq, Repr

/-- The wheel's exception, its source removed. -/
def takeFault (x : Wheel) : Option (Taken × Wheel) :=
  x.fault.map fun e =>
    let wld := if e.num = 12 then true else if x.faultParked then false else x.mode.world
    (⟨e.num, 0, wld, e.info, e.info2⟩, { x with fault := none })

/-- Asynchronous faults 18, 17 and 12, in that order (R294). That of a pending wake is taken before its run, on the parked wheel
(R98, R99). -/
def takeAsync (s : State) (x : Wheel) : Option (Taken × Wheel) :=
  if curPri s x ≥ 8 then none
  else
    match x.exc18.find? fun p => x.parked || !p.2.2 with
    | some p =>
      if isBusy x ⟨18, false⟩ then none
      else some (⟨18, 1, false, ⟨.int, p.1⟩, ⟨.int, p.2.1⟩⟩, { x with exc18 := x.exc18.erase p })
    | none => none

def take17 (s : State) (x : Wheel) : Option (Taken × Wheel) :=
  if curPri s x < 8 ∧ x.exc17 = true ∧ isBusy x ⟨17, true⟩ = false then
    some (⟨17, 1, true, intW 0, intW 0⟩, { x with exc17 := false })
  else none

def take12 (s : State) (x : Wheel) : Option (Taken × Wheel) :=
  if curPri s x < 8 ∧ x.mode.world = true ∧ isBusy x ⟨12, true⟩ = false then
    match x.exc12 with
    | (a, v) :: t => some (⟨12, 1, true, a, ⟨.int, v⟩⟩, { x with exc12 := t })
    | [] => none
  else none

/-- The table of event `e` (R289, R290). -/
def evWorld (x : Wheel) (e : Nat) : Bool := bitOf x.evcfg e

/-- The pending event that goes first: highest PRI above the current priority, then lowest number (R294). -/
def bestEvent (s : State) (x : Wheel) : Option Nat :=
  (List.range 17).foldl (fun best k =>
    let e := 32 + k
    let r : DRef := ⟨e, evWorld x e⟩
    let p := dPri (descr s r)
    if (tget none x.events e).isSome && !isBusy x r && decide (p > curPri s x) then
      match best with
      | none => some e
      | some b => if p > dPri (descr s ⟨b, evWorld x b⟩) then some e else best
    else best) none

def takeEvent (s : State) (x : Wheel) : Option (Taken × Wheel) :=
  match bestEvent s x with
  | none => none
  | some e =>
    match tget none x.events e with
    | none => none
    | some f => some (⟨e, 2, evWorld x e, ⟨.int, f.info⟩, intW f.merged.toNat⟩, { x with events := tset none x.events e none })

/-- The one exception that the wheel takes at this boundary (R294); in the guard handler only its own fault. -/
def choose (s : State) (x : Wheel) : Option (Taken × Wheel) :=
  match takeFault x with
  | some r => some r
  | none =>
    if x.mode.guard ∨ x.fresh then none
    else
      match takeAsync s x with
      | some r => some r
      | none =>
        match take17 s x with
        | some r => some r
        | none =>
          match take12 s x with
          | some r => some r
          | none => takeEvent s x

/-- The checks of R296 in order: the reason code of the first that fails. -/
def entryReason (s : State) (x : Wheel) (r : DRef) (cls vb sd : Nat) : Option Nat :=
  let d := descr s r
  let g := segEnt s (dWorld d) (dStack d)
  if dValid d = false then some 1
  else if cls = 0 ∧ isBusy x r = true then some 5
  else if dRegion d ≥ 2 ∨ fld d 40 24 ≠ 0 ∨ dOffset d > regionEnd (dRegion d) then some 2
  else if sgSpace g ≠ 1 ∨ sgRd g = false ∨ sgWr g = false ∨ sgPtr g = false ∨ sgLimit g < 0x17 then some 3
  else if vb + 32 + sd + 64 > 4608 then some 4
  else none

/-- Entry through a descriptor whose checks pass (R297). -/
def enterHandler (s : State) (w : Nat) (t : Taken) (parked : Bool) : State :=
  let x := getWheel s w
  let r : DRef := ⟨t.num, t.world⟩
  let d := descr s r
  let base := sgBase (segEnt s (dWorld d) (dStack d))
  let words := recordOf x parked (causeWord t.num t.cls 0 r) t.info t.info2 0
  let s := modWheel s w fun x =>
    let y := if parked then { x with vb := 0, rf := 0, sd := 0, parked := false } else x
    windowUp y (32 + y.sd)
  let s := words.zipIdx.foldl (fun s p => spadWrite s w ((base + p.2) % 0x8000) p.1) s
  let s := modWheel (landWant s w) w fun x =>
    let c := mkCode (dRegion d) (millOf w) (dOffset d)
    let y := setBusy x r true (t.cls == 1)
    let m : Mode := { world := dWorld d, level := dLevel d, tchk := dTchk d, compat := dCompat d }
    let y := { y with active := some r, floor := x.rstack.length, blk := {}, blkSeg := none, rpt := {}, iterEnd := false,
                      pend := [], mode := m, sd := 0, fresh := true, faultParked := false, pc := c,
                      fetch := { entryFetch x c with next := [] } }
    emptyLocals y 0
  traceRec s w 2 t.num 0

/-- The wheel is at a boundary as far as its instruction goes: none is waiting, or a block instruction waits between two steps
for a millpond element or for room in the store buffer; such a read is discarded (R212, R221). An element that a host answer
gave is stored before the next boundary (log 90, DESIGN CHOICE). -/
def atStep : Stall → Bool
  | .none => true
  | .blkMp _ _ _ _ _ => true
  | .blkFull _ host => !host
  | _ => false

/-- EXCEPTION_ENTRY: at a boundary the wheel takes one exception (R293 to R297, R309, R314). -/
def execExceptionEntry (w : WheelId) (s : State) : Out :=
  let s1 := settle s w
  let x := getWheel s1 w
  if wheelLive s1 w && !x.halted && atStep x.stall then
    match choose s1 x with
    | none => .next s
    | some (t, y) =>
      let s2 := setWheel s1 w { y with stall := .none }
      if y.mode.guard then .next (lockUp s2 w)
      else
        let parked := x.parked || x.faultParked
        let vb := if parked then 0 else y.vb
        let sd := if parked then 0 else y.sd
        match entryReason s2 y ⟨t.num, t.world⟩ t.cls vb sd with
        | some k => .next (guardEntry s2 w t.num k ⟨t.num, t.world⟩ parked t.info t.info2)
        | none => .next (enterHandler s2 w t parked)
  else .next s

/-! ### Return -/

/-- Field `n` bits at `lo` of a record word. -/
def rf (l : List TWord) (i lo n : Nat) : Nat := fld (nth emptyW l i).val lo n

/-- The record asks for a parked wheel. -/
def recParked (l : List TWord) : Bool := rf l 3 25 1 == 1

/-- Has record word `i` a tag that R298 gives it? -/
def recTagOk (l : List TWord) (i : Nat) : Bool :=
  let t := (nth emptyW l i).tag
  if i = 0 then (if recParked l then t == .int else t == .code)
  else if i = 5 ∨ i = 9 ∨ i = 10 ∨ i = 13 then !isRsv t
  else if i = 18 then (if rf l 17 0 1 = 1 then t == .code else t == .int)
  else t == .int

/-- Reserved bits of the record, and the relations of R300 order 7 that rest on the record alone; `guard` for a guard
record. -/
def recMalformed (x : Wheel) (w : Nat) (l : List TWord) (guard : Bool) : Bool :=
  let pk' := recParked l
  let mp := rf l 1 5 1 == 1
  let p2 := rf l 1 11 1 == 1
  let badCnt (n : Nat) : Bool := n == 0 || n == 3
  !((List.range 24).all fun i => recTagOk l i) ||
  rf l 1 17 15 != 0 || rf l 2 26 6 != 0 || rf l 3 26 6 != 0 || rf l 4 21 11 != 0 || rf l 7 8 24 != 0 ||
  (!guard && (rf l 4 8 6 != 0 || rf l 20 0 32 != 0)) || rf l 21 0 32 != 0 || rf l 22 0 32 != 0 || rf l 23 0 32 != 0 ||
  decide (rf l 2 13 6 > 32) ||
  (!pk' && (xferExc { x with mode := { x.mode with guard := false } } w (nth emptyW l 0).val).isSome) ||
  (p2 && !mp) || (mp && badCnt (rf l 1 6 2)) || (p2 && badCnt (rf l 1 15 2)) || decide (rf l 2 19 7 > rf l 3 0 7) ||
  (pk' && (rf l 1 0 32 != 0 || rf l 2 0 32 != 0 || rf l 3 0 25 != 0 || rf l 0 0 32 != 0)) ||
  rf l 17 7 25 != 0 ||
  (rf l 17 0 1 == 1 && (xferExc { x with mode := { x.mode with guard := false } } w (nth emptyW l 18).val).isSome)

/-- The pending change of three bits could be made by SETMODE from the saved mode (R172, R300 order 8). -/
def chgOk (mode p : Nat) : Bool :=
  mode / 2 % 2 == 1 || (p % 2 == 0 && p / 4 % 2 == mode / 8 % 2)

/-- R300 order 8. -/
def recForbidden (d : W64) (l : List TWord) : Bool :=
  let m := if recParked l then 0 else rf l 1 0 8
  dRetmask d / 2 ^ (m % 4 / 2 + m % 2 * 2) % 2 == 0 || m / 16 % 2 == 1 ||
  (m / 32 % 2 == 1 && !chgOk m (rf l 1 8 3)) || (rf l 1 11 1 == 1 && !chgOk m (rf l 1 12 3))

/-- Orders 1 to 5 of R300: the precise exception raised at RTE. With WIN or STK uncorrectable, orders 4 and 5 are not made, and
RTE escalates under order 6. -/
def rteExc (s : State) (x : Wheel) (l : List (Option TWord)) (op : Nat) : Option Exc :=
  match x.active with
  | none => if x.pend.isEmpty then some (exc 6 (intW 0) op) else some (exc 2 (intW 0) op)
  | some r =>
    let v (i lo n : Nat) : Option Nat := (nth none l i).map fun t => fld t.val lo n
    let ne (o : Option Nat) (k : Nat) : Bool := match o with
      | some n => n != k
      | none => false
    if !x.pend.isEmpty then some (exc 2 (intW 0) op)
    else if x.mode.world != dWorld (descr s r) then some (exc 6 (intW 0) op)
    else if (if x.mode.world then x.fexitS else x.fexitC).valid then some (exc 2 (intW 0) op)
    else if (nth none l 2).isNone || (nth none l 3).isNone then none
    else if (match v 2 0 13, v 2 13 6 with
             | some a, some b => x.vb != a + 32 + b
             | _, _ => false) then some (exc 2 (intW 0) op)
    else if ne (v 3 0 7) x.rstack.length || ne (v 3 7 7) x.csd || ne (v 3 14 7) x.ssd then some (exc 7 (intW 0) op)
    else none

/-- The pending changes that a record holds (R299). -/
def recPend (l : List TWord) : List ModeChg :=
  let c (lo cnt : Nat) : ModeChg := ⟨rf l 1 lo 1 == 1, rf l 1 (lo + 1) 1 == 1, rf l 1 (lo + 2) 1 == 1, cnt⟩
  if rf l 1 5 1 = 1 then
    if rf l 1 11 1 = 1 then [c 8 (rf l 1 6 2), c 12 (rf l 1 15 2)] else [c 8 (rf l 1 6 2)]
  else []

def recModeOf (l : List TWord) : Mode :=
  ⟨rf l 1 0 1 == 1, rf l 1 1 1 == 1, rf l 1 2 1 == 1, rf l 1 3 1 == 1, false⟩

/-- What RTE restores from a record whose PARKED is 0 (R301), before the window fill. -/
def restoreWheel (x : Wheel) (l : List TWord) : Wheel :=
  let w (i : Nat) : TWord := nth emptyW l i
  { x with mode := recModeOf l, pend := recPend l, frm := rf l 3 21 4, floor := rf l 2 19 7, sd := rf l 2 13 6,
           blk := { ctl := (w 8).val, src := w 9, dst := w 10, rem := (w 11).val, done := (w 12).val, x := w 13,
                    acc := BitVec.ofNat 96 ((w 14).val.toNat + (w 15).val.toNat * 2 ^ 32 + (w 16).val.toNat * 2 ^ 64) },
           blkSeg := none, iterEnd := false,
           rpt := { ctl := (w 17).val, start := (w 18).val, cnt := (w 19).val } }

/-- The record's enclosing active record (PREV). -/
def recPrev (l : List TWord) : Option DRef :=
  if rf l 7 7 1 = 1 then some ⟨rf l 7 0 6, rf l 7 6 1 == 1⟩ else none

/-- RTE from a record that passes (R301): the resume address, or none when the wheel parks. -/
def restore (s : State) (w : Nat) (l : List TWord) : Res :=
  if recParked l then .ok (dispatchNext (modWheel (park s w) w fun x => { x with frm := rf l 3 21 4 }) w, .stop)
  else
    let s := modWheel s w fun x => restoreWheel x l
    .ok (windowTo s w (rf l 2 0 13), .xfer (nth emptyW l 0).val)

/-- Guard PARK (R313). -/
def guardPark (s : State) (w : Nat) : State :=
  let f (x : Wheel) : Wheel :=
    { x with active := none, busyC := 0, busyS := 0, asyC := 0, asyS := 0, fexitC := {}, fexitS := {}, exc18 := [] }
  dispatchNext (park (modWheel s w f) w) w

/-- A guard RESET whose drain has finished raises its L0 by software request (R313, R488). -/
def guardResetRaise (s : State) (w : Nat) : State :=
  raiseWheelReset (modWheel s w fun x => { x with draining := false }) 5 (mapLevel s 9) w

/-- Nothing of the wheel is in flight: the store buffer, the posted stores and the stalled access (R447 step 3). -/
def drained (x : Wheel) : Bool := x.sbuf.isEmpty && x.posted.isEmpty && x.stall == .none

def drainCheck (s : State) (w : Nat) : State :=
  let x := getWheel s w
  if x.draining && drained x then guardResetRaise s w else s

/-- A lock-up at RTE: the wheel has left the guard bank (R313). -/
def guardLock (s : State) (w : Nat) : State := lockUp (modWheel s w fun x => { x with mode := { x.mode with guard := false } }) w

/-- RTE in the guard handler (R313). -/
def guardRte (s : State) (w : Nat) : Res :=
  let a := 0x18 * w
  let s := traceRec s w 3 0 0
  let s := (List.range 24).foldl (fun s i => noteRead s .retained (a + i)) s
  let l := (List.range 24).map fun i => retRead s (a + i)
  match nth none l 20 with
  | none => .ok (guardLock s w, .stop)
  | some g =>
    if g.tag ≠ .int then .ok (guardLock s w, .stop)
    else if g.val = 0 then
      if l.any (·.isNone) then .ok (guardLock s w, .stop)
      else
        let v := l.filterMap id
        if recMalformed (getWheel s w) w v true then .ok (guardLock s w, .stop)
        else restore s w v
    else if g.val = 1 then .ok (guardPark s w, .stop)
    else if g.val = 2 then
      .ok (drainCheck (modWheel s w fun x =>
        { x with stopped := true, draining := true, mode := { x.mode with guard := false } }) w, .stop)
    else .ok (guardLock s w, .stop)

/-- RTE outside the guard handler (R300, R301). -/
def plainRte (s : State) (w : Nat) : Res :=
  let x := getWheel s w
  let op := 0xF0
  let r := x.active.getD ⟨0, false⟩
  let d := descr s r
  let base := sgBase (segEnt s (dWorld d) (dStack d))
  let ad (i : Nat) : Nat := (base + i) % 0x8000
  let l := (List.range 24).map fun i => spadRead s w (ad i)
  let s := if x.active.isSome then (List.range 24).foldl (fun s i => noteRead s (.spad (Fin.ofNat 64 w)) (ad i)) s else s
  match rteExc s x l op with
  | some e => .error (s, e)
  | none =>
    let gu (num reason : Nat) : Res :=
      .ok (guardEntry s w num reason r false (intW 0) (intW 0), .xfer (mkCode 2 (millOf w) 0))
    if l.any (·.isNone) then gu 15 8
    else
      let v := l.filterMap id
      if recMalformed x w v false then gu 2 7
      else if recForbidden d v then gu 6 6
      else
        let s := modWheel s w fun x => setBusy { x with active := recPrev v } r false false
        restore (traceRec s w 3 0 0) w v

/-- RTE ( — ) (R300, R301, R313). -/
def execRte (w : WheelId) (s : State) : Out :=
  .next <| issue s w 0xF0 [] fun s =>
    let x := getWheel s w
    if x.mode.guard then guardRte s w
    else if x.mode.level = false then .error (s, exc 6 (intW 0) 0xF0)
    else plainRte s w

end Sys2Proof.Machine
end

