-- ==== Sys2Proof/Machine/WSys.lean ====
section
/-! DEFINITION. System instructions (R161, R165, R166, R172, R196, R244 to R250, R305 to R308). -/

namespace Sys2Proof.Machine

/-- FLUSH (R250): every held copy of program words is discarded, and entry-line copies are reloaded at the next
WAIT (R239). -/
def execFlush (w : WheelId) (s : State) : Out :=
  .next <| issue s w 0x03 [] fun s => .ok (modWheel s w fun x => { x with fetch := { repSkip := rptActive x } }, .next)

/-- The checks of SETMODE on its operand (R172, R245). -/
def setmodeExc (x : Wheel) (v : TWord) (op : Nat) : Option Exc :=
  if v.tag ≠ .int then some (tagExc v.tag 0 op)
  else if x.mode.level = false ∧ (bitOf v.val 1 = true ∨ bitOf v.val 3 ≠ x.mode.compat) then some (exc 6 (intW 0) op)
  else if fld v.val 4 28 ≠ 0 ∨ bitOf v.val 0 = true then some (exc 2 v op)
  else if ((countDown x.pend).filter fun c => c.cnt != 0).length ≥ 2 then some (exc 2 (intW 0) op)
  else none

/-- SETMODE ( m:INT — ) (R172, R244, R245): the change takes effect after two further retirements. -/
def execSetmode (w : WheelId) (s : State) : Out :=
  .next <| issue s w 0xF1 [] fun s =>
    let x := getWheel s w
    match depthExc x 1 1 0 0xF1 with
    | some e => .error (s, e)
    | none =>
      let v := stkRd x 0
      match setmodeExc x v 0xF1 with
      | some e => .error (s, e)
      | none =>
        -- its own retirement does not count for its own shadow
        -- a popped LEVEL of 1 asks for no change
        let c : ModeChg := ⟨bitOf v.val 1 && x.mode.level && x.pend.all (·.level), bitOf v.val 2, bitOf v.val 3, 3⟩
        .ok (modWheel s w fun x => { popPush x 1 [] with pend := x.pend ++ [c] }, .next)

/-- The supervisor check of step 3 (R174, R179). -/
def superExc (x : Wheel) (op : Nat) : Option Exc := if x.mode.level then none else some (exc 6 (intW 0) op)

/-- A supervisor instruction: step 3, then the depth checks, then `f`. -/
def superOp (s : State) (w op need pop push : Nat) (f : State → Wheel → Res) : State :=
  issue s w op [] fun s =>
    let x := getWheel s w
    match superExc x op with
    | some e => .error (s, e)
    | none =>
      match depthExc x need pop push op with
      | some e => .error (s, e)
      | none => f s x

/-- MKADDR ( n:INT — a:ADDR ) (R196); subject to R145 as a conversion (R146). -/
def execMkaddr (w : WheelId) (s : State) : Out :=
  .next <| superOp s w 0xF2 1 1 1 fun s x =>
    let v := stkRd x 0
    match compute 0xF2 [v] (if v.tag = .int then .ok ⟨.addr, v.val⟩ else .error (tagExc v.tag 0 0xF2)) with
    | .error e => .error (s, e)
    | .ok l => .ok (modWheel s w fun x => popPush x 1 l, .next)

/-- The millpond banks that a descriptor covers (R327). -/
def coverBanks (d : W64) : List Nat :=
  if sgSpace d = 2 then (List.range 16).filter fun b => sgBase d / 0x40000 ≤ b && b ≤ (sgBase d + sgLimit d) / 0x40000 else []

/-- The field checks of SETDESC (R165, R327). -/
def descBad (s : State) (world : Bool) (d : W64) : Bool :=
  let sp := sgSpace d
  sp ≥ 4 || (sp != 0 && fld d 56 8 != 0) || (sp == 1 && sgBase d + sgLimit d > 0x5FFF) ||
  (sp == 2 && (sgBase d + sgLimit d > 0x3FFFFF || (coverBanks d).any fun b => !bankOn s b)) ||
  (sp == 3 && (sgBase d + sgLimit d > 0xFFFFFF || !world))

/-- A segment table entry written in every mill's copy (R166). -/
def setSeg (s : State) (world : Bool) (i : Nat) (d : W64) : State :=
  if world then { s with segS := tset 0 s.segS i d } else { s with segC := tset 0 s.segC i d }

/-- SETDESC ( lo hi idx — ) (R165, R166). -/
def execSetdesc (w : WheelId) (s : State) : Out :=
  .next <| superOp s w 0xF3 3 3 0 fun s x =>
    let ix := stkRd x 0
    let hi := stkRd x 1
    let lo := stkRd x 2
    match (tops x 3).zipIdx.find? fun p => p.1.tag != .int with
    | some p => .error (s, tagExc p.1.tag p.2 0xF3)
    | none =>
      if ix.val = 0 ∨ ix.val.toNat > 255 then .error (s, exc 2 ix 0xF3)
      else
        let d : W64 := hi.val ++ lo.val
        if descBad s x.mode.world d then .error (s, exc 2 hi 0xF3)
        else .ok (setSeg (modWheel s w fun x => popPush x 3 []) x.mode.world ix.val.toNat d, .next)

/-- GETDESC ( idx — lo hi ) (R196). -/
def execGetdesc (w : WheelId) (s : State) : Out :=
  .next <| superOp s w 0xF4 1 1 2 fun s x =>
    let ix := stkRd x 0
    if ix.tag ≠ .int then .error (s, tagExc ix.tag 0 0xF4)
    else if ix.val.toNat > 255 then .error (s, exc 2 ix 0xF4)
    else
      let d := segEnt s x.mode.world ix.val.toNat
      .ok (modWheel s w fun x => popPush x 1 [⟨.int, d.setWidth 32⟩, ⟨.int, (d >>> 32).setWidth 32⟩], .next)

/-- RGET ( — r:RET ) (R161, R304). -/
def execRget (w : WheelId) (s : State) : Out :=
  .next <| superOp s w 0xF5 0 0 1 fun s x =>
    if atFloor x then .error (s, exc 9 (intW 0) 0xF5)
    else
      let e := nth 0 x.rstack 0
      if rtWorld e ≠ x.mode.world then .error (s, exc 6 (intW 0) 0xF5)
      else if shTop s w x ≠ some ⟨.ret, e⟩ then .error (noteSh s w x, exc 7 ⟨.ret, e⟩ 0xF5)
      else .ok (modWheel (noteSh s w x) w fun x => popPush (popRet x) 0 [⟨.ret, e⟩], .next)

/-- RPUT ( r:RET — ) (R161, R304). -/
def execRput (w : WheelId) (s : State) : Out :=
  .next <| superOp s w 0xF6 1 1 0 fun s x =>
    let v := stkRd x 0
    if v.tag ≠ .ret then .error (s, tagExc v.tag 0 0xF6)
    else if atFloor x = false ∧ rtWorld (nth 0 x.rstack 0) ≠ x.mode.world then .error (s, exc 6 (intW 0) 0xF6)
    else if rtWorld v.val ≠ x.mode.world then .error (s, exc 6 (intW 0) 0xF6)
    else if x.rstack.length ≥ 64 then .error (s, exc 8 (intW 0) 0xF6)
    else .ok (modWheel s w fun x => pushRet (popPush x 1 []) v.val, .next)

/-- PSTORE's checks in the order of R196. -/
def pstoreExc (s : State) (x : Wheel) (w : Nat) (v c : TWord) : Option Exc :=
  match xferExc x w c.val with
  | some n => some (xferFault c.val n 0xF7)
  | none =>
    if fld v.val 14 18 ≠ 0 then some (exc 2 v 0xF7)
    else if cRegion c.val = 0 ∧ badLine s (millOf w) (lineOf c.val) = true then
      some (exc 14 (intW (lineOf c.val)) 0xF7)
    else none

/-- The line write of a PSTORE is complete: the slice answers the new line from now on, the record's ACTIVE clears, and the
PSTORE retires (R248, R491). A prefetch in flight has returned the old line meanwhile (R233, R248). -/
def pstoreFinish (s : State) (w o : Nat) (v : BitVec 14) : State :=
  let s := pstoreEnd (sliceWrite (landPre s w) (millOf w) o v) (millOf w)
  drainCheck (resumeOp s w fun s => .ok (modWheel s w fun x => popPush x 2 [], .next)) w

/-- The line write of a PSTORE goes on: the slice, which has written its spare row, switches the line; then the write
completes (R248, R490). Without VPS it does not. -/
def pstoreStep (s : State) (w o : Nat) (v : BitVec 14) (switched : Bool) : State :=
  if !(running s && s.rst.vps) then s
  else if switched then pstoreFinish s w o v
  else modMill (modWheel s w fun x => { x with stall := .pstore o v true }) (millOf w) fun m => { m with switched := true }

/-- PSTORE ( v:INT c:CODE — ) (R196, R248, R490, R491). A pinned-store word is written at once. A program-store word is
written by a line write in three steps of this command: the write begins, the slice switches the line, the write completes
and the PSTORE retires. -/
def execPstore (w : WheelId) (s : State) : Out :=
  match (getWheel s w).stall with
  | .pstore o v k => .next (pstoreStep s w o v k)
  | _ => .next <| superOp s w 0xF7 2 2 0 fun s x =>
    let c := stkRd x 0
    let v := stkRd x 1
    if c.tag ≠ .code then .error (s, tagExc c.tag 0 0xF7)
    else if v.tag ≠ .int then .error (s, tagExc v.tag 1 0xF7)
    else
      match pstoreExc s x w v c with
      | some e => .error (s, e)
      | none =>
        let b := BitVec.ofNat 14 v.val.toNat
        if cRegion c.val = 0 then
          let s := modMill (pstoreBegin s (millOf w) (lineOf c.val) w false) (millOf w) fun m => { m with switched := false }
          .ok (modWheel s w fun x => { x with stall := .pstore (cOff c.val) b false, stallOp := 0xF7 }, .stay)
        else .ok (pinWrite (modWheel s w fun x => popPush x 2 []) (pinHost w (cRegion c.val)) (cOff c.val) b, .next)

/-! ### Fast calls -/

def feOffset (d : W64) : Nat := fld d 0 18
def feRegion (d : W64) : Nat := fld d 18 2
def feWorld (d : W64) : Bool := bitOf d 21
def feNarg (d : W64) : Nat := fld d 25 5
def feNres (d : W64) : Nat := fld d 30 5

def fexitOf (x : Wheel) (world : Bool) : Fexit := if world then x.fexitS else x.fexitC
def setFexit (x : Wheel) (world : Bool) (f : Fexit) : Wheel := if world then { x with fexitS := f } else { x with fexitC := f }

/-- FCALL's checks in the order of R307; the guard handler may not call (R312). -/
def fcallExc (x : Wheel) (d : W64) (op : Nat) : Option Exc :=
  if x.mode.guard then some (exc 6 (intW 0) op)
  else if x.pend ≠ [] then some (exc 2 (intW 0) op)
  else if bitOf d 20 = false ∨ (x.mode.level = false ∧ bitOf d 24 = false) ∨ (x.mode.world = false ∧ feWorld d = true) then
    some (exc 6 (intW 0) op)
  else if (fexitOf x (feWorld d)).valid then some (exc 8 (intW 0) op)
  else if x.sd < feNarg d then some (exc 9 (intW 0) op)
  else none

/-- FCALL ( — ) (R305 to R307). -/
def execFcall (w : WheelId) (s : State) : Out :=
  .next <| issue s w 0xF8 [] fun s =>
    let x := getWheel s w
    let d := if x.mode.world then s.fentS else s.fentC
    match fcallExc x d 0xF8 with
    | some e => .error (s, e)
    | none =>
      let t := mkCode (feRegion d) (millOf w) (feOffset d)
      match xferExc x w t with
      | some n => .error (s, xferFault t n 0xF8)
      | none =>
        let f : Fexit := { valid := true, ret := (codeAdd x.pc 1).setWidth 24, mode := x.mode, floor := x.sd - feNarg d,
                           nres := feNres d, rfl := x.floor }
        let m : Mode := { world := feWorld d, level := true, tchk := bitOf d 22, compat := bitOf d 23 }
        let g (x : Wheel) : Wheel :=
          let y := setFexit x (feWorld d) f
          let y := if rptActive y && !inBody y t then clearRpt y else y
          { y with floor := x.rstack.length, mode := m }
        .ok (modWheel s w g, .xfer t)

/-- FRET's checks in the order of R308. -/
def fretExc (x : Wheel) (op : Nat) : Option Exc :=
  let f := fexitOf x x.mode.world
  if x.mode.guard ∨ x.mode.level = false then some (exc 6 (intW 0) op)
  else if x.pend ≠ [] then some (exc 2 (intW 0) op)
  else if f.valid = false then some (exc 6 (intW 0) op)
  else if x.sd ≠ f.floor + f.nres then some (exc 2 (intW 0) op)
  else if x.rstack.length ≠ x.floor then some (exc 7 (intW 0) op)
  else none

/-- FRET ( — ) (R308). -/
def execFret (w : WheelId) (s : State) : Out :=
  .next <| issue s w 0xF9 [] fun s =>
    let x := getWheel s w
    match fretExc x 0xF9 with
    | some e => .error (s, e)
    | none =>
      let f := fexitOf x x.mode.world
      let t := f.ret.setWidth 32
      let g (x : Wheel) : Wheel :=
        let y := setFexit x x.mode.world {}
        let y := if rptActive y && !inBody y t then clearRpt y else y
        { y with floor := f.rfl, mode := f.mode }
      .ok (modWheel s w g, .xfer t)

end Sys2Proof.Machine
end

