-- ==== Sys2Proof/Machine/MemPort.lean ====
section
/-! DEFINITION. The memory ports outside the instruction stream: millpond grants, load returns and the store buffers
(R38 to R40, R127, R129, R323 to R327), the host's answers (R169, R218, R315, R467), the tailrace (R115 to R118), the
write-backs of corrected and poisoned words, the scrubber (R329 to R332), and the steal register (R322). -/

namespace Sys2Proof.Machine

/-! ### Millpond bank grants -/

/-- The wheel's pending load asks for bank `b` (R323). -/
def loadWants (x : Wheel) (b : Nat) : Bool :=
  match x.stall with
  | .mpLoad a _ _ _ none => mpBank a == b
  | .blkMp _ _ _ a none => mpBank a == b
  | _ => false

/-- The head of the wheel's store buffer asks for bank `b` (R325). -/
def storeWants (x : Wheel) (b : Nat) : Bool :=
  match x.sbuf with
  | e :: _ => !e.granted && mpBank e.addr == b
  | [] => false

/-- The wheels that ask for the bank; the port of a hung mill is granted nothing (R488). -/
def bankAskers (s : State) (b : Nat) : List Nat :=
  (wheelKeys s).filter fun w =>
    !(getMill s (millOf w)).hung && (loadWants (getWheel s w) b || storeWants (getWheel s w) b)

/-- The wheels that were granted bank `b` while wheel `w` waits for it (R128). -/
def passedBy (s : State) (b w : Nat) : List Nat :=
  (tget [] s.mem.passed b).filterMap fun p => if p.1 = w then some p.2 else none

/-- The lowest wheel that asks for the bank and has not already been granted it ahead of another that waits (R40, R128). The
accesses of the hoppers, the host port and the mirror engine are granted in their own steps, ahead of every wheel. -/
def bankAsker (s : State) (b : Nat) : Option Nat :=
  let l := bankAskers s b
  l.find? fun w => l.all fun v => !(passedBy s b v).contains w

/-- After a grant to `w`, every other wheel that waits for the bank has been passed by it once, and `w` waits anew (R128). -/
def notePassed (s : State) (b w : Nat) : State :=
  let l := bankAskers s b
  let old := (tget [] s.mem.passed b).filter fun p => l.contains p.1 && p.1 != w
  modMemR s fun r => { r with passed := tset [] r.passed b (old ++ ((l.filter (· != w)).map fun v => (v, w))) }

/-- A granted load takes its words as they stand (R324), with what the ECC says of each. -/
def grantLoad (s : State) (w : Nat) : State :=
  match (getWheel s w).stall with
  | .mpLoad a n p ad none =>
    let l := (List.range n).map fun i => ((mpRead s (a + i)).getD poisonW, (mpRead s (a + i)).isNone)
    let s := forAll s (List.range n) fun s i => mpNote s (a + i)
    modWheel s w fun x => { x with stall := .mpLoad a n p ad (some l) }
  | .blkMp k va ad a none =>
    let v := ((mpRead s a).getD poisonW, (mpRead s a).isNone)
    modWheel (mpNote s a) w fun x => { x with stall := .blkMp k va ad a (some v) }
  | _ => s

/-- A granted store is written, all its words in one access (R323, R324). -/
def grantStore (s : State) (w : Nat) : State :=
  match (getWheel s w).sbuf with
  | [] => s
  | e :: t =>
    let s := e.data.zipIdx.foldl (fun s p => mpWriteUnit s (e.addr + p.2) p.1) s
    modWheel s w fun x => { x with sbuf := { e with granted := true } :: t }

/-- MILLPOND_GRANT: a bank grants one access (R40, R323, R324). -/
def execMillpondGrant (bank : Fin 16) (s : State) : Out :=
  if running s then
    match bankAsker s bank with
    | none => .next s
    | some w => .next (notePassed (if loadWants (getWheel s w) bank then grantLoad s w else grantStore s w) bank w)
  else .next s

/-- The words of a load that has returned (R167 checks 8 and 9, R331). -/
def returnLoad (s : State) (w : Nat) (ptr : Bool) (a : TWord) (l : List (TWord × Bool)) : State :=
  let op := opWord s w
  resumeOp s w fun s =>
    match l.zipIdx.find? fun p => p.1.2 with
    | some p => .error (s, exc 16 (aAdd a p.2) op)
    | none =>
      match loadedExc ptr a op (l.map (·.1)) with
      | some e => .error (s, e)
      | none => .ok (modWheel s w fun x => popPush x 1 (l.map (·.1)), .next)

/-- The block instruction goes on with source words that it has been given (R217, R218). -/
def blkAnswer (s : State) (w : Nat) (host : Bool) (u v : Option TWord) : State :=
  let op := opWord s w
  resumeOp s w fun s =>
    match segsOf s (getWheel s w) op with
    | .error e => .error (s, e)
    | .ok d => blkSteps s w op d.1 d.2 host 1 u v

/-- A block instruction's millpond element has returned; exception 16 where it cannot be corrected (R205, R331). -/
def returnElem (s : State) (w : Nat) (second : Bool) (va a : TWord) (v : TWord × Bool) : State :=
  if v.2 then resumeOp s w fun s => .error (s, exc 16 a (opWord s w))
  else if second then blkAnswer s w false (some va) (some v.1)
  else blkAnswer s w false (some v.1) none

/-- MILLPOND_LOAD_RETURN (R127, R217, R323). -/
def execMillpondLoadReturn (w : WheelId) (s : State) : Out :=
  match (getWheel s w).stall with
  | .mpLoad _ _ p a (some l) => if running s then .next (drainCheck (returnLoad s w p a l) w) else .next s
  | .blkMp k va a _ (some v) => if running s then .next (drainCheck (returnElem s w k va a v) w) else .next s
  | _ => .next s

/-! ### Store buffers -/

/-- What a freed entry lets go on (R129): a load behind a partial overlap, or a store that found the buffer full. -/
def afterDrain (s : State) (w : Nat) : State :=
  match (getWheel s w).stall with
  | .mpDrain k a n p ad =>
    modWheel s w fun x => { x with stall := if k ≤ 1 then .mpLoad a n p ad none else .mpDrain (k - 1) a n p ad }
  | .storeFull e pops =>
    resumeOp s w fun s => .ok (modWheel s w fun x => { popPush x pops [] with sbuf := x.sbuf ++ [e] }, .next)
  | .blkFull u host => blkAnswer s w host (some u) none
  | _ => s

/-- STORE_BUFFER_DRAIN: the granted head entry is freed (R129, R323, R325). -/
def execStoreBufferDrain (w : WheelId) (s : State) : Out :=
  match (getWheel s w).sbuf with
  | e :: t =>
    if running s && e.granted then .next (drainCheck (afterDrain (modWheel s w fun x => { x with sbuf := t }) w) w)
    else .next s
  | [] => .next s

/-! ### The host's answers -/

/-- The answer to the oldest posted store (R315, R316): a refusal pends its own exception 12. -/
def postAnswer (s : State) (w : Nat) (accept : Bool) : State :=
  match (getWheel s w).posted with
  | [] => s
  | (a, v) :: t =>
    let s := modWheel s w fun x =>
      { x with posted := t, exc12 := if accept then x.exc12 else x.exc12 ++ [(a, nth 0 v 0)] }
    match (getWheel s w).stall with
    | .postFull b pops vs =>
      resumeOp s w fun s => .ok (modWheel s w fun x => { popPush x pops [] with posted := x.posted ++ [(b, vs)] }, .next)
    | .blkFull u host => blkAnswer s w host (some u) none
    | _ => s

/-- A store element that the host has accepted is done (R205, R218). -/
def blkStored (s : State) (w : Nat) : State :=
  resumeOp s w fun s =>
    let s := setBlk s w (advance (getWheel s w).blk)
    if (getWheel s w).blk.rem = 0 then .ok (blkFinish s w false, .next) else .ok (s, .stay)

/-- The answer to the access that the wheel's instruction waits for (R169, R218). -/
def stallAnswer (s : State) (w : Nat) (accept : Bool) (d0 d1 : W32) : State :=
  let v : TWord := if accept then ⟨.int, d0⟩ else poisonW
  let v1 : TWord := if accept then ⟨.int, d1⟩ else poisonW
  match (getWheel s w).stall with
  | .hostLoad _ n => resumeOp s w fun s => .ok (modWheel s w fun x => popPush x 1 ([v, v1].take n), .next)
  | .hostStore a pops _ =>
    resumeOp s w fun s =>
      if accept then .ok (modWheel s w fun x => popPush x pops [], .next) else .error (s, exc 12 a (opWord s w))
  | .blkRead false _ _ => blkAnswer s w true (some v) none
  | .blkRead true va _ => blkAnswer s w true (some va) (some v)
  | .blkWrite a _ => if accept then blkStored s w else resumeOp s w fun s => .error (s, exc 12 a (opWord s w))
  | _ => s

/-- The answer to the readback request of the hopper engine (R467). -/
def readbackAnswer (s : State) (accept : Bool) : State :=
  if rbOutstanding s && !accept then { s with rbRetry := true } else s

/-- HOST_ACCESS_RESPONSE (R169, R315, R467): of a wheel's requests, the oldest posted store is answered first; a hung
initiator path answers nothing (R488). -/
def execHostAccessResponse (w : Option WheelId) (accept : Bool) (d0 d1 : W32) (s : State) : Out :=
  if running s && !s.rst.hungHi then
    match w with
    | none => .next (readbackAnswer s accept)
    | some w =>
      if (getWheel s w).posted.isEmpty then .next (drainCheck (stallAnswer s w accept d0 d1) w)
      else .next (drainCheck (postAnswer s w accept) w)
  else .next s

/-! ### The tailrace -/

/-- The ring that a descriptor names, its first word and SIZE, when it is usable (R115). -/
def ringOf (s : State) (r : TellRec) : Option (Nat × Nat) :=
  let d (i : Nat) : Option TWord := mpRead s ((r.desc + i) % 0x400000)
  match d 0, d 1, d 2, d 3 with
  | some a, some z, some _, some _ =>
    let g := segEnt s r.world (aSel a.val)
    let size := fld z.val 0 17
    let pow := decide (16 ≤ size) && (List.range 13).any fun k => size == 16 * 2 ^ k
    if a.tag == .addr && sgSpace g == 2 && sgWr g && (sgUser g || !r.user) && pow && mpOn s r.desc &&
        decide (aOff a.val + 4 * size - 1 ≤ sgLimit g)
    then some ((sgBase g + aOff a.val) % 0x400000, size) else none
  | _, _, _, _ => none

/-- Served records of a ring that WR does not count yet (R117). -/
def ringPending (s : State) (desc : Nat) : Nat := (s.tail.drain.filter fun d => d.ring == desc).length

/-- The position of the next record of a usable ring with room: WR + P (R117). -/
def ringRoom (s : State) (r : TellRec) (size : Nat) : Option W32 :=
  let v (i : Nat) : W32 := ((mpRead s ((r.desc + i) % 0x400000)).getD poisonW).val
  let p := v 2 + BitVec.ofNat 32 (ringPending s r.desc)
  if (p - v 3).toNat < size then some p else none

/-- A head record without room: FULL is set, and event 35 raised once for it (R117, R286). -/
def ringFull (s : State) (q : Nat) (r : TellRec) : State :=
  let a := (r.desc + 1) % 0x400000
  let s := match mpRead s a with
    | some v => mpWriteUnit s a { v with val := v.val ||| 0x80000000#32 }
    | none => s
  if s.tail.told.contains q then s
  else raiseEv { s with tail := { s.tail with told := q :: s.tail.told } } q 35 (r.chan % 256 + 0x100 * (r.slot % 16))

/-- A queue is served: its head record takes a position and moves to the drain buffer (R116, R117). -/
def serveQueue (s : State) (q : Nat) : State :=
  match tellQueue s q with
  | [] => s
  | r :: t =>
    if s.tail.drain.length ≥ 512 then s
    else
      let s := forAll s (List.range 4) fun s i => if mpOn s r.desc then mpNote s ((r.desc + i) % 0x400000) else mpDrop s
      match ringOf s r with
      | none => ringFull s q r
      | some (base, size) =>
        match ringRoom s r size with
        | none => ringFull s q r
        | some p =>
          let d : DrainRec := ⟨r, r.desc, p, base, size⟩
          { s with tail := { s.tail with queues := tset [] s.tail.queues q t, drain := s.tail.drain ++ [d],
                                         told := s.tail.told.filter (· != q) } }

/-- The words of a ring that a drained record takes. -/
def drainAddr (d : DrainRec) (i : Nat) : Nat := (d.base + 4 * (d.pos.toNat % d.size) + i) % 0x400000

/-- No wheel asks for a bank that the record's writes need (R40, R128). -/
def drainFree (s : State) (d : DrainRec) : Bool :=
  [drainAddr d 0, drainAddr d 3, (d.ring + 2) % 0x400000].all fun a => (bankAskers s (mpBank a)).isEmpty

/-- TAILRACE_DRAIN_WRITE: a record of the drain buffer is written, then WR counts it (R117). -/
def drainWrite (s : State) (d : DrainRec) : State :=
  let s := d.trec.words.zipIdx.foldl (fun s p => mpWriteUnit s (drainAddr d p.2) p.1) s
  mpWriteUnit s ((d.ring + 2) % 0x400000) ⟨.int, d.pos + 1⟩

/-- At most `k` records of the drain buffer are written, oldest first, each in bank cycles that no wheel asks for; a record of
a ring waits for that ring's older ones (R40, R117, R128). The list is what stays in the buffer. -/
def drainPass : List DrainRec → Nat → List Nat → State → State × List DrainRec
  | [], _, _, s => (s, [])
  | d :: t, k, wait, s =>
    if k = 0 then (s, d :: t)
    else if wait.contains d.ring || !drainFree s d then
      let r := drainPass t k (d.ring :: wait) s
      (r.1, d :: r.2)
    else drainPass t (k - 1) wait (drainWrite s d)

/-- The drain of one pc (R40). -/
def drainSome (s : State) : State :=
  let r := drainPass s.tail.drain 8 [] s
  { r.1 with tail := { r.1.tail with drain := r.2 } }

/-- TAILRACE_SERVE: up to 8 drained records are written, and the next 8 of the part's queues are served, round-robin (R6, R40,
R116, R117). -/
def execTailraceServe (s : State) : Out :=
  if running s then
    let s := drainSome s
    let s := forAll s (List.range 8) fun s i => serveQueue s ((s.tail.rr + i) % nWheels s)
    .next { s with tail := { s.tail with rr := (s.tail.rr + 8) % nWheels s } }
  else .next s

/-- TELL_ACCEPT: a stalled TELL takes the place that the service of its queue has freed; words 2 and 3 hold the ring
time of this retirement (R114, R117). -/
def execTellAccept (w : WheelId) (s : State) : Out :=
  match (getWheel s w).stall with
  | .tellFull r =>
    if running s && decide ((tellQueue s w).length < 4) then
      let r := { r with words := r.words.take 2 ++ tellTime s }
      .next (drainCheck (resumeOp s w fun s => .ok (tellPut s w r, .next)) w)
    else .next s
  | _ => .next s

/-! ### Write-backs and the scrubber -/

/-- The memory is ON, so that it has cycles (R332, R340). -/
def memOn (s : State) (m : MemSel) (a : Nat) : Bool :=
  match m with
  | .spad w => spadOn s w
  | .pinned w => pinOn s w
  | .millpond => bankOn s (mpBank a)
  | .spare => bankOn s 16
  | .retained => true
  | .backup => true

/-- ECC_WRITEBACK: a corrected word is written back (R329). -/
def execEccWriteback (m : MemSel) (a : BitVec 22) (s : State) : Out :=
  if getEcc s m a.toNat = .ceSeen ∧ memOn s m a.toNat = true then .next (setEcc s m a.toNat .ok) else .next s

/-- The word of a memory that holds tagged words becomes POISON; a backup register becomes 0 (R330, R331). -/
def poisonWord (s : State) (m : MemSel) (a : Nat) : State :=
  match m with
  | .spad w => spadWrite s w a poisonW
  | .millpond => { s with mp := ramSet emptyW s.mp a poisonW }
  | .spare => { s with spareRam := ramSet emptyW s.spareRam a poisonW }
  | .retained => retWrite s a poisonW
  | .backup => setEcc (modRst s fun r => { r with bkup := tset 0 r.bkup a 0 }) .backup a .ok
  | .pinned _ => s

/-- A found uncorrectable word gets its log entry (R330, R509 type 04h). -/
def ueEntry (s : State) (p : MemSel × Nat) : State :=
  logEntry (modMemR s fun r => { r with ueLog := r.ueLog.erase p }) 4 (ueSrc p.1) (ueWheel p.1) (millOf (ueWheel p.1)) p.2

/-- POISON_REWRITE, with the word's log entry where the Miller has not entered it yet (R330, R509 type 04h); a pinned word is
never rewritten. -/
def execPoisonRewrite (m : MemSel) (a : BitVec 22) (s : State) : Out :=
  let n := a.toNat
  let pinned := match m with
    | .pinned _ => true
    | _ => false
  if getEcc s m n = .ueSeen ∧ memOn s m n = true ∧ pinned = false then
    let s := poisonWord s m n
    .next (if s.mem.ueLog.contains (m, n) then ueEntry s (m, n) else s)
  else .next s

/-- The scrub pointer of a memory, and the number of its words (R332). -/
def scrubKey : MemSel → Nat
  | .spad w => w | .pinned w => 64 + w | .millpond => 128 | .spare => 129 | .retained => 130 | .backup => 131
def scrubSize : MemSel → Nat
  | .spad _ => 0x8000 | .pinned _ => 0x1000 | .millpond => 0x40000 | .spare => 0x40000 | .retained => 2048 | .backup => 16

/-- The scrubber finds a cycle: the memory is ON, its steal register is empty, and bank 16 is in use (R322, R332). -/
def scrubFree (s : State) (m : MemSel) : Bool :=
  match m with
  | .spad w => spadOn s w && (getWheel s w).steal.isNone && (getWheel s w).stealQ.isEmpty
  | .pinned w => pinOn s w
  | .spare => bankOn s 16 && s.spare.st != .idle
  | _ => true

/-- The words of one visit: in the millpond one word of every bank that is ON. -/
def scrubWords (s : State) (m : MemSel) (p : Nat) : List Nat :=
  match m with
  | .millpond => ((List.range 16).filter fun b => bankOn s b).map fun b => b * 0x40000 + p
  | _ => [p]

/-- SCRUB_VISIT (R332). -/
def execScrubVisit (m : MemSel) (s : State) : Out :=
  if unitsLive s && bitOf s.mem.cfg 0 && scrubFree s m then
    let p := tget 0 s.mem.scrub (scrubKey m)
    let s := forAll s (scrubWords s m p) fun s a => noteRead s m a
    .next (modMemR s fun r => { r with scrub := tset 0 r.scrub (scrubKey m) ((p + 1) % scrubSize m) })
  else .next s

/-! ### The steal register -/

/-- A debug access of one word (R321, R537): a read leaves its data, a word with tag Ch or Dh is not written (R141). -/
def debugAccess (s : State) (w : Nat) (a : MemAcc) : State :=
  match a with
  | .readSpad i =>
    { noteRead s (.spad (Fin.ofNat 64 w)) i.toNat with dbgData := some (.word ((spadRead s w i.toNat).getD poisonW)) }
  | .writeSpad i x => if isRsv x.tag then s else spadWrite s w i.toNat x
  | .readPin i =>
    let v : TWord := if isUe (tget .ok (getWheel s w).pinned.ecc i.toNat) then intW 0
      else intW (ramGet 0 (getWheel s w).pinned i.toNat).toNat
    { noteRead s (.pinned (Fin.ofNat 64 w)) i.toNat with dbgData := some (.word v) }
  | .writePin i x => pinWrite s w i.toNat x
  | _ => s

/-- The run in progress on a wheel is of this frame slot. -/
def inRunOf (s : State) (w slot : Nat) : Bool :=
  match (getWheel s w).run with
  | some r => r.frame == slot
  | none => false

/-- The 22 words of a driven frame are read and its STATE record is queued, between the frame's runs (R364). -/
def captureFrame (s : State) (w slot : Nat) : State :=
  match frameAt s w slot with
  | none => s
  | some f =>
    match getFrame s f with
    | none => s
    | some d =>
      if frameDriven s d && fsState s w slot == 1 && !inRunOf s w slot then
        let r := stateRec s f d
        modTwin (noteFrame s d) fun t => { t with stateQ := queueState t.stateQ r }
      else s

/-- One request of the steal register is served. -/
def serveSteal (s : State) (w : Nat) : StealReq → State
  | .debug a => debugAccess s w a
  | .mirror t => captureFrame s w t
  | .tdest t => modWheel (noteFw s w t [7]) w fun x => { x with tdest := tset emptyW x.tdest t (fw s w t 7) }

/-- The request that enters the register after one of requester `k`, in round-robin order (R322). -/
def stealNext (k : Nat) (l : List StealReq) : Option StealReq :=
  [k + 1, k + 2, k].findSome? fun j => l.find? fun r => stealOf r == j % 3

/-- The register takes the next waiting request. -/
def stealTake (k : Nat) (x : Wheel) : Wheel :=
  match stealNext k x.stealQ with
  | some r => { x with steal := some r, stealQ := x.stealQ.erase r }
  | none => x

/-- STEAL_SERVICE: the register is served in a wc that the wheel leaves idle, and the next request enters it (R322). -/
def execStealService (w : WheelId) (s : State) : Out :=
  if running s && spadOn s w then
    match (getWheel s w).steal with
    | some r =>
      .next (nextTdest (modWheel (serveSteal (modWheel s w fun x => { x with steal := none }) w r) w (stealTake (stealOf r))) w)
    | none => .next (modWheel s w (stealTake 2))
  else .next s

end Sys2Proof.Machine
end

