-- ==== Sys2Proof/Machine/Restart.lean ====
section
/-! DEFINITION. What a reset leaves of a wheel and of its mill (R36, R229, R278, R343, R485, R487), and the clearing of
memories that return from OFF. -/

namespace Sys2Proof.Machine

/-- The logic of a wheel after a reset of level L0 to L2 (R87, R215, R232, R292, R306, R316, R487, R538): parked, with
its register file, memories, EVCFG, wake entries and tailrace state kept. -/
def resetLogic (x : Wheel) : Wheel :=
  let y := parkWheel x
  { y with gregs := [], gsd := 0, fexitC := {}, fexitS := {}, active := none, busyC := 0, busyS := 0, asyC := 0,
           asyS := 0, events := [], exc18 := [], exc17 := false, exc12 := [], fault := none, faultParked := false,
           sbuf := [], posted := [], stall := .none, stallOp := 0, fetch := {}, acts := [], halted := false,
           haltReq := false, stepReq := false, lockup := false, stopped := false, draining := false, hold := false,
           pc := 0, frm := 0 }

/-- The frames on the wheels of a list. -/
def framesOn (s : State) (l : List Nat) : List Nat :=
  (frameKeys s).filter fun f => match getFrame s f with
    | some d => l.contains d.wheel
    | none => false

/-- At the release of a reset the frames of a wheel are stopped and their entries disarmed (R485). -/
def stopAtRelease (s : State) (f : Nat) (d : FrameDef) : State :=
  let g (n : WakeEnt) : WakeEnt :=
    { n with en := false, pend := false, cnt := 0, latch := [], expired := false, taken := [] }
  let s := (frameWakes d).foldl (fun s e => modWake s d.wheel e g) s
  let s := setFstat s d.wheel d.slot 0 2 0
  modFrame s f fun d => { d with arm := false, stop := false, moveTo := none, stagedRec := none, stagedExt := none }

def stopFramesOn (s : State) (l : List Nat) : State := eachFrame s (framesOn s l) stopAtRelease

/-- The wheels of a mill. -/
def millWheels (m : Nat) : List Nat := (List.range 4).map (4 * m + ·)

/-! ### Memories that have been OFF (R36, R340, R341) -/

def clearSpad (s : State) (w : Nat) : State := modWheel s w fun x => { x with spad := {}, ffNow := [] }
def clearPinned (s : State) (w : Nat) : State := modWheel s w fun x => { x with pinned := {} }

/-- The writable control store empties: every CDT entry EN 0, IMAGEID 0 (R278). -/
def clearCstore (s : State) (m : Nat) : State :=
  modMill s m fun x => { x with cstore := [], cdt := [], mcId := 0, mcKey := 0, mcDigest := 0, mcCount := 0 }

/-- Words of a millpond bank. -/
def inBank (b : Nat) (a : Nat) : Bool := mpBank a == b

def clearBank (s : State) (b : Nat) : State :=
  if b = 16 then { s with spareRam := {} }
  else { s with mp := { cells := s.mp.cells.filter fun p => !inBank b p.1, ecc := s.mp.ecc.filter fun p => !inBank b p.1 } }

/-- A mill returns to ON from OFF: its register files, and those of its memories whose own field is ON, are cleared before its
wheels leave reset (R36, R340). A memory whose own field is RETAIN is not cleared; that its words stand is the model's choice
(log 19). -/
def clearMill (s : State) (m : Nat) : State :=
  let f (s : State) (w : Nat) : State :=
    let s := modWheel s w fun x => { resetLogic x with regs := [] }
    let s := if spField s w = 0 then clearSpad s w else s
    if pinField s w = 0 then clearPinned s w else s
  let s := forAll s (millWheels m) f
  if fld s.mem.cspwr (2 * m) 2 = 0 then clearCstore s m else s

/-- The store buffer of a wheel drains at once: a mill that leaves ON drains its wheels before its clock stops (R325). -/
def drainNow : Nat → State → Nat → State
  | 0, s, _ => s
  | k + 1, s, w =>
    match (getWheel s w).sbuf with
    | [] => s
    | e :: t =>
      let s := if e.granted then s else grantStore s w
      drainNow k (afterDrain (modWheel s w fun x => { x with sbuf := t }) w) w

end Sys2Proof.Machine
end

