-- ==== Sys2Proof/Machine/Regs.lean ====
section
/-! DEFINITION. Registers with an effect of their own: MILLCFG and MILLCTL (R27 to R36), SAILCFG and SAILSAFE (R100, R101),
LEATCFG (R119), MEMERR (R333), SPARECTL (R334 to R337) and the memory power registers (R339 to R342). -/

namespace Sys2Proof.Machine

/-! ### Mills -/

/-- MILLCTLm.HASLOOPS (R31). -/
def hasLoops (s : State) (m : Nat) : Bool := !(millFrames s m).isEmpty

/-- MILLCFG (R27). -/
def millcfgReg (s : State) : W64 := pk [(0, s.standby), (8, b2n s.occupied), (9, b2n s.millcfgErr)]

/-- MILLCFG written (R28): a beat without the STANDBY byte writes no STANDBY. -/
def millcfgWr (s : State) (v : W64) (be : BitVec 8) : State :=
  let s := if bitOf be 1 && bitOf v 9 then { s with millcfgErr := false } else s
  if bitOf be 0 then
    let n := fld v 0 5
    if n > 16 ∨ (n < 16 ∧ nMills s ≤ n) ∨ (n < 16 ∧ hasLoops s n = true) ∨ s.occupied = true then { s with millcfgErr := true }
    else { s with standby := n }
  else s

/-- MILLCFG_WRITE (R28). -/
def execMillcfgWrite (v : W64) (be : BitVec 8) (s : State) : Out := if running s then .next (millcfgWr s v be) else .next s

/-- MILLCTLm (R31). -/
def millctlReg (s : State) (m : Nat) : W64 :=
  let x := getMill s m
  let p := (List.range 4).foldl (fun v k => v + b2n (getWheel s (4 * m + k)).parked * 2 ^ k) 0
  pk [(0, x.freq), (4, x.pstate), (8, p), (12, b2n (hasLoops s m)), (13, b2n (s.standby == m)), (14, b2n x.lock),
      (15, b2n x.err)]

/-- The clock of a mill stops or starts anew: LOCK falls, and its monitor shows a gated clock until LOCK (R33, R499,
R500). -/
def gateMill (s : State) (m : Nat) : State :=
  modClk (modMill s m fun x => { x with lock := false }) m fun c => { c with stable := false, gated := true }

/-- FREQ and PSTATE of a mill change (R33, R36, R325); PSTATE OFF leaves the control store empty (R278). -/
def millSet (s : State) (m freq pstate : Nat) : State :=
  let x := getMill s m
  let s := if x.pstate = 0 ∧ pstate ≠ 0 then forAll s (millWheels m) fun s w => drainNow 8 s w else s
  let s := if pstate = 2 ∧ fld s.mem.cspwr (2 * m) 2 ≠ 1 then clearCstore s m else s
  gateMill (modMill s m fun x => { x with freq := freq, pstate := pstate, offSeen := x.offSeen || pstate == 2 }) m

/-- MILLCTLm written (R32). -/
def millctlWr (s : State) (m : Nat) (v : W64) (be : BitVec 8) : State :=
  if m < nMills s then
    let s := if bitOf be 1 && bitOf v 15 then modMill s m fun x => { x with err := false } else s
    let x := getMill s m
    let f := if bitOf be 0 then fld v 0 4 else x.freq
    let p := if bitOf be 0 then fld v 4 2 else x.pstate
    if f = x.freq ∧ p = x.pstate then s
    else if hasLoops s m = true ∨ f > 12 ∨ p = 3 then modMill s m fun x => { x with err := true }
    else millSet s m f p
  else s

/-- MILLCTL_WRITE (R32). -/
def execMillctlWrite (m : MillId) (v : W64) (be : BitVec 8) (s : State) : Out :=
  if running s then .next (millctlWr s m v be) else .next s

/-- MILL_CLOCK_LOCK: the monitor has counted 1,024 stable cycles (R33, R36). -/
def execMillClockLock (m : MillId) (s : State) : Out :=
  let x := getMill s m
  if unitsLive s && x.pstate == 0 && !x.lock then
    let s := if x.offSeen then clearMill s m else s
    let s := modMill s m fun x => { x with lock := true, offSeen := false }
    .next (modClk s m fun c => { c with stable := true, gated := false })
  else .next s

/-! ### Sails and leats -/

/-- SAILCFGn and SAILSAFEn (R100, R101). -/
def sailcfgReg (s : State) (n : Nat) : W64 :=
  let x := getSail s n
  pk [(0, x.tb), (4, b2n x.ovrpol), (5, b2n x.owned), (6, x.owner), (12, b2n x.safeact), (13, b2n x.poisoned),
      (14, b2n x.err), (16, x.ovrcnt), (24, x.latecnt)]

/-- SAILCFGn written (R100). -/
def sailcfgWr (s : State) (n : Nat) (v : W64) (be : BitVec 8) : State :=
  modSail s n fun x =>
    let x := if bitOf be 0 then { x with ovrpol := bitOf v 4 } else x
    let x := if bitOf be 1 then { x with poisoned := x.poisoned && !bitOf v 13, err := x.err && !bitOf v 14 } else x
    if bitOf be 4 && bitOf v 32 then { x with ovrcnt := 0, latecnt := 0 } else x

/-- SAILSAFEn written: EDGE 11b is refused; UPD is kept as written, and replaced when the word reaches a sail (R59, R101). -/
def sailsafeWr (s : State) (n : Nat) (v : W64) (be : BitVec 8) : State :=
  let c : W32 := (mergeRw 0xFFFFFFFF ((getSail s n).safe.setWidth 64) v be).setWidth 32
  if fld c 26 2 = 3 then modSail s n fun x => { x with err := true } else modSail s n fun x => { x with safe := c }

/-- SAILSAFE_WRITE (R101). -/
def execSailsafeWrite (n : Fin 192) (v : W64) (be : BitVec 8) (s : State) : Out :=
  if running s && !tbHeld s n then .next (sailsafeWr s n v be) else .next s

/-- SAILCFG_CNTCLR (R100). -/
def execSailcfgCntclr (n : Fin 192) (s : State) : Out :=
  if running s && !tbHeld s n then .next (sailcfgWr s n 0x100000000 0x10) else .next s

/-- BOUND of LEATCFGn: the armed or allocated entries that bind the leat (R119). -/
def leatBound (s : State) (n : Nat) : Nat :=
  (wheelKeys s).foldl (fun k w => k + ((wakeKeys (getWheel s w)).filter fun e =>
    let x := getWake s w e
    x.alloc && !x.src && x.idx == n).length) 0

/-- LEATCFGn (R119). -/
def leatcfgReg (s : State) (n : Nat) : W64 :=
  let x := getLeat s n
  pk [(0, x.seq.toNat), (8, x.seqerr), (16, x.lost), (24, b2n x.failseen), (25, b2n x.ovrseen), (32, x.last.toNat),
      (48, min 0xFF (leatBound s n))]

/-- LEATCFGn written (R119). -/
def leatcfgWr (s : State) (n : Nat) (v : W64) (be : BitVec 8) : State :=
  if bitOf be 3 then
    modLeat s n fun x =>
      let x := { x with failseen := x.failseen && !bitOf v 24, ovrseen := x.ovrseen && !bitOf v 25 }
      if bitOf v 26 then { x with seqerr := 0, lost := 0 } else x
  else s

/-- LEATCFG_CNTCLR (R119). -/
def execLeatcfgCntclr (n : Fin 256) (s : State) : Out :=
  if running s && !leatHeld s n then .next (leatcfgWr s n 0x4000000 0x08) else .next s

/-! ### Memory errors and power -/

/-- MEMERR (R333). -/
def memerrReg (s : State) : W64 :=
  pk [(0, s.mem.cecnt), (16, s.mem.uecnt), (24, s.mem.uesrc), (32, s.mem.ueaddr), (56, s.mem.uewheel)]

/-- MEMERR written (R333). -/
def memerrWr (s : State) (v : W64) (be : BitVec 8) : State :=
  if bitOf be 7 && bitOf v 62 then modMemR s fun r => { r with cecnt := 0, uecnt := 0, uesrc := 0, ueMark := 0 } else s

/-- MEMERR_CNTCLR (R333). -/
def execMemerrCntclr (s : State) : Out := if running s then .next (memerrWr s 0x4000000000000000 0x80) else .next s

/-- MEMPWRST (R339). -/
def mempwrstReg (s : State) : W64 :=
  pk [(0, s.mem.errs.toNat), (4, b2n (!s.mem.trans.isEmpty)), (8, s.mem.drop)]

/-- MEMPWRST written (R339). -/
def mempwrstWr (s : State) (v : W64) (be : BitVec 8) : State :=
  let s := if bitOf be 0 then modMemR s fun r => { r with errs := r.errs &&& ~~~ (v.setWidth 4) } else s
  if bitOf be 2 && bitOf v 16 then modMemR s fun r => { r with drop := 0 } else s

/-- MEMPWRST_CNTCLR (R339). -/
def execMempwrstCntclr (s : State) : Out := if running s then .next (mempwrstWr s 0x10000 0x04) else .next s

/-- A memory power register, the number of its fields, and its ERR bit in MEMPWRST. -/
def pwrGet (s : State) : PwrReg → W64
  | .bank => s.mem.bankpwr | .sp0 => s.mem.sppwr0 | .sp1 => s.mem.sppwr1
  | .pin0 => s.mem.pinpwr0 | .pin1 => s.mem.pinpwr1 | .cs => s.mem.cspwr
def pwrSet (s : State) (r : PwrReg) (v : W64) : State :=
  modMemR s fun m => match r with
    | .bank => { m with bankpwr := v } | .sp0 => { m with sppwr0 := v } | .sp1 => { m with sppwr1 := v }
    | .pin0 => { m with pinpwr0 := v } | .pin1 => { m with pinpwr1 := v } | .cs => { m with cspwr := v }
def pwrFields : PwrReg → Nat
  | .bank => 17 | .cs => 16 | _ => 32
def pwrErrBit : PwrReg → Nat
  | .bank => 0 | .sp0 => 1 | .sp1 => 1 | .pin0 => 2 | .pin1 => 2 | .cs => 3

/-- A segment of either world covers a word of bank `b` (R327). -/
def bankCovered (s : State) (b : Nat) : Bool :=
  (s.segC.any fun p => (coverBanks p.2).contains b) || (s.segS.any fun p => (coverBanks p.2).contains b)

/-- Bank `b` is isolated (R334). -/
def bankIsolated (s : State) (b : Nat) : Bool := s.spare.isol && s.spare.bank == b

/-- The wheel that a field of SPPWR or PINPWR names. -/
def pwrWheel (r : PwrReg) (i : Nat) : Nat :=
  match r with
  | .sp1 | .pin1 => 32 + i
  | _ => i

/-- A wheel that keeps its memories ON (R340). -/
def wheelBusy (s : State) (w : Nat) : Bool :=
  !(framesOn s [w]).isEmpty || !(getWheel s w).parked || fld (getWheel s w).evcfg 0 32 != 0

/-- The refusals of one changed field (R340). -/
def pwrRefused (s : State) (r : PwrReg) (i old new : Nat) : Bool :=
  let leaves := old == 0 && new != 0
  new == 3 || !s.mem.trans.isEmpty ||
  (match r with
   | .bank =>
     if i = 16 then s.spare.st != .idle
     else leaves && ((bankCovered s i && !bankIsolated s i) ||
       ((s.spare.st == .copyin || s.spare.st == .copyback) && s.spare.bank == i))
   | .cs => leaves && (hasLoops s i || (millWheels i).any fun w => !(getWheel s w).parked)
   | .sp0 | .sp1 => leaves && wheelBusy s (pwrWheel r i)
   | .pin0 | .pin1 =>
     let w := pwrWheel r i
     leaves && (wheelBusy s w || (posOf w == 0 && (millWheels (millOf w)).any fun v => spField s v == 0)))

/-- The fields that a write changes. -/
def pwrChanges (r : PwrReg) (old new : W64) : List (Nat × Nat × Nat) :=
  ((List.range (pwrFields r)).map fun i => (i, fld old (2 * i) 2, fld new (2 * i) 2)).filter fun p => p.2.1 != p.2.2

/-- Transitions begin: the fields show the new states (R341). -/
def pwrStart (s : State) (r : PwrReg) (new : W64) (l : List (Nat × Nat × Nat)) : State :=
  modMemR (pwrSet s r new) fun m => { m with trans := m.trans ++ l.map fun p => ⟨r, p.1, p.2.1, p.2.2⟩ }

/-- A memory power register written (R340). -/
def pwrWrite (s : State) (r : PwrReg) (v : W64) (be : BitVec 8) : State :=
  let old := pwrGet s r
  let c := mergeRw (if pwrFields r = 17 then 0x3FFFFFFFF else if pwrFields r = 16 then 0xFFFFFFFF else BitVec.allOnes 64) old v be
  let l := pwrChanges r old c
  if l.any fun p => pwrRefused s r p.1 p.2.1 p.2.2 then
    modMemR s fun m => { m with errs := m.errs ||| (1#4 <<< pwrErrBit r) }
  else if l.isEmpty then s
  else pwrStart s r c l

/-- MEM_POWER_WRITE (R340, R341). -/
def execMemPowerWrite (r : PwrReg) (v : W64) (be : BitVec 8) (s : State) : Out :=
  if running s then .next (pwrWrite s r v be) else .next s

/-- The end of a transition: a memory that comes back from OFF is cleared (R341). -/
def transEnd (s : State) (t : PwrTrans) : State :=
  if t.old = 2 ∧ t.new = 0 then
    match t.reg with
    | .bank => clearBank s t.idx
    | .sp0 | .sp1 => clearSpad s (pwrWheel t.reg t.idx)
    | .pin0 | .pin1 => clearPinned s (pwrWheel t.reg t.idx)
    | .cs => clearCstore s t.idx
  else if t.old = 2 ∧ t.new = 1 then
    -- contents were lost in OFF (log 19)
    match t.reg with
    | .bank => clearBank s t.idx
    | .sp0 | .sp1 => clearSpad s (pwrWheel t.reg t.idx)
    | .pin0 | .pin1 => clearPinned s (pwrWheel t.reg t.idx)
    | .cs => clearCstore s t.idx
  else s

/-- The oldest transition in progress ends. -/
def transDone (s : State) : State :=
  match s.mem.trans with
  | [] => s
  | t :: l => transEnd (modMemR s fun m => { m with trans := l }) t

/-- MEM_POWER_TRANSITION_DONE (R341). -/
def execMemPowerTransitionDone (s : State) : Out := if unitsLive s then .next (transDone s) else .next s

/-! ### The spare bank -/

def spareCode : SpareSt → Nat
  | .idle => 0 | .copyin => 1 | .subst => 2 | .copyback => 3

/-- SPARECTL (R334). -/
def sparectlReg (s : State) : W64 :=
  let x := s.spare
  pk [(0, x.bank), (6, spareCode x.st), (8, b2n x.isol), (9, b2n x.err), (10, b2n x.done), (12, x.prog)]

def modSpare (s : State) (f : Spare → Spare) : State := { s with spare := f s.spare }
def spareErr (s : State) : State := modSpare s fun x => { x with err := true }

/-- The log entry of SPARECTL's new state, at each change of it (R509 type 0Ah, R519; log 20). -/
def spareLog (s : State) : State := logEntry s 0xA (s.spare.bank + 16 * spareCode s.spare.st) 0 0 s.spare.prog

/-- SUBSTITUTE (R335): bank 16 is set to ON if it is not. -/
def spareSubst (s : State) : State :=
  if s.spare.st = .idle ∧ bankOn s s.spare.bank = true then
    let old := fld s.mem.bankpwr 32 2
    let s := if old = 0 then s else pwrStart s .bank (setFld s.mem.bankpwr 32 2 0) [(16, old, 0)]
    spareLog (modSpare s fun x => { x with prog := 0, st := .copyin })
  else spareErr s

/-- RESTORE (R335). -/
def spareRestore (s : State) : State :=
  if s.spare.st = .subst ∧ bankOn s s.spare.bank = true then
    spareLog (modSpare s fun x => { x with prog := 0, isol := false, st := .copyback })
  else spareErr s

/-- ABORT (R335). -/
def spareAbortCmd (s : State) : State :=
  match s.spare.st with
  | .copyin => spareLog (modSpare s fun x => { x with st := .idle })
  | .copyback => spareLog (modSpare s fun x => { x with st := .subst, isol := true })
  | _ => spareErr s

/-- SPARECTL written: BANK is taken in IDLE, then the command acts (R334, R335). -/
def sparectlWr (s : State) (v : W64) (be : BitVec 8) : State :=
  let s := if bitOf be 1 then modSpare s fun x => { x with err := x.err && !bitOf v 9, done := x.done && !bitOf v 10 } else s
  if bitOf be 0 then
    let s := if s.spare.st = .idle then modSpare s fun x => { x with bank := fld v 0 4 } else s
    match fld v 4 2 with
    | 0 => s
    | 1 => spareSubst s
    | 2 => spareRestore s
    | _ => spareAbortCmd s
  else s

/-- SUBSTITUTE of a bank (R335). -/
def execSubstitute (bank : BitVec 4) (s : State) : Out :=
  if running s then .next (sparectlWr s (BitVec.ofNat 64 (bank.toNat + 0x10)) 1) else .next s

/-- RESTORE (R335). -/
def execRestore (s : State) : Out := if running s then .next (spareRestore s) else .next s

/-- ABORT of a copy (R335). -/
def execSpareAbort (s : State) : Out := if running s then .next (spareAbortCmd s) else .next s

/-- Words that the copier reads: a correctable one is written back corrected, and one that cannot be corrected is rewritten as
POISON (R329, R330, R336). -/
def copyPoison (s : State) (m : MemSel) (l : List Nat) : State :=
  forAll s l fun s a =>
    let s := noteRead s m a
    if isUe (getEcc s m a) then poisonWord s m a else setEcc s m a .ok

/-- One word of the answering bank copied to the other (R336). -/
def copyWord (s : State) (j : Nat) : State :=
  let a := s.spare.bank * 0x40000 + j
  match s.spare.st with
  | .copyin =>
    let s := copyPoison s .millpond [a]
    { s with spareRam := ramSet emptyW s.spareRam j ((ramRead emptyW s.mp a).getD poisonW) }
  | .copyback =>
    let s := copyPoison s .spare [j]
    { s with mp := ramSet emptyW s.mp a ((ramRead emptyW s.spareRam j).getD poisonW) }
  | _ => s

/-- The words of bank `b` from index `k` on copied to bank 16, corrected (R336). -/
def copyIn (s : State) (b k : Nat) : State :=
  let s := copyPoison s .millpond ((s.mp.ecc.filter fun p => inBank b p.1 && decide (k ≤ mpIdx p.1)).map (·.1))
  { s with spareRam :=
      { cells := tabBelow k s.spareRam.cells ++
          (s.mp.cells.filter fun p => inBank b p.1 && decide (k ≤ mpIdx p.1)).map fun p => (mpIdx p.1, p.2),
        ecc := tabBelow k s.spareRam.ecc } }

/-- The words of bank 16 from index `k` on copied back to bank `b`. -/
def copyBack (s : State) (b k : Nat) : State :=
  let s := copyPoison s .spare ((s.spareRam.ecc.filter fun p => decide (k ≤ p.1)).map (·.1))
  let keep (a : Nat) : Bool := !(inBank b a && decide (k ≤ mpIdx a))
  let cells := s.mp.cells.filter fun p => keep p.1
  { s with mp :=
      { cells := (s.spareRam.cells.filter fun p => decide (k ≤ p.1)).foldl (fun t p => tset emptyW t (b * 0x40000 + p.1) p.2) cells,
        ecc := s.mp.ecc.filter fun p => keep p.1 } }

/-- A copy goes on: both banks are ON (R335, R341). -/
def copyGoes (s : State) : Bool :=
  unitsLive s && (s.spare.st == .copyin || s.spare.st == .copyback) && bankOn s 16 && bankOn s s.spare.bank

/-- The copier's turn in one nanosecond: word PROG is copied unless a wheel asks for the bank; the last word is left to
SPARE_COPY_DONE (R336; log 95). -/
def copyTick (s : State) : State :=
  if copyGoes s && decide (s.spare.prog < 0x3FFFF) && (bankAskers s s.spare.bank).isEmpty then
    modSpare (copyWord s s.spare.prog) fun x => { x with prog := x.prog + 1 }
  else s

/-- The copy ends: the words from PROG on are copied, and the other bank takes over the offsets (R336, R337). -/
def spareDone (s : State) : State :=
  match s.spare.st with
  | .copyin =>
    spareLog (modSpare (copyIn s s.spare.bank s.spare.prog) fun x => { x with st := .subst, isol := true, done := true, prog := 0x40000 })
  | .copyback =>
    spareLog (modSpare (copyBack s s.spare.bank s.spare.prog) fun x => { x with st := .idle, done := true, prog := 0x40000 })
  | _ => s

/-- SPARE_COPY_DONE (R336, R337): both banks are ON. -/
def execSpareCopyDone (s : State) : Out := .next (if copyGoes s then spareDone s else s)

end Sys2Proof.Machine
end

