-- ==== Sys2Proof/Machine/Coding.lean ====
section
/-! DEFINITION. The coding of a lane: CRC-32C (R355), the scrambler (R350 step 3), RS(544,514) over GF(2^10) (R66, R350
step 4), and the 85 words of a block (R350 step 5). IEEE 802.3 clauses 49 and 119, which R66 and R350 name, give the
scrambler's steps, the field polynomial x^10 + x^3 + 1 and the roots of the generator (PRESUMED, log 33). -/

namespace Sys2Proof.Machine

/-! ### Bits, symbols and words -/

/-- The low `n` bits of a number, bit 0 first. -/
def bitsOf (n v : Nat) : List Bool := (List.range n).map fun i => v.testBit i

/-- A number from its bits, bit 0 first. -/
def ofBits (l : List Bool) : Nat := l.foldr (fun b v => b2n b + 2 * v) 0

/-- The first `k` groups of `n` bits, as numbers. -/
def groupsOf (n : Nat) : Nat → List Bool → List Nat
  | 0, _ => []
  | k + 1, l => ofBits (l.take n) :: groupsOf n k (l.drop n)

/-- A number as `n` bytes, the lowest first. -/
def leBytes : Nat → Nat → List Nat
  | 0, _ => []
  | n + 1, v => v % 256 :: leBytes n (v / 256)

/-! ### CRC-32C -/

/-- The Castagnoli polynomial in reflected form. -/
def crcPoly : Nat := 0x82F63B78

def crcBit (c : Nat) : Nat := if c % 2 = 1 then (c / 2) ^^^ crcPoly else c / 2

def crcByte (c b : Nat) : Nat := (List.range 8).foldl (fun c _ => crcBit c) (c ^^^ (b % 256))

/-- CRC-32C of a list of bytes (R355). -/
def crc32c (l : List Nat) : Nat := l.foldl crcByte 0xFFFFFFFF ^^^ 0xFFFFFFFF

/-! ### The scrambler -/

/-- One bit through the scrambler; the register holds the last 58 bits sent, the newest in bit 0. -/
def scrambleBit (p : BitVec 58 × List Bool) (b : Bool) : BitVec 58 × List Bool :=
  let o := b ^^ bitOf p.1 38 ^^ bitOf p.1 57
  ((p.1 <<< 1) ||| BitVec.ofNat 58 (b2n o), o :: p.2)

/-- The register after a list of bits, and the scrambled bits. -/
def scramble (r : BitVec 58) (l : List Bool) : BitVec 58 × List Bool :=
  let p := l.foldl scrambleBit (r, [])
  (p.1, p.2.reverse)

/-- The descrambler, whose register holds the last 58 bits received: each bit with those 39 and 58 before it. -/
def descramble (r : BitVec 58) (l : List Bool) : BitVec 58 × List Bool :=
  let h := (bitsOf 58 r.toNat).reverse ++ l
  let out := List.zipWith (fun b p => b ^^ p.1 ^^ p.2) l ((h.drop 19).zip h)
  (BitVec.ofNat 58 (ofBits (h.reverse.take 58)), out)

/-! ### GF(2^10) -/

/-- A product of polynomials over GF(2), by the low `k` bits of the second. -/
def clMul : Nat → Nat → Nat → Nat
  | 0, _, _ => 0
  | k + 1, a, b => ((b % 2) * a) ^^^ clMul k (2 * a) (b / 2)

/-- A round of reduction by x^10 = x^3 + 1. -/
def gfFold (r : Nat) : Nat := withVal (r / 1024) fun h => (r % 1024) ^^^ h ^^^ (8 * h)

/-- A product of two elements. -/
def gfMul (a b : Nat) : Nat := if a = 0 then 0 else withVal (clMul 10 a b) fun r => withVal (gfFold r) gfFold

/-- A power, by the bits of a 10-bit exponent from the highest. -/
def gfPow (a n : Nat) : Nat :=
  (List.range 10).foldl (fun r i => let q := gfMul r r
                                    if n.testBit (9 - i) then gfMul q a else q) 1

/-- The inverse of an element other than 0, by Fermat. -/
def gfInv (a : Nat) : Nat := gfPow a 1022

/-- α to a power. -/
def gfExp (n : Nat) : Nat := gfPow 2 (n % 1023)

/-! Polynomials, the coefficient of x^0 first. -/

def polyAdd : List Nat → List Nat → List Nat
  | [], q => q
  | p, [] => p
  | a :: p, b :: q => (a ^^^ b) :: polyAdd p q

def polyScale (c : Nat) (p : List Nat) : List Nat := p.map (gfMul c)

def polyMul : List Nat → List Nat → List Nat
  | [], _ => []
  | a :: p, q => polyAdd (polyScale a q) (0 :: polyMul p q)

def polyEval (p : List Nat) (x : Nat) : Nat := p.foldr (fun a v => a ^^^ gfMul v x) 0

/-! ### RS(544,514) -/

/-- The generator, with roots α^0 to α^29. -/
def rsGen : List Nat := (List.range 30).foldl (fun g j => polyMul g [gfExp j, 1]) [1]

/-- One message symbol through the encoder's register, whose highest coefficient comes first; `g` is the generator
without its leading 1, the highest coefficient first. -/
def rsStep (g r : List Nat) (m : Nat) : List Nat :=
  let f := m ^^^ r.headD 0
  List.zipWith (fun a c => a ^^^ gfMul f c) (r.drop 1 ++ [0]) g

/-- The 30 check symbols of a message, in the order in which they are sent. -/
def rsCheck (l : List Nat) : List Nat :=
  let g := (rsGen.take 30).reverse
  l.foldl (rsStep g) (List.replicate 30 0)

/-- A codeword: 514 message symbols, then the check symbols (R350 step 4). -/
def rsEncode (l : List Nat) : List Nat := l ++ rsCheck l

/-- A received word at `x`, its first symbol having the highest power; each step's value is formed before the next. -/
def wordAt (x : Nat) : List Nat → Nat → Nat
  | [], v => v
  | a :: l, v => withVal (gfMul v x ^^^ a) (wordAt x l)

/-- The 30 syndromes of a received word. -/
def rsSyndromes (c : List Nat) : List Nat := (List.range 30).map fun j => withVal (gfExp j) fun x => wordAt x c 0

/-- The state of the Berlekamp-Massey steps: locator, the locator before its last change of length, that length, the
discrepancy then, and the steps since. -/
structure BmState where
  loc : List Nat
  old : List Nat
  len : Nat
  disc : Nat
  gap : Nat

/-- Step `n`. -/
def bmStep (syn : List Nat) (b : BmState) (n : Nat) : BmState :=
  let d := (List.range (b.len + 1)).foldl (fun v i => v ^^^ gfMul (nth 0 b.loc i) (nth 0 syn (n - i))) 0
  if d = 0 then { b with gap := b.gap + 1 }
  else
    let t := polyAdd b.loc (polyScale (gfMul d (gfInv b.disc)) (List.replicate b.gap 0 ++ b.old))
    if 2 * b.len ≤ n then ⟨t, b.loc, n + 1 - b.len, d, 1⟩ else { b with loc := t, gap := b.gap + 1 }

/-- The error locator of the syndromes, and its degree. -/
def rsLocator (syn : List Nat) : List Nat × Nat :=
  let b := (List.range 30).foldl (bmStep syn) ⟨[1], [1], 0, 1, 1⟩
  (b.loc, b.len)

/-- The formal derivative: the odd coefficients, one place lower. -/
def polyDeriv (p : List Nat) : List Nat := (p.zipIdx.map fun q => if q.2 % 2 = 1 then q.1 else 0).drop 1

/-- The powers at which the locator has its roots' inverses: the places of the errors. -/
def rsPlaces (loc : List Nat) : List Nat := (List.range 544).filter fun i => polyEval loc (gfExp (1023 - i)) == 0

/-- The received word with the error at each place removed (Forney). -/
def rsCorrect (c syn loc : List Nat) (places : List Nat) : List Nat :=
  let om := (polyMul syn loc).take 30
  let dv := polyDeriv loc
  places.foldl (fun c i =>
    let x := gfExp (1023 - i)
    let e := gfMul (gfExp i) (gfMul (polyEval om x) (gfInv (polyEval dv x)))
    setNth c (543 - i) (nth 0 c (543 - i) ^^^ e)) c

/-- Decoding with correction of up to 15 symbols: the corrected word and whether a symbol was corrected; none for an
uncorrectable word (R66). -/
def rsDecode (c : List Nat) : Option (List Nat × Bool) :=
  let syn := rsSyndromes c
  if syn.all (· == 0) then some (c, false)
  else
    let (loc, n) := rsLocator syn
    let places := rsPlaces loc
    if 15 < n ∨ places.length ≠ n then none
    else
      let c := rsCorrect c syn loc places
      if (rsSyndromes c).all (· == 0) then some (c, true) else none

/-! ### Blocks (R350, R351) -/

/-- The 5,140 bits of message `k` of a block of 1,280 bytes: the codeword header, then 640 bytes. -/
def messageBits (k : Bool) (blkcnt : BitVec 7) (blk : List Nat) : List Bool :=
  bitsOf 20 (b2n k + 2 * blkcnt.toNat) ++ ((blk.drop (640 * b2n k)).take 640).flatMap (bitsOf 8)

/-- A scrambled message as the bits of its codeword. -/
def codewordBits (m : List Bool) : List Bool := (rsEncode (groupsOf 10 514 m)).flatMap (bitsOf 10)

/-- The 85 words of a block, and the scrambler's register after it. -/
def blockWords (r : BitVec 58) (blkcnt : BitVec 7) (blk : List Nat) : BitVec 58 × List (BitVec 128) :=
  let (r, a) := scramble r (messageBits false blkcnt blk)
  let (r, b) := scramble r (messageBits true blkcnt blk)
  (r, (groupsOf 128 85 (codewordBits a ++ codewordBits b)).map (BitVec.ofNat 128 ·))

/-- One codeword through the receiver's stages; an uncorrectable one passes its bits as they came to the descrambler. -/
def receiveCodeword (r : BitVec 58) (l : List Bool) : BitVec 58 × CodewordIn :=
  let c := groupsOf 10 544 l
  let d := rsDecode c
  let m := (((d.map (·.1)).getD c).take 514).flatMap (bitsOf 10)
  let (r, m) := descramble r m
  (r, ⟨d.isSome, (d.map (·.2)).getD false, nth false m 0, BitVec.ofNat 7 (ofBits ((m.drop 1).take 7))⟩)

/-- The two codewords of 85 received words, and the descrambler's register after them. -/
def receiveBlock (r : BitVec 58) (ws : List (BitVec 128)) : BitVec 58 × CodewordIn × CodewordIn :=
  let bits := (List.range 85).flatMap fun i => bitsOf 128 (nth 0 ws i).toNat
  let (r, a) := receiveCodeword r (bits.take 5440)
  let (r, b) := receiveCodeword r (bits.drop 5440)
  (r, a, b)

end Sys2Proof.Machine
end

