-- ==== Sys2Proof/Machine/Ring.lean ====
section
/-! DEFINITION. The intent ring: acceptance and flooding of its frames (R388 to R392), membership and the election
(R395, R399, R409), steering (R396, R397), joining (R398), publications and ring leats (R112, R400, R401), and intents
(R405, R406). -/

namespace Sys2Proof.Machine

/-! ### Configuration -/

def ringMember (s : State) : Nat := fld s.ring.cfg 0 5
def ringJoined (s : State) : Bool := bitOf s.ring.cfg 5
def ringTkok (s : State) : Bool := bitOf s.ring.cfg 6
def ringJoining (s : State) : Bool := s.ring.joinAt.isSome

/-- The complex's own member number is in use: it is joined or joining. -/
def ringNamed (s : State) : Bool := ringJoined s || ringJoining s

/-- Lane 2 or 3 by the Boolean that a ring frame's row and its LANE field use. -/
def ringLane (k : Bool) : Nat := if k then 3 else 2

/-- RINGMEMi (R403). -/
def hopMin (m : RingMem) : Nat :=
  match m.hop2, m.hop3 with
  | some a, some b => min a b
  | some a, none => a
  | none, some b => b
  | none, none => 0

def ringmemReg (s : State) (i : Nat) : W64 :=
  let m := getMem s i
  if hasRing s then
    pk [(0, m.pseq.toNat), (8, m.gaps), (16, m.lost), (24, b2n (bitOf s.ring.present i)), (25, hopMin m % 32), (32, m.lastns.toNat)]
  else 0

/-- The link ends of member `i` that are not UP, as its MEMBER frames report them; the complex's own while it is joined or
joining. -/
def endsDown (s : State) (i : Nat) : Nat :=
  if ringNamed s ∧ i = ringMember s then b2n (!laneUp s 2) + b2n (!laneUp s 3)
  else if bitOf s.ring.present i then b2n (!(getMem s i).up2) + b2n (!(getMem s i).up3)
  else 0

/-- The link ends of the segment that are not UP. -/
def segmentEndsDown (s : State) : Nat := ((List.range 32).map (endsDown s)).sum

/-- RINGSTAT.BROKEN (R409). -/
def ringBroken (s : State) : Bool := segmentEndsDown s != 0

/-- RINGSTAT (R411) and RINGCNT (R412). -/
def ringstatReg (s : State) : W64 :=
  let r := s.ring
  if hasRing s then
    pk [(0, r.present.toNat), (32, r.tkeeper), (37, r.tkhops), (42, b2n r.talign), (43, b2n (ringBroken s)),
        (44, b2n r.stepped), (48, r.late), (56, r.repl)]
  else 0

def ringcntReg (s : State) : W64 :=
  if hasRing s then pk [(0, s.ring.intents), (32, s.ring.disc), (48, s.ring.wire)] else 0

/-! ### Lane headers -/

/-- A frame's acceptance on a lane (R356): CRCERR for a bad one; GOOD, and SEQERR for a gap, otherwise. -/
def laneAccept (s : State) (k : Nat) (good : Bool) (seq : BitVec 16) : State :=
  modLane s k fun l =>
    if good then
      let gap := match l.rxSeq with
        | some p => seq != p + 1
        | none => false
      { l with good := (l.good + 1) % 0x100000000, seqerr := if gap then satInc 0xFFFF l.seqerr else l.seqerr, rxSeq := some seq }
    else { l with crcerr := satInc 0xFFFF l.crcerr }

/-- A ring frame's header: the state, and whether the frame is taken (R356, R388). -/
def ringAccept (s : State) (k : Bool) (h : RingHdr) : State × Bool :=
  let L := ringLane k
  if running s && hasRing s && laneUp s L then
    let s := laneAccept s L h.good h.seq
    if !h.good then (s, false)
    else if h.lane == k then (modRing s fun r => { r with wire := satInc 0xFF r.wire }, false)
    else (s, true)
  else (s, false)

/-- A frame queued on a ring lane that transmits. -/
def ringQueue (s : State) (L : Nat) (x : LaneTx) : State :=
  modLane s L fun l => if l.txen then { l with rq := l.rq ++ [x] } else l

/-- An accepted frame leaves on the other lane with HOP one higher (R392). -/
def ringForward (s : State) (k : Bool) (h : RingHdr) (x : Nat → LaneTx) : State :=
  if (ringNamed s && h.origin.toNat == ringMember s) || h.hop.toNat ≥ 31 then s
  else ringQueue s (ringLane (!k)) (x (h.hop.toNat + 1))

/-- A frame that the complex originates goes out in both directions (R388). -/
def ringEmit (s : State) (x : LaneTx) : State := ringQueue (ringQueue s 2 x) 3 x

/-- Newer within half the sequence range (R392). -/
def newer (w : Nat) (new : BitVec w) (old : Option (BitVec w)) : Bool :=
  match old with
  | none => true
  | some p => new != p && decide ((new - p).toNat < 2 ^ (w - 1))

/-! ### Election and presence -/

/-- Position of a member on the line, with the complex at 0: lane 2 leads downward, lane 3 upward. -/
def ringPos (s : State) (i : Nat) : Int :=
  if i = ringMember s then 0
  else
    match (getMem s i).hop3, (getMem s i).hop2 with
    | some a, none => a
    | none, some b => -(b : Int)
    | some a, some b => if a < b then a else -(b : Int)
    | none, none => 0

/-- The members of the segment: those present, the complex among them while it is joined. -/
def ringSegment (s : State) : List Nat := (List.range 32).filter fun i => bitOf s.ring.present i

def memTkok (s : State) (i : Nat) : Bool := if i = ringMember s ∧ ringJoined s = true then ringTkok s else (getMem s i).tkok

/-- The longer of a member's hop counts to the two ends of the line (R395). -/
def endHops (s : State) (l : List Nat) (i : Nat) : Nat :=
  let p := ringPos s i
  (l.foldl (fun m j => max m (ringPos s j - p).natAbs) 0)

/-- The first of a list that is least by a measure. -/
def leastBy (f : Nat → Nat) : List Nat → Option Nat
  | [] => none
  | a :: t =>
    match leastBy f t with
    | none => some a
    | some b => if f a ≤ f b then some a else some b

/-- The timekeeper of the segment (R395). -/
def ringElect (s : State) : Option Nat :=
  let l := ringSegment s
  let tk := l.filter (memTkok s)
  if tk.isEmpty then l.head?
  else if ringBroken s then leastBy (endHops s l) tk
  else tk.head?

/-- Fewest hops to a member; 0 to the complex itself. -/
def ringHops (s : State) (i : Nat) : Nat := if ringNamed s ∧ i = ringMember s then 0 else hopMin (getMem s i)

/-- TALIGN changes: a fall raises event 45 (R397). -/
def setAlign (s : State) (a : Bool) : State :=
  let s1 := modRing s fun r => { r with talign := a }
  if s.ring.talign && !a then raiseRouted s1 45 0 else s1

/-- The partition of R409, as a member knows it: three ends of links that are not UP belong to two links; `gone` and `back` say
that a member's presence has ended behind a break, or has returned (log 97). -/
def notePart (s : State) (gone back : Bool) : State :=
  let n := segmentEndsDown s
  modRing s fun r => { r with parted := n != 0 && (decide (3 ≤ n) || gone || (r.parted && !back)) }

/-- The election is held again (R395). A timekeeper is aligned with itself and runs free; in a parted ring no member is
aligned (R409). -/
def ringReelect (s : State) : State :=
  match ringElect s with
  | none => modRing s fun r => { r with tkeeper := 0, tkhops := 0 }
  | some t =>
    let h := ringHops s t
    let self := ringJoined s && t == ringMember s
    let s := modRing s fun r => { r with tkeeper := t, tkhops := h, rate := if self then 0 else r.rate }
    if s.ring.parted || (!self && decide (h > 16)) then setAlign s false
    else if self then setAlign s true else s

/-- PRESENT changes: event 44 with the new mask (R399). -/
def setPresent (s : State) (p : W32) : State :=
  if p = s.ring.present then s
  else raiseRouted (modRing s fun r => { r with present := p }) 44 p.toNat

/-! ### Joining -/

/-- RING_JOIN ends without joining: RINGCFG and the binding table take their reset values (R398). -/
def ringJoinEnd (s : State) (status detail : Nat) : State :=
  match s.ring.joinAt with
  | none => s
  | some slot =>
    let s := modRing s fun r => { r with joinAt := none, cfg := 0, bind := [], near := false, clash := false }
    finish s .c slot status detail [ringstatReg s, BitVec.ofNat 64 (nth 0 (getSlot s .c slot).aux 0)]

/-- Every member that a present member reports as present has itself been heard: the members that can be reached (R391, R398). -/
def ringAllHeard (s : State) : Bool :=
  (ringSegment s).all fun i => (getMem s i).sees &&& ~~~ s.ring.present == 0

/-- The three conditions of R398 hold; `alone` says that the members that can be reached are none. -/
def ringJoinReady (s : State) (alone : Bool) : Bool :=
  (laneUp s 2 || laneUp s 3) && !s.ring.clash && ringAllHeard s && (if s.ring.present = 0 then alone else s.ring.near)

/-- The join completes: JOINED becomes 1, the own PRESENT bit sets, and the 2 µs of every member count from here. -/
def ringJoinDone (s : State) : State :=
  match s.ring.joinAt with
  | none => s
  | some slot =>
    let now := s.ring_time.ns
    let s := modRing s fun r => { r with joinAt := none, cfg := setFld r.cfg 5 1 1, near := false }
    let s := forAll s (List.range 32) fun s i => modMem s i fun m =>
      { m with pubAt := now, known := bitOf s.ring.present i, silent := false }
    let s := ringReelect (setPresent s (s.ring.present ||| (1#32 <<< ringMember s)))
    finish s .c slot 0 0 [ringstatReg s, BitVec.ofNat 64 (nth 0 (getSlot s .c slot).aux 0)]

/-- RING_JOIN goes on: it is refused for a used number, and completes once its conditions hold. -/
def ringJoinStep (s : State) (alone : Bool) : State :=
  if ringJoining s then
    if s.ring.clash then ringJoinEnd s 2 2
    else if ringJoinReady s alone then ringJoinDone s
    else s
  else s

/-- RING_JOIN_TIMEOUT: 20 ms have passed (R398). -/
def execRingJoinTimeout (s : State) : Out := if running s then .next (ringJoinEnd s 8 0) else .next s

/-! ### MEMBER frames -/

/-- The complex's MEMBER frame (R391, R399). -/
def sendMember (s : State) : State :=
  if ringJoined s then
    let q := s.ring.mseq + 1
    let r := s.ring
    let s := modMem (modRing s fun r => { r with mseq := q }) (ringMember s) fun m => { m with mseq := some q }
    ringEmit s (.member (ringMember s) s.capsId (ringTkok s) (laneUp s 2) (laneUp s 3) r.tkeeper r.tkhops q r.present 0)
  else s

/-- MEMBER_FRAME_SEND (R399). -/
def execMemberFrameSend (s : State) : Out := if running s && hasRing s then .next (sendMember s) else .next s

/-- A hop count stands for 250 µs after the copy that showed it, as presence does (R399; log 97). -/
def hopStands (now at_ : W64) (h : Option Nat) : Option Nat := if (now - at_).toNat > 250000 then none else h

/-- The hop count that a copy shows on its lane (R388). -/
def noteHop (m : RingMem) (k : Bool) (n : Nat) (now : W64) : RingMem :=
  if k then { m with hop3 := some n, hopAt3 := now, hop2 := hopStands now m.hopAt2 m.hop2 }
  else { m with hop2 := some n, hopAt2 := now, hop3 := hopStands now m.hopAt3 m.hop3 }

/-- An accepted MEMBER frame of another member (R392, R395, R399). -/
def memberIn (s : State) (k : Bool) (h : RingHdr) (tkok up2 up3 : Bool) (mseq : BitVec 8) (present : W32)
    (fwd : Nat → LaneTx) : State :=
  let o := h.origin.toNat
  let n := h.hop.toNat + 1
  let now := s.ring_time.ns
  if newer 8 mseq (getMem s o).mseq then
    let s := modMem s o fun m =>
      noteHop { m with mseq := some mseq, tkok := tkok, up2 := up2, up3 := up3, known := true, sees := present } k n now
    let back := !bitOf s.ring.present o
    let s := ringReelect (notePart (setPresent s (s.ring.present ||| (1#32 <<< o))) false back)
    ringJoinStep (ringForward s k h fwd) false
  else if (getMem s o).mseq = some mseq then ringReelect (modMem s o fun m => noteHop m k n now)
  else s

/-- RING_MEMBER_FRAME (R391, R392, R398, R399): a joining member's own number in use ends the join. -/
def execRingMemberFrame (k : Bool) (h : RingHdr) (capsId : W64) (tkok up2 up3 : Bool) (tkeeper tkhops : BitVec 5)
    (mseq : BitVec 8) (present : W32) (s : State) : Out :=
  let (s, ok) := ringAccept s k h
  if ok then
    let o := h.origin.toNat
    if ringJoining s && o == ringMember s then .next (ringJoinStep (modRing s fun r => { r with clash := true }) false)
    else if ringJoined s && o == ringMember s then .next s
    else .next (memberIn s k h tkok up2 up3 mseq present
      fun n => .member o capsId tkok up2 up3 tkeeper.toNat tkhops.toNat mseq present n)
  else .next s

/-- MEMBER_PRESENCE_EXPIRY: 250 µs without a MEMBER frame (R399); a member lost behind a break divides the ring (R409). -/
def execMemberPresenceExpiry (i : Fin 32) (s : State) : Out :=
  if running s && hasRing s && bitOf s.ring.present i && !(ringJoined s && ringMember s == i.val) then
    let s := modMem s i fun m => { m with hop2 := none, hop3 := none }
    let s := setPresent s (s.ring.present &&& ~~~ (1#32 <<< i.val))
    .next (ringReelect (notePart s true false))
  else .next s

/-- A ring lane has come into or out of UP (R395, R399). -/
def ringLink (s : State) (L : Nat) : State :=
  let s := if laneUp s L then s
    else forAll s (List.range 32) fun s i => modMem s i fun m => if L = 2 then { m with hop2 := none } else { m with hop3 := none }
  ringJoinStep (sendMember (ringReelect (notePart s false false))) false

/-! ### Steering -/

/-- The lane toward the timekeeper: the one with fewer hops, lane 2 when equal (R396). -/
def steerLane (s : State) : Nat :=
  match (getMem s s.ring.tkeeper).hop2, (getMem s s.ring.tkeeper).hop3 with
  | some a, some b => if b < a then 3 else 2
  | none, some _ => 3
  | _, _ => 2

/-- At most 1 ns per 10 µs of slew (R361, R397). -/
def mayStep (s : State) : Bool :=
  match s.twin.slewAt with
  | none => true
  | some t => decide ((s.ring_time.ns - t).toNat ≥ 10000)

def slewNow (s : State) (d : Int) : State :=
  if d ≠ 0 ∧ mayStep s = true then modTwin (slewTime s d) fun t => { t with slewAt := some s.ring_time.ns } else s

/-- 100 parts in a million, in 2^-32 ns for each ns: what two references within ±50 ppm differ by at most (R396). -/
def ratePpm : Int := 429497

/-- The steering takes one offset (R396, R397): a step or a slew in phase, and the rate; the lock counts from the first
offset within ±2 ns. -/
def ringSteer (s : State) (d : Int) : State :=
  let near := decide (d.natAbs ≤ 2 * 65536)
  let s := if d.natAbs > 20 * 65536 then stepTime s d else slewNow s d
  let now := s.ring_time.ns
  modRing s fun r =>
    { r with rate := max (-ratePpm) (min ratePpm (Config.steerRate r.rate d)),
             lockAt := if near then some (r.lockAt.getD now) else none,
             near := near || decide (d.natAbs > 20 * 65536) }

/-- The steering has been locked for 2 ms (R396). -/
def ringLocked (s : State) : Bool :=
  match s.ring.lockAt with
  | some t => decide ((s.ring_time.ns - t).toNat ≥ 2000000)
  | none => false

/-- RING_TIME_FRAME (R396, R397): a member other than the timekeeper steers toward its neighbour. -/
def execRingTimeFrame (k : Bool) (h : RingHdr) (t1 t2 t3 t4 : RingStamp) (s : State) : Out :=
  let (s, ok) := ringAccept s k h
  let L := ringLane k
  if ok then
    let s := modLane s L fun l => { l with lastT := some (t1, stampCut t4) }
    let self := ringJoined s && s.ring.tkeeper == ringMember s
    if ringNamed s && !self && s.ring.present != 0 && L == steerLane s then
      let s := ringSteer s (timeOffset t1 t2 t3 (stampCut t4))
      let s := if ringJoined s then setAlign s (ringLocked s && decide (s.ring.tkhops ≤ 16) && !s.ring.parted) else s
      .next (ringJoinStep s false)
    else .next s
  else .next s

/-- RING_TIME_FRAME_SEND: each ring lane in UP has a TIME frame due (R393). -/
def execRingTimeFrameSend (s : State) : Out :=
  if running s && hasRing s then
    .next (forAll s [2, 3] fun s k => if laneUp s k then modLane s k fun l => { l with timeDue := true } else s)
  else .next s

/-- RING_IDLE_FRAME (R392). -/
def execRingIdleFrame (k : Bool) (h : RingHdr) (s : State) : Out := .next (ringAccept s k h).1

/-! ### Publications -/

/-- A ring leat word (R112): SAMPLE or POISON. -/
def ringWord (v : BitVec 16) (fail : Bool) (seq : BitVec 8) : TWord :=
  leatWordOf (BitVec.ofNat 32 (v.toNat + 0x10000 * b2n fail + 0x100000 * seq.toNat))

/-- The four ring leats of a member are posted (R401). -/
def postRing (s : State) (i : Nat) (vals : List (BitVec 16)) (fails : BitVec 4) (seq : BitVec 8) : State :=
  forAll s (List.range 4) fun s j => pushOcc s true (256 + 4 * i + j) (ringWord (nth 0 vals j) (bitOf fails j) seq)

/-- RING_PUBLISH_FRAME (R392, R401). -/
def execRingPublishFrame (k : Bool) (h : RingHdr) (ptime : W64) (pseq : BitVec 8) (vals : List (BitVec 16))
    (fails : BitVec 4) (s : State) : Out :=
  let (s, ok) := ringAccept s k h
  let o := h.origin.toNat
  if ok && newer 8 pseq (getMem s o).pacc then
    let now := s.ring_time.ns
    let f (m : RingMem) : RingMem :=
      let gap := match m.pacc with
        | some p => pseq != p + 1
        | none => false
      { m with pseq := pseq, pacc := some pseq, gaps := if gap then satInc 0xFF m.gaps else m.gaps,
               lastns := now.setWidth 32, pubAt := now, silent := false }
    let s := postRing (modMem s o f) o vals fails pseq
    .next (ringForward s k h fun n => .publish o ptime pseq vals fails n)
  else .next s

/-- A published value and its FAIL bit (R400). -/
def pubValue (s : State) (j : Nat) : BitVec 16 × Bool :=
  if bitOf s.ring.cfg (40 + j) then
    let l := getLeat s (fld s.ring.cfg (8 + 8 * j) 8)
    (l.last, l.lastFail || !l.seen || decide ((s.ring_time.ns - l.lastNs).toNat > 1000))
  else (0, true)

/-- PUBLISH_EMIT at ring time 1,000 k ns (R400). -/
def execPublishEmit (s : State) : Out :=
  if running s && hasRing s && ringJoined s then
    let k := s.ring_time.ns.toNat / 1000
    let q := BitVec.ofNat 8 k
    let l := (List.range 4).map (pubValue s)
    let fails := BitVec.ofNat 4 ((l.zipIdx.map fun p => b2n p.1.2 * 2 ^ p.2).foldl (· + ·) 0)
    let m := ringMember s
    let s := modMem s m fun x => { x with pacc := some q }
    let s := ringEmit s (.publish m (BitVec.ofNat 64 (1000 * k)) q (l.map (·.1)) fails 0)
    .next (postRing s m (l.map (·.1)) fails q)
  else .next s

/-- PUBLICATION_LOST: 2 µs without a publication of a member present since the join, with event 46; then the same words every
1 µs (R401). -/
def execPublicationLost (i : Fin 32) (s : State) : Out :=
  let m := getMem s i
  if running s && hasRing s && ringJoined s && ringMember s != i.val && m.known &&
      decide ((s.ring_time.ns - m.pubAt).toNat ≥ 2000) then
    let s := modMem s i fun m =>
      { m with lost := if m.silent then m.lost else satInc 0xFF m.lost, pubAt := m.pubAt + 1000, silent := true }
    let s := postRing s i [] 0xF m.pseq
    .next (if m.silent then s else raiseRouted s 46 i.val)
  else .next s

/-! ### Intents -/

/-- An accepted intent is counted, and staged while the complex is joined (R406, R412). -/
def intentIn (s : State) (i : Intent) : State :=
  let s := modRing s fun r => { r with intents := (r.intents + 1) % 0x100000000 }
  if ringJoined s then stageIntent s i else s

/-- RING_INTENT_FRAME (R392, R406). -/
def execRingIntentFrame (k : Bool) (h : RingHdr) (i : Intent) (s : State) : Out :=
  let (s, ok) := ringAccept s k h
  let o := h.origin.toNat
  let i := { i with origin := h.origin }
  if ok && newer 16 i.iseq (getMem s o).iseq then
    let s := modMem s o fun m => { m with iseq := some i.iseq }
    .next (ringForward (intentIn s i) k h fun n => .intent i n)
  else .next s

end Sys2Proof.Machine
end

