-- ==== Sys2Proof/Machine/Lane.lean ====
section
/-! DEFINITION. The lanes: their registers and lock states (R350 to R354, R389), the frame slots that they fill (R355,
R363, R393), the bytes of the frames (R355 to R361, R390, R391) and the words of LANE_TXDk (R65, R350). -/

namespace Sys2Proof.Machine

/-- A millrace lane has come into or out of UP: event 42; a lane that returns after both complexes have declared each
other lost starts the HELLO exchange (R380, R381). -/
def raceLink (s : State) (k : Nat) : State :=
  let up := laneUp s k
  let s := raiseRouted s 42 (k + 2 * b2n up)
  let s := if up && s.twin.peerLost && joinedRole s.twin.role && s.twin.joinAt.isNone then sendMsg s .hello else s
  joinAdvance s

/-- The lane after a change of its lock state; `was` says that it was in UP. -/
def laneMoved (s : State) (k : Nat) (was : Bool) : State :=
  if laneUp s k = was then s else if k < 2 then raceLink s k else ringLink s k

/-- A lane enters WAITLOCK, and HUNT where LANE_RXLOCK is 1 (R352). -/
def lanePark (l : Lane) : Lane :=
  { l with st := if l.rxlock then .hunt else .waitlock, hunt := 0, lastBlk := none, bad := 0 }

/-- A write of LANECTLk: EN, RETRAIN and CNTCLR, or its refusal (R353, R354, R389); on an absent lane the write is
refused with ERR, and its registers still read 0 (R14, R15). -/
def lanectlWr (s : State) (k : Nat) (en retrain clr : Bool) : State :=
  let only := decide (k < 2) && laneUp s k && !laneUp s (1 - k) && s.twin.role != .simplex
  if !hasLane s k || ((retrain || !en) && only) then modLane s k fun l => { l with err := true }
  else
    let was := laneUp s k
    let s := modLane s k fun l =>
      if en then
        let l := if l.st = .off then lanePark l else l
        { l with en := true, txen := l.st != .retrain }
      else { l with en := false, txen := false, st := if l.st = .retrain then .retrain else .off, rq := [] }
    let s := if retrain then modLane s k fun l => { l with st := .retrain, txen := false, hunt := 0, lastBlk := none, bad := 0 } else s
    let s := if clr then modLane s k fun l => { l with corr := 0, uncorr := 0, good := 0, crcerr := 0, seqerr := 0 } else s
    laneMoved s k was

/-- LANECTL_WRITE: a write of EN (R353). -/
def execLanectlWrite (k : Fin 4) (en : Bool) (s : State) : Out :=
  if running s && !laneHeld s k then .next (lanectlWr s k en false false) else .next s

/-- LANE_RETRAIN: RETRAIN is written as 1, EN as it stands (R352). -/
def execLaneRetrain (k : Fin 4) (s : State) : Out :=
  if running s && !laneHeld s k then .next (lanectlWr s k (getLane s k).en true false) else .next s

/-- LANECTL_CNTCLR (R353): a write of CNTCLR with EN as it stands. -/
def execLanectlCntclr (k : Fin 4) (s : State) : Out :=
  if running s && !laneHeld s k then .next (lanectlWr s k (getLane s k).en false true) else .next s

/-- RETRAIN_END: after 1,024 cycles LANE_TXEN follows EN and the lane enters WAITLOCK (R352). -/
def execRetrainEnd (k : Fin 4) (s : State) : Out :=
  if running s && !laneHeld s k && (getLane s k).st == .retrain then
    .next (modLane s k fun l => { lanePark l with txen := l.en })
  else .next s

/-- LANE_RXLOCK_CHANGE (R352). -/
def execLaneRxlockChange (k : Fin 4) (level : Bool) (s : State) : Out :=
  if running s && hasLane s k && !rxHeld s k then
    let was := laneUp s k
    let s := modLane s k fun l =>
      let l := { l with rxlock := level }
      match l.st with
      | .waitlock => if level then lanePark l else l
      | .hunt | .up => if level then l else lanePark l
      | _ => l
    .next (laneMoved s k was)
  else .next s

/-- A block decodes as R352 asks while hunting. -/
def blockGood (m0 m1 : CodewordIn) : Bool := m0.ok && m1.ok && !m0.phase && m1.phase && m0.blkcnt == m1.blkcnt

/-- One block of the offset under test (R352): with an uncorrectable codeword the test goes on to the next offset; else it
stays, and the eighth good block in a row brings the lane UP (log 113). -/
def huntBlock (l : Lane) (m0 m1 : CodewordIn) : Lane :=
  if m0.ok && m1.ok then
    let next := match l.lastBlk with
      | some b => m0.blkcnt == b + 1
      | none => false
    let n := if blockGood m0 m1 then (if next then l.hunt + 1 else 1) else 0
    if n ≥ 8 then { l with st := .up, hunt := 0, lastBlk := none, bad := 0 }
    else { l with hunt := n, lastBlk := if blockGood m0 m1 then some m0.blkcnt else none }
  else { l with blkpos := (l.blkpos + 1) % 85, hunt := 0, lastBlk := none }

/-- One codeword of a lane in UP (R352, R353). -/
def upCodeword (l : Lane) (m : CodewordIn) : Lane :=
  if l.st = .up then
    if m.ok then { l with bad := 0, corr := if m.corrected then satInc 0xFFFFFFFF l.corr else l.corr }
    else
      let l := { l with uncorr := satInc 0xFFFF l.uncorr, bad := l.bad + 1 }
      if l.bad ≥ 4 then { l with st := .hunt, hunt := 0, lastBlk := none, bad := 0 } else l
  else l

/-- LANE_BLOCK_RECEIVE (R65, R350, R352): the 85 words of LANE_RXDk from word offset `pos`, the first and the 84 after
it; a lane takes those of its own offset. -/
def execLaneBlockReceive (k : Fin 4) (pos : BitVec 7) (first : BitVec 128) (words : List (BitVec 128)) (s : State) : Out :=
  if running s && hasLane s k && !rxHeld s k && decide ((getLane s k).blkpos = pos.toNat) then
    let was := laneUp s k
    let (r, m0, m1) := receiveBlock (getLane s k).dscr (first :: words)
    let s := modLane s k fun l =>
      match l.st with
      | .hunt => { huntBlock l m0 m1 with dscr := r }
      | .up => { upCodeword (upCodeword l m0) m1 with dscr := r }
      | _ => l
    .next (laneMoved s k was)
  else .next s

/-! ### Transmission -/

/-- TYPE of a frame (R357, R391). -/
def txType : LaneTx → Nat
  | .idle => 0 | .duty _ => 1 | .state _ => 2 | .control _ _ _ => 3 | .copy _ _ => 5 | .time _ _ _ => 4
  | .intent _ _ => 1 | .publish _ _ _ _ _ _ => 2 | .member _ _ _ _ _ _ _ _ _ _ => 4

/-- ORIGIN and HOP of a ring frame (R390): its own, or the sender's number and 0. -/
def txFrom (s : State) : LaneTx → Nat × Nat
  | .intent i h => (i.origin.toNat, h)
  | .publish o _ _ _ _ h => (o, h)
  | .member o _ _ _ _ _ _ _ _ h => (o, h)
  | _ => (ringMember s, 0)

/-- The header of a race frame as it is formed (R355): HB and HBOK, ROLE, LANE, TRACK and DSEL are the sender's. -/
def raceHeader (s : State) (k : Nat) (seq : BitVec 16) (x : LaneTx) : W64 :=
  pk [(0, txType x), (4, 1), (8, seq.toNat), (24, s.twin.hb.toNat), (32, b2n (!hbStop s && !s.twin.hbStopped)),
      (33, roleCode s.twin.role), (36, k), (37, b2n (trackNow s)), (40, s.twin.drvsel.toNat)]

/-- The header of a ring frame (R390); TIME is TYPE 3h there (R391). -/
def ringHeader (s : State) (k : Nat) (seq : BitVec 16) (x : LaneTx) : W64 :=
  let t := match x with
    | .time _ _ _ => 3
    | _ => txType x
  pk [(0, t), (4, 1), (8, seq.toNat), (24, (txFrom s x).1), (29, (txFrom s x).2), (34, k - 2), (35, b2n (ringJoined s))]

/-! The bytes of a frame (R355, R357 to R361, R376, R391), as numbers; multi-byte fields are little-endian. -/

def zeros (n : Nat) : List Nat := List.replicate n 0

/-- A frame word with its tag in 5 bytes (R359). -/
def laneWordBytes (w : TWord) : List Nat := leBytes 5 (w.val.toNat + 0x100000000 * tagCode w.tag)

/-- One record of a DUTY frame (R358). -/
def dutyBytes (r : DutyRec) : List Nat :=
  leBytes 8 (r.word.toNat + 0x100000000 * r.sail.toNat + 0x10000000000 * r.pidx.toNat + 0x100000000000000 * b2n r.safe)

/-- One record of a STATE frame (R359). -/
def recBytes (r : StateRec) : List Nat :=
  leBytes 2 (r.frame.toNat + 0x8000 * b2n r.valid) ++ leBytes 2 r.runcount.toNat ++ leBytes 8 r.wakeNs.toNat ++
    (r.words.take 22).flatMap laneWordBytes

/-- A slot's key in two words of a COPY frame; both are 0 where no intent has been applied (R376 step 4). -/
def keyBytes : Option IntentKey → List Nat
  | none => zeros 10
  | some k => leBytes 5 (fld k.posted 0 36) ++ leBytes 5 (fld k.posted 36 28 + 0x10000000 * k.origin.toNat)

/-- A stamp of a TIME frame (R361). -/
def stampBytes (r : RingStamp) : List Nat := leBytes 8 r.ns.toNat ++ leBytes 2 r.frac.toNat

/-- INTENT payload bytes 8 to 31 (R391). -/
def intentBytes (i : Intent) : List Nat :=
  leBytes 8 i.deadline.toNat ++ leBytes 8 i.posted.toNat ++ leBytes 2 i.iseq.toNat ++ [i.set.toNat, 0] ++ leBytes 4 i.mag.toNat

/-- CTYPE of a message (R360). -/
def ctype : CtlMsg → Nat
  | .hello => 1 | .join _ => 2 | .copydone _ => 3 | .handover _ _ => 4 | .divcheck _ _ _ => 5 | .divresult _ => 6
  | .leave _ => 7 | .ackonly => 8 | .intentcopy _ => 9

/-- The contents of a message whose body has no stated places (R360; log 100). -/
def ctlWords (s : State) : CtlMsg → List Nat
  | .hello =>
    let b := ownHello s
    [b.capsId.toNat, b.capsUnits.toNat, b.groups.toNat, b.frameMap.toNat, b.twintake.toNat, b.serial.toNat] ++
      b.microcode.flatMap fun m => [m.1.toNat, m.2.toNat]
  | .join g => [g.toNat]
  | .copydone n => [n]
  | .handover g ix => g.toNat :: ix.map (·.toNat)
  | .divcheck f j p => [f.toNat, j.toNat, p.toNat]
  | .divresult b => [b.toNat]
  | .leave g => [g.toNat]
  | .ackonly | .intentcopy _ => []

/-- The body of a message, from byte 16 (R360). -/
def bodyBytes (s : State) (m : CtlMsg) : List Nat :=
  match m with
  | .ackonly => []
  | .intentcopy l =>
    let l := l.take 7
    [l.length, 0, 0, 0] ++ l.flatMap fun i => intentBytes i ++ [i.origin.toNat] ++ zeros 7
  | m => (Config.ctlBody (ctype m) (ctlWords s m)).map (·.toNat)

/-- The payload of a frame, from byte 8. -/
def payloadBytes (s : State) : LaneTx → List Nat
  | .idle => []
  | .duty l => leBytes 4 l.length ++ l.flatMap dutyBytes
  | .state l => l.flatMap recBytes
  | .control q a m => [ctype m, 0] ++ leBytes 2 q.toNat ++ leBytes 2 a.toNat ++ [0, 0] ++ bodyBytes s m
  | .copy r x => recBytes r ++ x.ff.flatMap laneWordBytes ++ x.keys.flatMap keyBytes
  | .time t1 t2 t3 => stampBytes t1 ++ stampBytes t2 ++ stampBytes t3
  | .intent i _ => intentBytes i
  | .publish _ p q v f _ =>
    leBytes 8 p.toNat ++ [q.toNat, 0] ++ ((List.range 4).flatMap fun j => leBytes 2 (nth 0 v j).toNat) ++ [f.toNat]
  | .member _ c tk u2 u3 k h q p _ =>
    leBytes 8 c.toNat ++ [b2n tk + 2 * b2n u2 + 4 * b2n u3, k, h, q.toNat] ++ leBytes 4 p.toNat

/-- The 256 bytes of a frame: header, payload filled up with 0, and CRC-32C (R355, R390). -/
def frameBytes (hdr : W64) (payload : List Nat) : List Byte :=
  let l := leBytes 8 hdr.toNat ++ (payload ++ zeros 244).take 244
  (l ++ leBytes 4 (crc32c l)).map (BitVec.ofNat 8 ·)

/-- A frame takes its place in the lane's block; the fifth completes the block, whose words go out (R65, R350). -/
def laneFill (l : Lane) (b : List Byte) : Lane :=
  let blk := l.blk ++ b
  if blk.length < 1280 then { l with blk := blk }
  else
    let (r, ws) := blockWords l.scr l.blkcnt (blk.map (·.toNat))
    { l with blk := [], blkcnt := l.blkcnt + 1, scr := r, txd := ws }

/-- The frame goes into the slot under the next SEQ (R355). -/
def emit (s : State) (k : Nat) (x : LaneTx) (ctl mir : Bool) : State :=
  modLane s k fun l =>
    let h := if k < 2 then raceHeader s k l.txSeq x else ringHeader s k l.txSeq x
    let l := laneFill l (frameBytes h (payloadBytes s x))
    { l with txHdr := h, tx := some (l.txSeq, x), txSeq := l.txSeq + 1, ctlGap := if ctl then 0 else satInc 8 l.ctlGap,
             mirRun := if mir then l.mirRun + 1 else 0 }

/-- A TIME frame of lane `k`: T1 now, T2 and T3 of the peer's last one (R361). -/
def emitTime (s : State) (k : Nat) : State :=
  let l := getLane s k
  let (t2, t3) := l.lastT.getD (⟨0, 0⟩, ⟨0, 0⟩)
  modLane (emit s k (.time (stampCut s.ring_time) t2 t3) false false) k fun l => { l with timeDue := false }

/-- A mirror frame, DUTY before STATE before COPY, or IDLE (R363). -/
def fillMirror (s : State) (k : Nat) : State :=
  let t := s.twin
  if !t.dutyQ.isEmpty then
    emit (modTwin s fun t => { t with dutyQ := t.dutyQ.drop 30 }) k (.duty (t.dutyQ.take 30)) false true
  else if !t.stateQ.isEmpty then
    emit (modTwin s fun t => { t with stateQ := t.stateQ.drop 2 }) k (.state (t.stateQ.take 2)) false true
  else
    match t.copyQ with
    | c :: rest => joinAdvance (emit (modTwin s fun t => { t with copyQ := rest }) k (.copy c.1 c.2) false true)
    | [] => emit s k .idle false false

/-- A slot without a CONTROL message: TIME, then mirror frames in at most 7 slots of 8 (R363). -/
def fillPlain (s : State) (k : Nat) : State :=
  if (getLane s k).timeDue then emitTime s k
  else if (getLane s k).mirRun < 7 then fillMirror s k
  else emit s k .idle false false

/-- A slot of a millrace lane in UP (R363): a CONTROL message that is due goes first, at most once in 8 slots. -/
def fillRace (s : State) (k : Nat) : State :=
  match s.twin.due with
  | m :: rest =>
    if (getLane s k).ctlGap ≥ 7 then
      emit (modTwin s fun t => { t with due := rest, ackNext := 0xFFFF }) k (.control m.1 s.twin.ackNext m.2) true false
    else fillPlain s k
  | [] => fillPlain s k

def isIntentTx : LaneTx → Bool
  | .intent _ _ => true
  | _ => false
def isMemberTx : LaneTx → Bool
  | .member _ _ _ _ _ _ _ _ _ _ => true
  | _ => false
def isPublishTx : LaneTx → Bool
  | .publish _ _ _ _ _ _ => true
  | _ => false

/-- The oldest waiting frame of a type goes out. -/
def emitRing (s : State) (k : Nat) (p : LaneTx → Bool) (x : LaneTx) : State :=
  emit (modLane s k fun l => { l with rq := l.rq.eraseP p }) k x false false

/-- A slot of a ring lane (R393): INTENT, TIME, MEMBER, PUBLISH, IDLE. -/
def fillRing (s : State) (k : Nat) : State :=
  let l := getLane s k
  match l.rq.find? isIntentTx with
  | some x => emitRing s k isIntentTx x
  | none =>
    if l.timeDue then emitTime s k
    else
      match l.rq.find? isMemberTx with
      | some x => emitRing s k isMemberTx x
      | none =>
        match l.rq.find? isPublishTx with
        | some x => emitRing s k isPublishTx x
        | none => emit s k .idle false false

/-- FRAME_SLOT_FILL: the next slot of a lane that transmits (R363, R393). -/
def execFrameSlotFill (k : Fin 4) (s : State) : Out :=
  if running s && hasLane s k && !txHeld s k && (getLane s k).txen then
    if k.val < 2 then
      if laneUp s k then .next (fillRace s k) else .next (emit s k .idle false false)
    else .next (fillRing s k)
  else .next s

end Sys2Proof.Machine
end

