-- ==== Sys2Proof/Machine/Twin.lean ====
section
/-! DEFINITION. The twin pair: TWINCFG (R383), race frames (R355 to R361), heartbeats and takeover (R370 to R374),
mirroring (R364 to R367), and the CONTROL messages of joining, leaving and divergence (R375 to R382). -/

namespace Sys2Proof.Machine

/-! ### TWINCFG -/

def twincfgRw : W64 := 0x3FFFFFFFFFFFFFFF

/-- The writes that R383 refuses. -/
def twincfgBad (s : State) (v : W64) : Bool :=
  let free := s.twin.role == .simplex || s.twin.role == .held
  let moved := v.setWidth 24 != twGroups s || bitOf v 61 != safeYield s
  (!free && moved) || fld v 40 4 == 0 || decide (fld v 44 8 < 0x19) || decide (fld v 52 8 < 0x19) ||
    decide (fld v 52 8 < fld v 44 8)

/-- A write of TWINCFG, or its refusal; a bit that leaves GROUPS is asserted, and GROUPS 0 ends ROLE held (R382, R383). -/
def twincfgWr (s : State) (v : W64) (be : BitVec 8) : State :=
  let n := mergeRw twincfgRw s.twin.cfg v be
  if twincfgBad s n then modTwin s fun t => { t with err := true }
  else
    let s := modTwin s fun t => { t with cfg := n }
    if s.twin.role = .held then
      drvRest (if twGroups s = 0 then modTwin s fun t => { t with role := .simplex } else s)
    else s

def execTwincfgWrite (v : W64) (be : BitVec 8) (s : State) : Out :=
  if running s then .next (twincfgWr s v be) else .next s

/-! ### Headers of race frames -/

def raceLane (k : Bool) : Nat := b2n k

/-- A later heartbeat than the newest one received (R371). -/
def hbLater (t : Twin) (hb : BitVec 8) : Bool :=
  match t.peerHb with
  | none => true
  | some p => t.miss ≥ 3 || (hb != p && decide ((hb - p).toNat ≤ 127))

/-- A header's share in heartbeats and drive-select (R356, R371, R372). -/
def headerIn (s : State) (h : RaceHdr) : State :=
  let s := if h.hbok && hbLater s.twin h.hb then
      modTwin s fun t => { t with peerHb := some h.hb, peerhb := true, miss := 0 } else s
  let gone := (List.range 24).foldl (fun m g =>
    if tracks s g && !bitOf h.dsel g then m ||| (1#24 <<< g) else m) 0
  modTwin s fun t =>
    { t with peerDsel := h.dsel, peerTrack := h.track, peerRole := h.role, takeAt := t.takeAt ||| gone }

/-- A race frame's header on lane `k`: the state, and whether its payload is taken. The frames of a peer that has been
declared lost are discarded (R372). -/
def raceAccept (s : State) (k : Bool) (h : RaceHdr) : State × Bool :=
  let L := raceLane k
  if running s && hasLane s L && laneUp s L then
    let s := laneAccept s L h.good h.seq
    if !h.good || s.twin.peerLost then (s, false) else (headerIn s h, true)
  else (s, false)

/-- IDLE_FRAME (R356). -/
def execIdleFrame (k : Bool) (h : RaceHdr) (s : State) : Out := .next (joinAdvance (raceAccept s k h).1)

/-- DUTY_FRAME (R358, R368). -/
def execDutyFrame (k : Bool) (h : RaceHdr) (recs : List DutyRec) (s : State) : Out :=
  let (s, ok) := raceAccept s k h
  if ok then
    .next (joinAdvance ((recs.take 30).foldl (fun s r =>
      let j := r.sail.toNat
      if decide (j < 192) && tracks s (j / 8) then
        meetDuty (modTwin s fun t => { t with drvDuty := tset none t.drvDuty j (some r) }) j
      else s) s))
  else .next s

/-- STATE_FRAME (R359, R367). -/
def execStateFrame (k : Bool) (h : RaceHdr) (r0 r1 : StateRec) (s : State) : Out :=
  let (s, ok) := raceAccept s k h
  if ok then .next (joinAdvance (stageRec (stageRec s r0) r1)) else .next s

/-- The complex steers toward its twin (R361, R397): the ring does not give ring time, and it is the follower, the
later joiner of a split pair, or the newcomer of a join. -/
def steersTwin (s : State) : Bool :=
  let alone := decide ((List.range 32).all fun i => !bitOf s.ring.present i || i == ringMember s)
  let noRing := !hasRing s || !ringJoined s || alone
  let later := match s.twin.joinAt with
    | some (_, _, newc) => newc
    | none => s.twin.role == .follower || (s.twin.role == .split && s.twin.newcomer)
  noRing && later

/-- TIME_FRAME (R361): the offset is measured, and ring time steered where R361 says so. -/
def execTimeFrame (k : Bool) (h : RaceHdr) (t1 t2 t3 t4 : RingStamp) (s : State) : Out :=
  let (s, ok) := raceAccept s k h
  if ok then
    let d := timeOffset t1 t2 t3 (stampCut t4)
    let s := modLane s (raceLane k) fun l => { l with lastT := some (t1, stampCut t4) }
    let s := modTwin s fun t => { t with talign := decide (d.natAbs ≤ 2 * 65536) }
    let s := if steersTwin s then (if d.natAbs > 1000 * 65536 then stepTime s d else slewNow s d) else s
    .next (joinAdvance s)
  else .next s

/-- COPY_FRAME (R376 step 4): the newcomer holds the record with its further words until it can write them (R365). -/
def execCopyFrame (k : Bool) (h : RaceHdr) (r : StateRec) (x : CopyExt) (s : State) : Out :=
  let (s, ok) := raceAccept s k h
  if ok then
    let takes := match s.twin.joinAt with
      | some (_, step, newc) => newc && decide (3 ≤ step)
      | none => false
    if takes && r.valid then
      .next (joinAdvance (modFrame s r.frame.toNat fun d => { d with stagedRec := some r, stagedExt := some x }))
    else .next (joinAdvance s)
  else .next s

/-! ### Heartbeats -/

/-- HEARTBEAT_EMIT: heartbeat k at ring time 40 k ns, unless the fantail has stopped it (R370). -/
def execHeartbeatEmit (s : State) : Out :=
  if running s && !hbStop s && !s.twin.hbStopped then
    .next (modTwin s fun t => { t with hb := BitVec.ofNat 8 (s.ring_time.ns.toNat / 40) })
  else .next s

/-- The peer's heartbeats are watched: in a joined pair, and in a join once ring time is aligned. -/
def watches (s : State) : Bool :=
  match s.twin.joinAt with
  | some (_, step, _) => decide (3 ≤ step)
  | none => joinedRole s.twin.role

/-- Heartbeat k, which was due before the one that falls due now, has been received (R371). -/
def hbReceived (s : State) : Bool :=
  let lat := 4 * (if bothUp s then fld s.twin.cfg 44 8 else fld s.twin.cfg 52 8)
  let k := BitVec.ofNat 8 ((s.ring_time.ns.toNat - lat) / 40 - 1)
  match s.twin.peerHb with
  | none => false
  | some p => decide ((p - k).toNat ≤ 127)

/-- HEARTBEAT_MISSED: when the next heartbeat falls due, one not received is a miss; the third declares the peer lost
(R371). -/
def execHeartbeatMissed (s : State) : Out :=
  if running s && watches s && !hbReceived s then
    let n := satInc 0xFF s.twin.miss
    let s := raiseRouted (modTwin s fun t => { t with miss := n, peerhb := false }) 43 n
    .next (if n = 3 ∧ s.twin.peerLost = false then declareLost s else s)
  else .next s

/-! ### Mirroring -/

/-- MIRROR_STATE_CAPTURE: after a run of a driven frame its 22 words are read in steal cycles and queued (R321, R322, R364).
Behind another request the mirror engine's own waits for the steal register. -/
def execMirrorStateCapture (w : WheelId) (slot : Fin 16) (s : State) : Out :=
  if running s && spadOn s w then
    .next (if (getWheel s w).steal.isNone then captureFrame s w slot else askSteal s w (.mirror slot))
  else .next s

/-- No wake source occurrence of the wheel is in its latch stage or pending (R365). -/
def noWake (s : State) (w : Nat) : Bool :=
  (getWheel s w).wakes.all fun p => !p.2.pend && p.2.latch.isEmpty

/-- The words of a record are written into the frame (R365, R367, R376). -/
def applyRec (s : State) (d : FrameDef) (r : StateRec) (x : Option CopyExt) : State :=
  let s := (recWordIdx.zip r.words).foldl (fun s p => setFw s d.wheel d.slot p.1 p.2) s
  match x with
  | none => s
  | some x =>
    let s := ((List.range 4).zip x.ff).foldl (fun s p => setFw s d.wheel d.slot (60 + p.1) p.2) s
    modWheel s d.wheel fun q =>
      { q with applied := ((List.range 4).zip x.keys).foldl (fun a p => tset none a (ffKey d.slot p.1) p.2) q.applied }

/-- A COPYDONE that waits for the last copy is acknowledged when it is made (R376 step 4). -/
def copyCheck (s : State) : State :=
  match s.twin.copyDue, s.twin.joinAt with
  | some (c, n), some (slot, step, true) =>
    if s.twin.copied ≥ n ∧ (step = 3 ∨ step = 4) then
      joinAdvance (modTwin (ackMsg s c) fun t => { t with copyDue := none, joinAt := some (slot, 5, true) })
    else s
  | _, _ => s

/-- MIRROR_STATE_APPLY: the newest staged record is written while the wheel is parked and no wake is on its way; a record
that is not newer than the last applied one is discarded (R365, R366). -/
def execMirrorStateApply (w : WheelId) (slot : Fin 16) (s : State) : Out :=
  match frameAt s w slot with
  | none => .next s
  | some f =>
    match getFrame s f with
    | none => .next s
    | some d =>
      match d.stagedRec with
      | none => .next s
      | some r =>
        if running s && (getWheel s w).parked && noWake s w && d.moveTo.isNone && fsState s w slot == 1 && spadOn s w then
          let stale := d.stagedExt.isNone && (match d.appliedRun with
            | some q => !newer16 r.runcount q
            | none => false)
          if stale then .next (modFrame s f fun d => { d with stagedRec := none })
          else
            let now := s.ring_time.ns
            let s := applyRec s d r d.stagedExt
            let s := modFrame s f fun d =>
              { d with stagedRec := none, stagedExt := none, appliedRun := some r.runcount, appliedAt := now }
            let s := modTwin s fun t =>
              { t with trackBad := false, copied := if d.stagedExt.isSome then t.copied + 1 else t.copied,
                       ages := (t.ages.filter fun p => decide ((now - p.1).toNat ≤ 10000)) ++ [(now, (now - r.wakeNs).toNat)] }
            .next (joinAdvance (copyCheck s))
        else .next s

/-! ### CONTROL messages -/

/-- An acknowledged message leaves the list of those that wait. -/
def ackIn (s : State) (a : BitVec 16) : State :=
  if a = 0xFFFF then s
  else modTwin s fun t => { t with out := t.out.filter (·.1 != a), due := t.due.filter fun m => m.1 != a || m.2 == .ackonly }

/-- Messages are acted on in a pair and in a join. -/
def pairLive (s : State) : Bool := s.twin.joinAt.isSome || joinedRole s.twin.role

/-- A CONTROL message is acted on: its CSEQ, and the newest one (R360). The last 64 are remembered (log 114, DESIGN CHOICE). -/
def ctlTaken (s : State) (q : BitVec 16) : State :=
  modTwin s fun t =>
    { t with rxDone := (q :: t.rxDone).take 64,
             rxCseq := some (match t.rxCseq with
               | some p => if newer16 q p then q else p
               | none => q) }

/-- The message of a CONTROL frame (R360): its ACK is taken; a message not yet acted on, be it older than the newest one, is
acted on by `f` and, unless `late`, acknowledged; a repeated one is acknowledged again. -/
def ctlIn (s : State) (c : CtlHdr) (late : Bool) (f : State → State) : State :=
  let s := joinAdvance (ackIn s c.ack)
  if pairLive s then
    let old := s.twin.rxDone.contains c.cseq || (match s.twin.rxCseq with
      | some p => !newer16 c.cseq p && decide ((p - c.cseq).toNat ≥ 64)
      | none => false)
    let waits := match s.twin.copyDue with
      | some (q, _) => q == c.cseq
      | none => false
    if old then (if waits then s else ackMsg s c.cseq)
    else
      let s := ctlTaken s c.cseq
      joinAdvance (f (if late then s else ackMsg s c.cseq))
  else s

def ctlFrame (s : State) (k : Bool) (h : RaceHdr) (c : CtlHdr) (late : Bool) (f : State → State) : Out :=
  let (s, ok) := raceAccept s k h
  if ok then .next (ctlIn s c late f) else .next s

/-- CAPS.ID.STEP (R11). -/
def capsStep (v : W64) : Nat := fld v 24 8

/-- After both complexes have declared each other lost, this one keeps its groups (R381). -/
def keepsGroups (own peer : HelloBody) : Bool :=
  if own.twintake ≠ peer.twintake then decide (peer.twintake < own.twintake)
  else if capsStep own.capsId ≠ capsStep peer.capsId then decide (capsStep peer.capsId < capsStep own.capsId)
  else decide (own.serial < peer.serial)

/-- The outcome of R381; event 40 is raised whether or not DRVSEL changes. -/
def settleLost (s : State) (b : HelloBody) : State :=
  if keepsGroups (ownHello s) b then raiseRouted s 40 s.twin.drvsel.toNat
  else
    let s1 := enterHeld (modTwin s fun t => { t with takeAt := 0, peerLost := false })
    if s1.twin.drvsel = s.twin.drvsel then raiseRouted s1 40 s1.twin.drvsel.toNat else s1

/-- HELLO (R360, R376 step 3, R381). -/
def execHello (k : Bool) (h : RaceHdr) (c : CtlHdr) (b : HelloBody) (s : State) : Out :=
  let lost := s.twin.peerLost && joinedRole s.twin.role && s.twin.joinAt.isNone
  let (s, ok) := raceAccept s k h
  if lost && running s && hasLane s (raceLane k) && laneUp s (raceLane k) && h.good then
    let s1 := ackMsg (ackIn s c.ack) c.cseq
    if s.twin.rxDone.contains c.cseq then .next s1
    else .next (settleLost (ctlTaken s1 c.cseq) b)
  else if ok then
    .next (ctlIn s c false fun s => if s.twin.joinAt.isSome then modTwin s fun t => { t with peerHello := some b } else s)
  else .next s

/-- JOIN (R360): the roles that the peer asks for. -/
def execJoin (k : Bool) (h : RaceHdr) (c : CtlHdr) (drives : BitVec 24) (s : State) : Out :=
  ctlFrame s k h c false fun s => modTwin s fun t => { t with peerDrives := drives }

/-- COPYDONE (R376 step 4). -/
def execCopydone (k : Bool) (h : RaceHdr) (c : CtlHdr) (n : Nat) (s : State) : Out :=
  ctlFrame s k h c true fun s => copyCheck (modTwin s fun t => { t with copyDue := some (c.cseq, n) })

/-- HANDOVER (R378): this complex takes the groups at the named boundaries. -/
def execHandover (k : Bool) (h : RaceHdr) (c : CtlHdr) (groups : BitVec 24) (idx : List (BitVec 16)) (s : State) : Out :=
  ctlFrame s k h c false fun s => if mirroring s then modTwin s fun t => { t with hand := some (groups, true, idx) } else s

/-- DIVCHECK (R375): this complex, the driver, runs its self-check; a further flag during a check is counted. -/
def execDivcheck (k : Bool) (h : RaceHdr) (c : CtlHdr) (frame : BitVec 9) (sail : BitVec 8) (_period : BitVec 16)
    (s : State) : Out :=
  ctlFrame s k h c false fun s =>
    if mirroring s then
      let s := modTwin s fun t => { t with divflag := true, dFrame := frame, dSail := sail }
      if s.twin.chk.isSome then modTwin s fun t => { t with dMerged := satInc 0xFF t.dMerged }
      else divOwn (modTwin s fun t => { t with dMerged := 0, chk := some ⟨frame, sail, true, none, none⟩ })
    else s

/-- DIVRESULT (R375). -/
def execDivresult (k : Bool) (h : RaceHdr) (c : CtlHdr) (bits : BitVec 6) (s : State) : Out :=
  ctlFrame s k h c false fun s =>
    if s.twin.chk.isSome then
      divSettle (modTwin s fun t => { t with dPeer := bits, chk := t.chk.map fun q => { q with peer := some bits } })
    else s

/-- LEAVE (R378): mirroring stops, and this complex runs simplex. -/
def execLeave (k : Bool) (h : RaceHdr) (c : CtlHdr) (_groups : BitVec 24) (s : State) : Out :=
  ctlFrame s k h c false fun s =>
    if mirroring s then
      let s := drvRest (modTwin s fun t =>
        { t with role := .simplex, hand := none, takeAt := 0, yieldAt := 0, chk := none, peerhb := false, dutyQ := [], stateQ := [] })
      leaveEnd s 0
    else s

/-- ACKONLY (R360): only its ACK is taken. -/
def execAckonly (k : Bool) (h : RaceHdr) (c : CtlHdr) (s : State) : Out :=
  let (s, ok) := raceAccept s k h
  if ok then .next (joinAdvance (ackIn s c.ack)) else .next s

/-- INTENTCOPY (R376 step 5): the newcomer stages each intent under R406. -/
def execIntentcopy (k : Bool) (h : RaceHdr) (c : CtlHdr) (intents : List Intent) (s : State) : Out :=
  ctlFrame s k h c false fun s => (intents.take 7).foldl stageIntent s

/-- CONTROL_REPEAT: every message without its ACK is due again (R360). -/
def execControlRepeat (s : State) : Out :=
  if running s then .next (modTwin s fun t => { t with due := t.due ++ t.out.filter fun m => !t.due.contains m })
  else .next s

/-- A timeout of a message ends a TWIN_JOIN before step 6, its commit point (R360, R376, R442). -/
def joinLapse (s : State) (jerr : Nat) : State :=
  match s.twin.joinAt with
  | some (_, step, _) => if step = 6 then s else joinFail s 8 jerr
  | none => s

/-- CONTROL_TIMEOUT: the oldest message without its ACK ends its procedure (R360, R376, R378). -/
def execControlTimeout (s : State) : Out :=
  if running s then
    match s.twin.out with
    | [] => .next s
    | m :: rest =>
      let s := modTwin s fun t => { t with out := rest, due := t.due.filter (· != m) }
      match m.2 with
      | .hello | .join _ => .next (joinLapse s (Config.joinJerr 1).toNat)
      | .copydone _ | .intentcopy _ => .next (joinLapse s 7)
      | .handover _ _ => .next (leaveEnd (modTwin s fun t => { t with hand := none }) 8)
      | .divcheck _ _ _ | .divresult _ | .leave _ | .ackonly => .next s
  else .next s

/-- DIVRESULT_TIMEOUT: a missing result counts as a failure of its side (R375). -/
def execDivresultTimeout (s : State) : Out :=
  match s.twin.chk with
  | none => .next s
  | some c =>
    let bad : Option (BitVec 6) → Bool
      | some b => b != 0
      | none => true
    if running s then .next (divOutcome s c (bad c.own) (bad c.peer)) else .next s

/-- TIME_FRAME_SEND: each millrace lane in UP has a TIME frame due (R361). -/
def execTimeFrameSend (s : State) : Out :=
  if running s then
    .next (forAll s [0, 1] fun s k => if laneUp s k then modLane s k fun l => { l with timeDue := true } else s)
  else .next s

/-- TWIN_JOIN_STEP_TIMEOUT: 20 ms without lanes UP in step 1, or without TALIGN in step 2 (R376). -/
def execTwinJoinStepTimeout (s : State) : Out :=
  match s.twin.joinAt with
  | some (_, 1, _) => if running s then .next (joinFail s 8 1) else .next s
  | some (_, 2, _) => if running s then .next (joinFail s 8 2) else .next s
  | _ => .next s

end Sys2Proof.Machine
end

