-- ==== Sys2Proof/Machine/HopQuery.lean ====
section
/-! DEFINITION. The hopper commands that read: PING, QUERY_CAPS, TWIN_STATUS, LOG_READ and SENSOR_READ (R379, R430, R442,
R448, R507, R510, R513), and the registers that they return. -/

namespace Sys2Proof.Machine

/-- The command of a slot starts: its row acts on a packet that has passed orders 1 to 3 (R421). -/
def starting (s : State) (h : HopId) (n op : Nat) : Bool := running s && runs s h n op && (getSlot s h n).phase == 0

/-- The command of a slot is in phase `p`. -/
def inPhase (s : State) (h : HopId) (n op p : Nat) : Bool := running s && runs s h n op && (getSlot s h n).phase == p

def setPhase (s : State) (h : HopId) (n p : Nat) : State := modSlot s h n fun x => { x with phase := p }
def setAux (s : State) (h : HopId) (n : Nat) (l : List Nat) : State := modSlot s h n fun x => { x with aux := l }
def auxAt (s : State) (h : HopId) (n i : Nat) : Nat := nth 0 (getSlot s h n).aux i

/-- A selector's value, field `i` bits [lo + k - 1 : lo]. -/
def selF (s : State) (h : HopId) (n i lo k : Nat) : Nat := fld (fieldOr s h n i 0) lo k

/-- The wheel or the mill is held by a command, or by the Miller's boot (R423, R518). -/
def heldMill (s : State) (m : Nat) : Bool :=
  s.miller.boot != 0 || held s (.mill m) || (millWheels m).any fun w => held s (.wheel w)
def heldWheel (s : State) (w : Nat) : Bool := s.miller.boot != 0 || held s (.wheel w) || held s (.mill (millOf w))

/-- The watchdog's count restarts at 0 (R476, R477). -/
def kickDog (s : State) : State := modRst s fun r => { r with wdCnt := 0, wdWarned := false }

/-- PING (R430); with HOPKICK it kicks the watchdog (R476). -/
def execPing (h : HopId) (slot : SlotId) (s : State) : Out :=
  if starting s h slot 0x01 then
    let s := if s.rst.wdHop then kickDog s else s
    .next (finish s h slot 0 0 [s.capsId, s.ring_time.ns, hopstat s h])
  else .next s

/-- QUERY_CAPS (R430). -/
def execQueryCaps (h : HopId) (slot : SlotId) (s : State) : Out :=
  if starting s h slot 0x02 then .next (finish s h slot 0 0 [s.capsId, s.capsUnits, millcfgReg s, serialOf s]) else .next s

/-- TWIN_STATUS (R379, R442). -/
def execTwinStatus (h : HopId) (slot : SlotId) (s : State) : Out :=
  if starting s h slot 0x32 then
    .next (finish s h slot 0 0 ([twinstat s, s.twin.take, twindiv s] ++ laneRegs s 0 ++ laneRegs s 1))
  else .next s

/-! ### The log -/

/-- The entry of sequence number `q` in the mirror: its line passes its check and holds it (R512, log 15). -/
def mirrorEntry (s : State) (q : Nat) : Option (List Nat) :=
  let l := 14051 + q % 512
  let e := (List.range 4).map fun i => mirrorWord s l (32 * i)
  if tget false (getMill s 0).badLines l || nth 0 e 1 % 256 == 0 || nth 0 e 0 != q then none else some e

/-- Retained memory holds the entry of sequence number `q` (R510): an INT word with that SEQ stands at its place. -/
def retainedHolds (s : State) (q : Nat) : Bool :=
  (ramGet emptyW s.retained (logAddr q)).tag == .int && retVal s (logAddr q) == q

/-- The entry of sequence number `q`, from retained memory where it is kept there, else from the mirror (R510, R513). -/
def logFind (s : State) (q : Nat) : Option (List Nat) :=
  let n := retVal s 0x720
  if n ≤ q then none else if n ≤ q + 64 ∧ retainedHolds s q = true then some (logEntryAt s q) else mirrorEntry s q

/-- A number put in its ascending place, once. -/
def insertAsc (q : Nat) : List Nat → List Nat
  | [] => [q]
  | a :: l => if q < a then q :: a :: l else if q = a then a :: l else a :: insertAsc q l

/-- The sequence numbers that are kept, oldest first: the valid entries of the mirror, and those of retained memory (R513). -/
def logKept (s : State) : List Nat :=
  let n := retVal s 0x720
  let l := ((List.range 64).map fun i => n - 64 + i) ++ mirrorSeqs s
  (l.filter fun q => (logFind s q).isSome).foldr insertAsc []

/-- LOG_READ (R448): the entries from FROM, or from the oldest one kept. -/
def execLogRead (h : HopId) (slot : SlotId) (s : State) : Out :=
  let n := slot.val
  if starting s h n 0x70 then
    let s := rebuildLog s
    let k := logKept s
    let from0 := (fieldOr s h n 0 0).toNat
    let frm := clampN (nth 0 k 0) 0xFFFFFFFF from0
    let cnt := clampN 1 62 (fieldOr s h n 1 1).toNat
    let l := (k.filter fun q => frm ≤ q).take cnt
    let cl := clampOf s h n 0 (BitVec.ofNat 64 frm) ++ clampOf s h n 1 (BitVec.ofNat 64 cnt)
    let s := modSlot s h n fun x => { x with clamps := cl }
    let words := (l.flatMap fun q => (logFind s q).getD []).map (BitVec.ofNat 64 ·)
    .next (finish s h n 0 0 ([BitVec.ofNat 64 (nth frm l 0), BitVec.ofNat 64 l.length, BitVec.ofNat 64 (retVal s 0x720 - 1)] ++ words))
  else .next s

/-! ### Sensors -/

/-- The result of one sensor (R507). -/
def sensorWord (x : Sensor) : W64 :=
  pk [(0, x.value.toNat), (16, x.peak.toNat), (32, b2n x.valid), (33, b2n x.hi), (34, b2n x.lo), (35, b2n x.trip)]

/-- Domain `d` exists (R497). -/
def hasDomain (s : State) (d : Nat) : Bool :=
  if d < 16 then decide (d < nMills s)
  else if d = 20 ∨ d = 21 then hasRace1 s
  else if 22 ≤ d ∧ d ≤ 25 then hasRing s
  else if d = 55 then hasWeirHi s
  else true

/-- CLKMONd (R500). -/
def clkmonReg (s : State) (d : Nat) : W64 :=
  let c := getClk s d
  if hasDomain s d then
    pk [(0, b2n c.stable), (1, b2n c.held), (2, b2n c.gated), (3, b2n c.fail), (8, c.failcnt), (16, c.fmeas.toNat)]
  else 0

/-- The sensors of a class (R504). -/
def sensorList (s : State) (c : Nat) : List W64 :=
  if c = 0 then (List.range 8).map fun i => sensorWord (tget {} s.miller.sensors i)
  else if c = 1 then (List.range 4).map fun i => sensorWord (tget {} s.miller.sensors (8 + i))
  else (List.range 64).map (clkmonReg s)

/-- SENSOR_READ (R448, R507). -/
def execSensorRead (h : HopId) (slot : SlotId) (s : State) : Out :=
  let n := slot.val
  if starting s h n 0x71 then
    let c := applyF (fieldOr s h n 0 0) [(0, 2, clampE 2 0)]
    let s := modSlot s h n fun x => { x with clamps := clampOf s h n 0 c }
    .next (finish s h n 0 0 (sensorList s c.toNat))
  else .next s

end Sys2Proof.Machine
end

