-- ==== Sys2Proof/Machine/Image.lean ====
section
/-! DEFINITION. Microcode and program images: their layouts and checks (R273, R274, R516), their writing (R275, R277,
R515, R517), and LOAD_MICROCODE, LOAD_IMAGE and VERIFY (R276, R431, R514, R518). -/

namespace Sys2Proof.Machine

/-! ### Bytes of an image -/

/-- `n` payload words from millpond word `src` (R327, R331, R431). -/
def payloadWords (s : State) (src n : Nat) : State × List W32 :=
  (List.range n).foldl (fun p i =>
    let q := mpReadUnit p.1 (src + i)
    (q.1, p.2 ++ [q.2.val])) (s, [])

def wordBytes (v : W32) : List Byte := (List.range 4).map fun i => BitVec.ofNat 8 (fld v (8 * i) 8)

/-- The image's bytes as the host has placed them (R431). -/
def readImage (s : State) (src len : Nat) : State × List Byte :=
  let p := payloadWords s src ((len + 3) / 4)
  (p.1, (p.2.flatMap wordBytes).take len)

def ib (b : List Byte) (i : Nat) : Nat := (nth 0 b i).toNat
def ile (b : List Byte) (i k : Nat) : Nat := (List.range k).foldl (fun v j => v + ib b (i + j) * 256 ^ j) 0
def izero (b : List Byte) (lo hi : Nat) : Bool := ((b.drop lo).take (hi + 1 - lo)).all (· == 0)

def imageId (b : List Byte) : W64 := BitVec.ofNat 64 (ile b 16 8)
def imageKey (b : List Byte) : List Byte := (b.drop 64).take 97

/-- A 384-bit value as the six result words that hold it, most significant byte first (R431, R526; log 21). -/
def digestWords (d : BitVec 384) : List W64 :=
  (List.range 6).map fun j => BitVec.ofNat 64 ((List.range 8).foldl (fun v i => v + fld d (8 * (47 - (8 * j + i))) 8 * 256 ^ i) 0)

/-! ### Keys and signatures -/

/-- Key `k` is revoked, or is not the image's (R274 order 4, R503). -/
def keyBad (s : State) (k : Nat) (b : List Byte) : Bool :=
  let h := tget 0 s.miller.keys k
  bitOf s.miller.revoke k || h == 0 || sha384 (imageKey b) != h

/-- The signature over every byte before it verifies (R274 order 5). -/
def signOk (b : List Byte) : Bool :=
  let n := b.length - 96
  ecdsaOk (imageKey b) (sha384 (b.take n)) (b.drop n)

/-! ### Microcode images (R273, R274) -/

def mcBase (b : List Byte) : Nat := ile b 4 2
def mcWords (b : List Byte) : Nat := ile b 6 2
def mcKeyOf (b : List Byte) : Nat := ib b 8

/-- Order 3 of R274. -/
def mcFormBad (b : List Byte) : Bool :=
  let n := mcWords b
  ile b 0 4 != 2 || n == 0 || mcBase b + n > 4096 || mcKeyOf b > 3 || !izero b 9 15 || !izero b 24 63 || !izero b 161 191 ||
    (List.range n).any fun i => ile b (192 + 16 * i + 14) 2 != 0

/-- The status and the order of R274 that fails, orders 2 to 5. -/
def mcCheck (s : State) (b : List Byte) : Option (Nat × Nat) :=
  if b.length ≠ 192 + 16 * mcWords b + 352 then some (5, 0)
  else if mcFormBad b then some (6, 3)
  else if keyBad s (mcKeyOf b) b then some (6, 4)
  else if !signOk b then some (6, 5)
  else none

/-- The writable store and CDT of a mill written, with its record (R275, R277). -/
def loadStore (b : List Byte) (s : State) (m : Nat) : State :=
  let n := mcWords b
  modMill s m fun x =>
    { x with cstore := (List.range n).foldl (fun t i => tset 0 t (0x1000 + mcBase b + i) (BitVec.ofNat 112 (ile b (192 + 16 * i) 14))) [],
             cdt := (List.range 32).foldl (fun t i => tset 0 t i (BitVec.ofNat 64 (ile b (192 + 16 * n + 8 * i) 8))) [],
             mcId := imageId b, mcKey := mcKeyOf b, mcDigest := sha384 b, mcCount := (x.mcCount + 1) % 0x100000000 }

/-- A mill holds the image with this identity. -/
def holdsImage (s : State) (id : W64) (d : BitVec 384) : Bool :=
  (List.range 16).any fun m => (getMill s m).mcId == id && (getMill s m).mcDigest == d

/-- The verified bytes are kept once; slots whose image no mill holds are freed (R515). -/
def keepImage (s : State) (b : List Byte) : State :=
  let id := imageId b
  let d := sha384 b
  modMiller s fun x =>
    let l := x.images.filter fun e => holdsImage s e.1 e.2.1 && !(e.1 == id && e.2.1 == d)
    { x with images := if holdsImage s id d then l ++ [(id, d, b)] else l }

/-- The lowest mill written, as log entries name it (R509). -/
def lowMill (l : List Nat) : Nat := nth 0 l 0

/-- The Miller's kept copy of an image (R279, R515). -/
def keptImage (s : State) (id : W64) (d : BitVec 384) : Option (List Byte) :=
  (s.miller.images.find? fun e => e.1 == id && e.2.1 == d).map fun e => e.2.2

/-- The kept image fails the checks of R274 anew: its form, its key or its signature (R279). -/
def keptBad (s : State) (id : W64) (d : BitVec 384) : Bool :=
  match keptImage s id d with
  | some b => (mcCheck s b).isSome
  | none => true

/-- The write of R275 on the mills of a list, with its log entry (R509 type 07h). -/
def loadMills (s : State) (l : List Nat) (b : List Byte) : State :=
  let s := keepImage (l.foldl (loadStore b) s) b
  if l.isEmpty then s else logEntry s 7 (mcKeyOf b) 0 (lowMill l) (ile b 16 4)

/-! ### Program images (R516) -/

/-- A section of a program image. -/
structure Sect where
  ty : Nat
  unit : Nat
  rsv : Nat
  off : Nat
  len : Nat
  tgt : Nat
  deriving DecidableEq, Repr

def nSect (b : List Byte) : Nat := ile b 4 2
def sectAt (b : List Byte) (i : Nat) : Sect :=
  let o := 192 + 16 * i
  ⟨ib b o, ib b (o + 1), ile b (o + 2) 2, ile b (o + 4) 4, ile b (o + 8) 4, ile b (o + 12) 4⟩
def sects (b : List Byte) : List Sect := (List.range (nSect b)).map (sectAt b)
def sectBytes (b : List Byte) (x : Sect) : List Byte := (b.drop x.off).take x.len

/-- Header, section table, contents and signature (R516). -/
def imageExtent (b : List Byte) : Nat := 192 + 16 * nSect b + ((sects b).map Sect.len).foldl (· + ·) 0 + 96

/-- Order 1 of R516. -/
def progFormBad (b : List Byte) : Bool :=
  ile b 0 4 != 0x101 || nSect b == 0 || nSect b > 1024 || ib b 6 > 3 || !izero b 7 15 || imageId b == 0 || !izero b 24 63 ||
    !izero b 161 191 || b.length != imageExtent b

/-- A word of a code section, and an entry of a table section. -/
def sectWord (b : List Byte) (x : Sect) (i : Nat) : Nat := ile b (x.off + 2 * i) 2
def sectEntry (b : List Byte) (x : Sect) (i : Nat) : W64 := BitVec.ofNat 64 (ile b (x.off + 8 * i) 8)
def nWords (x : Sect) : Nat := x.len / 2
def nEntries (x : Sect) : Nat := x.len / 8

/-- A segment descriptor passes R165; the banks that it covers are set to ON by the load (R517). -/
def segShapeBad (world : Bool) (d : W64) : Bool :=
  let sp := sgSpace d
  sp ≥ 4 || fld d 56 8 != 0 || (sp == 1 && sgBase d + sgLimit d > 0x5FFF) ||
  (sp == 2 && sgBase d + sgLimit d > 0x3FFFFF) || (sp == 3 && (sgBase d + sgLimit d > 0xFFFFFF || !world))

/-- Reserved bits and values of the other table entries (R288, R290, R305). -/
def excEntryBad (d : W64) : Bool := fld d 40 24 != 0 || fld d 18 2 ≥ 2
def evcfgBad (d : W64) : Bool := fld d 17 15 != 0 || fld d 49 15 != 0
def fentryBad (world : Bool) (d : W64) : Bool := fld d 35 29 != 0 || fld d 18 2 ≥ 2 || (bitOf d 21 && !world)

def codeWordsBad (b : List Byte) (x : Sect) : Bool :=
  x.len % 2 != 0 || (List.range (nWords x)).any fun i => sectWord b x i ≥ 0x4000

def entriesBad (b : List Byte) (x : Sect) (lim : Nat) (f : W64 → Bool) : Bool :=
  x.len % 8 != 0 || x.tgt + nEntries x > lim || (List.range (nEntries x)).any fun i => f (sectEntry b x i)

/-- Order 4 of R516 on one section; `mills` are those that the command names. -/
def sectBad (b : List Byte) (mills : List Nat) (x : Sect) : Bool :=
  let out := x.off < 192 + 16 * nSect b || x.off + x.len > b.length - 96 || x.rsv != 0
  let world := x.unit == 1
  out ||
  match x.ty with
  | 1 => codeWordsBad b x || !mills.contains x.unit || x.tgt + nWords x > 0x40000 ||
         (x.unit == 0 && nWords x != 0 && x.tgt < 18 * 14563 && x.tgt + nWords x > 18 * 14047)
  | 2 => codeWordsBad b x || x.unit > 63 || !mills.contains (millOf x.unit) || x.tgt + nWords x > 0x1000
  | 3 => x.unit > 1 || x.tgt == 0 || entriesBad b x 256 (segShapeBad world)
  | 4 => x.unit > 1 || entriesBad b x 64 excEntryBad
  | 5 => x.unit > 63 || !mills.contains (millOf x.unit) || x.tgt != 0 || x.len != 8 || entriesBad b x 1 evcfgBad
  | 6 => x.unit != 0 || x.tgt < 36 || entriesBad b x 49 fun _ => false
  | 7 => x.unit > 1 || x.tgt != 0 || x.len != 8 || entriesBad b x 1 (fentryBad world)
  | 8 => x.unit != 0 || x.tgt ≥ 0x10000
  | _ => true

def maskMills (v : Nat) : List Nat := (List.range 16).filter fun m => v / 2 ^ m % 2 == 1

/-- Order 5 of R516. -/
def sectMcBad (s : State) (b : List Byte) (mills : List Nat) (x : Sect) : Bool :=
  x.ty == 8 && ((mcCheck s (sectBytes b x)).isSome || (maskMills x.tgt).any fun m => !mills.contains m)

/-- The order of R516 that fails. -/
def progCheck (s : State) (b : List Byte) (mills : List Nat) : Option Nat :=
  if progFormBad b then some 1
  else if keyBad s (ib b 6) b then some 2
  else if !signOk b then some 3
  else if (sects b).any (sectBad b mills) then some 4
  else if (sects b).any (sectMcBad s b mills) then some 5
  else none

/-! ### Writing the sections (R517) -/

/-- The words of a code section that lie in the line of word `p`, by index in the section. -/
def lineWords (x : Sect) (p : Nat) : List Nat :=
  (List.range 18).filterMap fun i =>
    let o := 18 * ((x.tgt + p) / 18) + i
    if x.tgt ≤ o && o < x.tgt + nWords x then some (o - x.tgt) else none

/-- One line of a program-store section written, without its record. -/
def writeLine (b : List Byte) (x : Sect) (p : Nat) (s : State) : State :=
  forAll s (lineWords x p) fun s i => sliceWrite s x.unit (x.tgt + i) (BitVec.ofNat 14 (sectWord b x i))

/-- A whole section that is not of TYPE 01h. -/
def writeSect (b : List Byte) (s : State) (x : Sect) : State :=
  let world := x.unit == 1
  let ents := List.range (nEntries x)
  match x.ty with
  | 2 => forAll s (List.range (nWords x)) fun s i => pinWrite s x.unit (x.tgt + i) (BitVec.ofNat 14 (sectWord b x i))
  | 3 => forAll s ents fun s i => setSeg s world (x.tgt + i) (sectEntry b x i)
  | 4 => forAll s ents fun s i =>
      if world then { s with excS := tset 0 s.excS (x.tgt + i) (sectEntry b x i) }
      else { s with excC := tset 0 s.excC (x.tgt + i) (sectEntry b x i) }
  | 5 => modWheel s x.unit fun y => { y with evcfg := sectEntry b x 0 }
  | 6 => forAll s ents fun s i => { s with evroute := tset 0 s.evroute (x.tgt + i) (sectEntry b x i) }
  | 7 => if world then { s with fentS := sectEntry b x 0 } else { s with fentC := sectEntry b x 0 }
  | 8 => loadMills s (maskMills x.tgt) (sectBytes b x)
  | _ => s

/-- The banks that the image's descriptors cover and that are not ON (R327, R517). -/
def imageBanks (s : State) (b : List Byte) : List Nat :=
  (List.range 16).filter fun k => !bankOn s k && (sects b).any fun x =>
    x.ty == 3 && (List.range (nEntries x)).any fun i => (coverBanks (sectEntry b x i)).contains k

/-- Fields of a power register go to ON. -/
def powerOn (s : State) (r : PwrReg) (l : List Nat) : State :=
  let old := pwrGet s r
  let new := l.foldl (fun v i => setFld v (2 * i) 2 0) old
  pwrStart s r new (pwrChanges r old new)

/-- The commit point of a program load: the records of its mills are 0 (R514). -/
def progCommit (s : State) (mills : List Nat) : State := forAll s mills fun s m => modMill s m fun x => { x with progId := 0 }

/-- The load completes: records and the log entry (R509, R514); `arg` says where the image came from. -/
def progDone (s : State) (b : List Byte) (mills : List Nat) (arg : Nat) : State :=
  let s := forAll s mills fun s m => modMill s m fun x => { x with progId := imageId b }
  logEntry s 8 arg 0 (lowMill mills) (ile b 16 4)

/-- A check has failed (R509 type 09h). -/
def logBadImage (s : State) (b : List Byte) (order : Nat) : State := logEntry s 9 order 0 0 (ile b 16 4)

/-- LOAD_IMAGE with KEEP writes a boot record (R518). -/
def keepBoot (s : State) (keep : Nat) (b : List Byte) (mills : Nat) : State :=
  let f (old other : BootRec) : BootRec :=
    { old with valid := true, kept := true, gen := other.gen + 1, imageId := imageId b, keyIdx := ib b 6, length := b.length,
               mills := BitVec.ofNat 16 mills, digest := sha384 b }
  modMiller s fun x =>
    if keep = 1 then { x with bootA := f x.bootA x.bootB } else if keep = 2 then { x with bootB := f x.bootB x.bootA } else x

/-! ### The commands -/

/-- Image bytes as the slot of a running command holds them, after `k` counters. -/
def auxBytes (s : State) (h : HopId) (n k : Nat) : List Byte := ((getSlot s h n).aux.drop k).map (BitVec.ofNat 8 ·)

/-- 4 × SRC + LENGTH lies within 16 MiB (R431). -/
def imageRange (s : State) (h : HopId) (n : Nat) : Bool := decide (4 * selF s h n 0 0 22 + selF s h n 1 0 32 ≤ 0x1000000)

def cmdMills (s : State) (h : HopId) (n : Nat) : List Nat := maskMills (selF s h n 2 0 16)

/-- A mill of the list holds a started loop. -/
def anyStarted (s : State) (l : List Nat) : Bool := l.any fun m => (millFrames s m).any fun f => frameState s f == 1

/-- Orders 4 and 5 of a load (R276, R423, R431): status and DETAIL. -/
def loadRefusal (s : State) (h : HopId) (n : Nat) : Option (Nat × Nat) :=
  let l := cmdMills s h n
  if !imageRange s h n then some (7, 1)
  else if l.any fun m => decide (nMills s ≤ m) then some (7, 2)
  else if l.any (heldMill s) then some (2, 1)
  else if anyStarted s l then some (2, 2)
  else none

/-- Clamps of fields 0 to 2, and of KEEP or KIND. -/
def loadClamps (s : State) (h : HopId) (n k2 : Nat) (keep : Bool) : List Clamp :=
  clampOf s h n 0 (applyF (fieldOr s h n 0 0) [(0, 22, id)]) ++ clampOf s h n 1 (applyF (fieldOr s h n 1 0) [(0, 32, id)]) ++
  clampOf s h n 2 (applyF (fieldOr s h n 2 0) [(0, k2, id)]) ++
  (if keep then clampOf s h n 3 (applyF (fieldOr s h n 3 0) [(0, 2, clampE 2 0)]) else [])

/-- A load starts: the image is taken over, with `k` counters before its bytes. -/
def loadStart (s : State) (h : HopId) (n k : Nat) (keep : Bool) : State :=
  let cl := loadClamps s h n 16 keep
  let l := cmdMills s h n
  let (s, b) := readImage s (selF s h n 0 0 22) (selF s h n 1 0 32)
  begin_ s h n 1 (l.map Obj.mill) cl (List.replicate k 0 ++ b.map BitVec.toNat)

def loadResults (b : List Byte) (key : Nat) : List W64 := [imageId b, BitVec.ofNat 64 key]

/-- LOAD_MICROCODE (R274 to R277, R431): start, check, write. From the first wc of the write to its last no custom
opcode of the mills is defined. -/
def execLoadMicrocode (h : HopId) (slot : SlotId) (s : State) : Out :=
  let n := slot.val
  if starting s h n 0x11 then
    match loadRefusal s h n with
    | some (st, d) => .next (reject s h n st d)
    | none => .next (loadStart s h n 0 false)
  else if inPhase s h n 0x11 1 then
    let b := auxBytes s h n 0
    match mcCheck s b with
    | some (st, o) =>
      let s := if st = 6 then logBadImage s b o else s
      .next (finish s h n st o (loadResults b (mcKeyOf b)))
    | none =>
      let s := forAll s (cmdMills s h n) fun s m => modMill s m fun x => { x with cdt := [] }
      .next (modSlot s h n fun x => { x with phase := 2, committed := true, changed := true })
  else if inPhase s h n 0x11 2 then
    let b := auxBytes s h n 0
    .next (finish (loadMills s (cmdMills s h n) b) h n 0 0 (loadResults b (mcKeyOf b)))
  else .next s

/-- One step of writing a program image from the slot's counters: section, word, stage of the line write, which begins, switches
the line and completes (R490, R517). -/
def loadImageStep (s : State) (h : HopId) (n : Nat) (b : List Byte) : State :=
  let k := auxAt s h n 0
  let p := auxAt s h n 1
  let st := auxAt s h n 2
  let put (s : State) (k p st : Nat) : State := modSlot s h n fun x => { x with aux := [k, p, st] ++ x.aux.drop 3 }
  let x := sectAt b k
  if x.ty = 1 then
    let sw (s : State) (v : Bool) : State := modMill s x.unit fun m => { m with switched := v }
    if p ≥ nWords x then put s (k + 1) 0 0
    else if st = 0 then put (sw (pstoreBegin s x.unit ((x.tgt + p) / 18) 0 true) false) k p 1
    else if st = 1 then put (sw (writeLine b x p s) true) k p 2
    else put (pstoreEnd s x.unit) k (18 * ((x.tgt + p) / 18 + 1) - x.tgt) 0
  else put (writeSect b s x) (k + 1) 0 0

/-- LOAD_IMAGE (R431, R514 to R518): start, check, then the sections in table order. -/
def execLoadImage (h : HopId) (slot : SlotId) (s : State) : Out :=
  let n := slot.val
  if starting s h n 0x10 then
    match loadRefusal s h n with
    | some (st, d) => .next (reject s h n st d)
    | none => .next (loadStart s h n 3 true)
  else if inPhase s h n 0x10 1 then
    let b := auxBytes s h n 3
    let l := cmdMills s h n
    match progCheck s b l with
    | some o => .next (finish (logBadImage s b o) h n 6 o (loadResults b (ib b 6)))
    | none =>
      if !(imageBanks s b).isEmpty then
        if s.mem.trans.isEmpty then
          .next (modSlot (powerOn s .bank (imageBanks s b)) h n fun x => { x with changed := true })
        else .next s
      else .next (modSlot (progCommit s l) h n fun x => { x with phase := 2, committed := true, changed := true })
  else if inPhase s h n 0x10 2 then
    let b := auxBytes s h n 3
    let l := cmdMills s h n
    if auxAt s h n 0 < nSect b then .next (if s.rst.vps then loadImageStep s h n b else s)
    else
      let s := keepBoot (progDone s b l 0) (clampE 2 0 (selF s h n 3 0 2)) b (selF s h n 2 0 16)
      .next (finish s h n 0 0 (loadResults b (ib b 6)))
  else .next s

/-- VERIFY (R431): the checks of the named kind; a program image is checked as for every mill. -/
def execVerify (h : HopId) (slot : SlotId) (s : State) : Out :=
  let n := slot.val
  if starting s h n 0x12 then
    if !imageRange s h n then .next (reject s h n 7 1)
    else
      let mc := selF s h n 2 0 1 = 1
      let s := modSlot s h n fun x => { x with clamps := loadClamps s h n 1 false }
      let (s, b) := readImage s (selF s h n 0 0 22) (selF s h n 1 0 32)
      let bad := if mc then (mcCheck s b).map (·.2) else progCheck s b (List.range (nMills s))
      let key := if mc then mcKeyOf b else ib b 6
      .next (finish s h n (if bad.isSome then 6 else 0) (bad.getD 0) (loadResults b key ++ digestWords (sha384 b)))
  else .next s

/-- The whole image written at once: the Miller's own load of a kept image (R518 step 4). -/
def writeImage (s : State) (b : List Byte) : State :=
  (sects b).foldl (fun s x =>
    if x.ty = 1 then
      forAll s ((List.range (nWords x)).filter fun p => p == 0 || (x.tgt + p) % 18 == 0) fun s p =>
        pstoreEnd (writeLine b x p (pstoreBegin s x.unit ((x.tgt + p) / 18) 0 true)) x.unit
    else writeSect b s x) s

end Sys2Proof.Machine
end

