-- ==== Sys2Proof/Machine/LoopCmd.lean ====
section
/-! DEFINITION. The loop commands of the hoppers: LOOP_DEFINE, LOOP_START, LOOP_STOP, LOOP_PARAM_SET, LOOP_PARAM_GET and
LOOP_MIGRATE (R89, R90, R95, R432 to R441, R544). -/

namespace Sys2Proof.Machine

/-! ### Making a wheel's memories ready (R35, R340, R434) -/

/-- The power fields of wheel `w` that LOOP_DEFINE sets to ON and that are not. -/
def wheelFields (s : State) (w : Nat) : List (PwrReg × Nat) :=
  let m := millOf w
  let p := 4 * m
  (if spField s w = 0 then [] else [(if w < 32 then .sp0 else .sp1, w % 32)]) ++
  (if pinField s w = 0 then [] else [(if w < 32 then .pin0 else .pin1, w % 32)]) ++
  (if w = p ∨ pinField s p = 0 then [] else [(if p < 32 then .pin0 else .pin1, p % 32)]) ++
  (if fld s.mem.cspwr (2 * m) 2 = 0 then [] else [(.cs, m)])

/-- The mill of a wheel is ON and locked, and its memories are ON, with no transition in progress. -/
def wheelReady (s : State) (w : Nat) : Bool :=
  let x := getMill s (millOf w)
  x.pstate == 0 && x.lock && (wheelFields s w).isEmpty && s.mem.trans.isEmpty

/-- One step toward `wheelReady`: the mill is set to ON, then the memories. -/
def wheelUp (s : State) (w : Nat) : State :=
  let m := millOf w
  let x := getMill s m
  if x.pstate ≠ 0 then millSet s m x.freq 0
  else if !x.lock || !s.mem.trans.isEmpty then s
  else (wheelFields s w).foldl (fun s f => powerOn s f.1 [f.2]) s

/-- That step changes something: it does not only wait. -/
def wheelAsks (s : State) (w : Nat) : Bool :=
  let x := getMill s (millOf w)
  x.pstate != 0 || (x.lock && s.mem.trans.isEmpty && !(wheelFields s w).isEmpty)

/-- The step for a running command, which notes that it has changed something (R424). -/
def cmdWheelUp (s : State) (h : HopId) (n w : Nat) : State :=
  if wheelAsks s w then modSlot (wheelUp s w) h n fun x => { x with changed := true } else s

/-! ### LOOP_DEFINE -/

def dFrame (s : State) (h : HopId) (n : Nat) : Nat := selF s h n 0 0 9
def dWheel (s : State) (h : HopId) (n : Nat) : Nat := selF s h n 0 16 6
def dOp (s : State) (h : HopId) (n : Nat) : Nat := clampE 2 0 (selF s h n 0 24 3)
def dPair (s : State) (h : HopId) (n : Nat) : Bool := selF s h n 0 27 1 == 1

/-- Applied values of fields 1 to 4. -/
def dPeriod (s : State) (h : HopId) (n : Nat) : Nat := clampN 500 1000000 (fld (fieldOr s h n 1 1000000) 0 32)
def dMaxDead (s : State) (h : HopId) (n : Nat) : Nat :=
  dPeriod s h n * (100 * ((getMill s (millOf (dWheel s h n))).freq + 4)) / 1000
def dDead (s : State) (h : HopId) (n : Nat) : Nat :=
  let m := dMaxDead s h n
  clampN 1 m (fld (fieldOr s h n 2 (BitVec.ofNat 64 m)) 0 32)
def dSails (s : State) (h : HopId) (n : Nat) : W64 :=
  let v := fieldOr s h n 3 (BitVec.allOnes 64)
  if dPair s h n then v else setFld v 32 32 0xFFFFFFFF
def dEntries (s : State) (h : HopId) (n : Nat) : W64 :=
  let v := fieldOr s h n 4 0
  if dPair s h n then v else setFld v 32 32 0

/-- TDEST: a tag other than ADDR and EMPTY gives EMPTY. -/
def dTdest (s : State) (h : HopId) (n : Nat) : W64 :=
  let v := wordOf (fieldOr s h n 5 (ofWord emptyW))
  ofWord (if v.tag = .addr ∨ v.tag = .empty then v else emptyW)

/-- A Q31 parameter of field `i`, 0 to MAX. -/
def dQ31 (s : State) (h : HopId) (n i : Nat) : W64 :=
  let v := fld (fieldOr s h n i 0) 0 32
  BitVec.ofNat 64 (if v ≥ 0x80000000 then 0 else v)
def dDwell (s : State) (h : HopId) (n : Nat) : Nat := clampN 1 255 (fld (fieldOr s h n 8 1) 0 32)

/-- WAKE0 and WAKE1: the reserved bits cleared (R420), and DIR 0 in an enabled field without a mode pair; FRAME and PEND
are the engine's and are not reported (R432, R433). -/
def dWake (s : State) (h : HopId) (n k : Nat) : W64 :=
  let v := BitVec.ofNat 64 (fld (fieldOr s h n (9 + k) 0) 0 25)
  if bitOf v 0 && !dPair s h n then setFld v 16 1 0 else v

def wkEn (v : W64) : Bool := bitOf v 0
def wkSrc (v : W64) : Bool := bitOf v 1
def wkIdx (v : W64) : Nat := fld v 2 9

/-- A STATE or PARAM word, frame word 12 to 59 in fields 11 to 58. -/
def dWord (s : State) (h : HopId) (n i : Nat) : W64 := clampW (fieldOr s h n (i - 1) (ofWord emptyW))

/-- The applied value of field `i`. -/
def dField (s : State) (h : HopId) (n i : Nat) : W64 :=
  match i with
  | 0 => applyF (fieldOr s h n 0 0) [(0, 9, id), (16, 6, id), (24, 3, clampE 2 0), (27, 1, id), (28, 4, id)]
  | 1 => BitVec.ofNat 64 (dPeriod s h n)
  | 2 => BitVec.ofNat 64 (dDead s h n)
  | 3 => dSails s h n
  | 4 => dEntries s h n
  | 5 => dTdest s h n
  | 6 => dQ31 s h n 6
  | 7 => dQ31 s h n 7
  | 8 => BitVec.ofNat 64 (dDwell s h n)
  | 9 => dWake s h n 0
  | 10 => dWake s h n 1
  | i => dWord s h n (i + 1)

/-- The clamp entries of a definition, in ascending field index (R420, R426). -/
def dClamps (s : State) (h : HopId) (n : Nat) : List Clamp :=
  (if dOp s h n = 2 then [0] else List.range 59).flatMap fun i => clampOf s h n i (dField s h n i)

/-- The sails that the definition names. -/
def dNamed (s : State) (h : HopId) (n : Nat) : List Nat :=
  let v := dSails s h n
  sailList ⟨.int, v.setWidth 32⟩ ++ sailList ⟨.int, (v >>> 32).setWidth 32⟩

def sailByteBad (v : W64) (lo : Nat) : Bool := (List.range 4).any fun k =>
  let j := fld v (lo + 8 * k) 8
  j ≥ 192 && j != 0xFF

/-- A wake field names a source that does not exist (R433). -/
def wakeBad (s : State) (v : W64) : Bool :=
  wkEn v && (if wkSrc v then wkIdx v ≥ 8 else wkIdx v ≥ 384 || (wkIdx v ≥ 256 && !hasRing s))

/-- Order 4: the index of the first selector that names nothing (R421, R432 to R434). -/
def dSelector (s : State) (h : HopId) (n : Nat) : Option Nat :=
  let undef := (getFrame s (dFrame s h n)).isNone
  if dOp s h n = 2 then (if undef then some 0 else none)
  else
    let w := dWheel s h n
    let e := fieldOr s h n 4 0
    if nWheels s ≤ w ∨ (dOp s h n = 1 ∧ undef = true) then some 0
    else if sailByteBad (fieldOr s h n 3 (BitVec.allOnes 64)) 0 || (dPair s h n && sailByteBad (fieldOr s h n 3 0) 32) then some 3
    else if (xferExc {} w (e.setWidth 32)).isSome || (dPair s h n && (xferExc {} w ((e >>> 32).setWidth 32)).isSome) then some 4
    else if wakeBad s (dWake s h n 0) then some 9
    else if wakeBad s (dWake s h n 1) then some 10
    else none

/-- A sail is named by a defined frame other than `f` (R434, R485). -/
def claimedBy (s : State) (f j : Nat) : Bool := (frameKeys s).any fun g =>
  g != f && (match getFrame s g with
    | some d => (frameSails s d.wheel d.slot).contains j
    | none => false)

/-- Wake entries that a definition needs. -/
def dWakes (s : State) (h : HopId) (n : Nat) : Nat := b2n (wkEn (dWake s h n 0)) + b2n (wkEn (dWake s h n 1))

/-- R89: no slot or too few wake entries on the wheel, those of the old frame counted as free. -/
def noRoom (s : State) (h : HopId) (n : Nat) : Bool :=
  let w := dWheel s h n
  let old := match getFrame s (dFrame s h n) with
    | some d => if d.wheel = w then (1, (frameWakes d).length) else (0, 0)
    | none => (0, 0)
  let slots := ((List.range 16).filter fun t => (frameAt s w t).isNone).length + old.1
  slots == 0 || decide ((freeWakes s w).length + old.2 < dWakes s h n)

/-- Order 5: holds, then the command's own refusals (R423, R434). -/
def dRefusal (s : State) (h : HopId) (n : Nat) : Option Nat :=
  let f := dFrame s h n
  let op := dOp s h n
  let w := match op, getFrame s f with
    | 2, some d => d.wheel
    | _, _ => dWheel s h n
  let l := match op, getFrame s f with
    | 2, some d => frameSails s d.wheel d.slot
    | _, _ => dNamed s h n
  let gs := ((l.map (· / 8)).filter (shared s)).eraseDups
  if held s (.frame f) || heldWheel s w || l.any (fun j => held s (.sail j)) then some 1
  else if op = 0 ∧ (getFrame s f).isSome = true then some 2
  else if op ≠ 0 ∧ frameState s f ≠ 0 then some 2
  else if op = 2 then none
  else if millOf w = s.standby then some 2
  else if l.any (claimedBy s f) then some 2
  else if gs.length > 1 then some 2
  else if gs ≠ [] ∧ s.twin.role ≠ .simplex then some 2
  else if noRoom s h n then some 3
  else none

/-- A frame's slot, entries, sails, staged values and keys are freed; the sails of `keep` stay its own (R408, R434). -/
def freeFrame (s : State) (f : Nat) (d : FrameDef) (keep : List Nat) : State :=
  let l := (frameSails s d.wheel d.slot).filter fun j => ownsSail s d.wheel j && !keep.contains j
  let s := forAll s l fun s j => modSail s j fun x => { x with owned := false, owner := 0 }
  let s := (frameWakes d).foldl (fun s e => modWake s d.wheel e fun _ => {}) s
  let s := modWheel s d.wheel fun x =>
    { x with fetch := { x.fetch with entry := (frameWakes d).foldl (fun t e => tset none t e none) x.fetch.entry },
             staged := (List.range 4).foldl (fun t j => tset none t (ffKey d.slot j) none) x.staged,
             applied := (List.range 4).foldl (fun t j => tset none t (ffKey d.slot j) none) x.applied }
  setFrame s f none

/-- The timebase of a new frame (R432). -/
def dTb (s : State) (h : HopId) (n : Nat) : Nat :=
  match sailList ⟨.int, (dSails s h n).setWidth 32⟩ with
  | j :: _ => (getSail s j).tb
  | [] => if wkEn (dWake s h n 0) && wkSrc (dWake s h n 0) then wkIdx (dWake s h n 0) else 0

/-- The 64 words of a new frame (R90, R91, R432). -/
def dWords (s : State) (h : HopId) (n : Nat) : List TWord :=
  let lo (v : W64) : W32 := v.setWidth 32
  let hi (v : W64) : W32 := (v >>> 32).setWidth 32
  let stat := 4 * b2n (dPair s h n) + 0x4000 * dTb s h n
  [intW stat, intW (dDead s h n), intW (dPeriod s h n), ⟨.int, lo (dSails s h n)⟩, ⟨.int, hi (dSails s h n)⟩,
   ⟨.code, lo (dEntries s h n)⟩, if dPair s h n then ⟨.code, hi (dEntries s h n)⟩ else emptyW, wordOf (dTdest s h n),
   ⟨.q31, lo (dQ31 s h n 6)⟩, ⟨.q31, lo (dQ31 s h n 7)⟩, intW (dDwell s h n), ⟨.q31, 0⟩] ++
  ((List.range 48).map fun i => wordOf (dWord s h n (12 + i))) ++
  ((List.range 4).map fun j => ⟨if selF s h n 0 (28 + j) 1 = 1 then .q16 else .q31, 0⟩)

/-- A wake entry as LOOP_DEFINE allocates it, not yet armed (R81, R433). -/
def dEnt (v : W64) (slot : Nat) : WakeEnt :=
  { alloc := true, src := wkSrc v, idx := wkIdx v, frame := slot, dir := bitOf v 16, div := fld v 17 8 }

/-- R0 and R1 of R434. -/
def defResults (f : Nat) (d : FrameDef) : List W64 :=
  let e (k : Nat) : Nat := ((d.wakes[k]?).bind id).getD 15
  [pk [(0, f), (16, d.wheel), (24, d.slot)], pk [(0, e 0), (4, e 1)]]

/-- The frame is written (R90, R434). -/
def defineFrame (s : State) (h : HopId) (n : Nat) : State :=
  let f := dFrame s h n
  let w := dWheel s h n
  let sails := dNamed s h n
  let ws := dWords s h n
  let s := match getFrame s f with
    | some d => freeFrame s f d (if d.wheel = w then sails else [])
    | none => s
  match freeSlot s w with
  | none => finish s h n 2 3 []
  | some t =>
    let fr := freeWakes s w
    let v0 := dWake s h n 0
    let v1 := dWake s h n 1
    let e0 := if wkEn v0 then some (nth 0 fr 0) else none
    let e1 := if wkEn v1 then some (nth 0 fr (b2n (wkEn v0))) else none
    let s := match e0 with
      | some e => modWake s w e fun _ => dEnt v0 t
      | none => s
    let s := match e1 with
      | some e => modWake s w e fun _ => dEnt v1 t
      | none => s
    let s := askTdest (ws.zipIdx.foldl (fun s p => setFw s w t p.2 p.1) s) w t
    let s := forAll s sails fun s j => modSail s j fun x => { x with owned := true, owner := w }
    let d : FrameDef := { wheel := w, slot := t, wakes := [e0, e1], ffq16 := BitVec.ofNat 4 (selF s h n 0 28 4), arm := false,
                          stop := false, moveTo := none, moveLines := [], home := none, runs := 0, lastWake := 0, appliedRun := none,
                          appliedAt := 0, stagedRec := none, stagedExt := none }
    settleStandby (finish (setFrame s f (some d)) h n 0 0 (defResults f d))

/-- LOOP_DEFINE goes on: memories are made ready, then the parked wheel takes the frame. -/
def defineStep (s : State) (h : HopId) (n : Nat) : State :=
  let w := dWheel s h n
  if wheelReady s w then (if canApply s w then defineFrame s h n else s)
  else cmdWheelUp s h n w

/-- LOOP_DEFINE (R432 to R434). -/
def execLoopDefine (h : HopId) (slot : SlotId) (s : State) : Out :=
  let n := slot.val
  if starting s h n 0x20 then
    match dSelector s h n with
    | some i => .next (reject s h n 7 i)
    | none =>
      match dRefusal s h n with
      | some k => .next (reject s h n 2 k)
      | none =>
        let f := dFrame s h n
        if dOp s h n = 2 then
          match getFrame s f with
          | none => .next (reject s h n 7 0)
          | some d =>
            let s := modSlot s h n fun x => { x with clamps := dClamps s h n }
            .next (settleStandby (finish (freeFrame s f d []) h n 0 0 (defResults f d)))
        else
          let hold := [Obj.frame f, Obj.wheel (dWheel s h n)] ++ (dNamed s h n).map Obj.sail
          .next (defineStep (begin_ s h n 1 hold (dClamps s h n) []) h n)
  else if inPhase s h n 0x20 1 then .next (defineStep s h n)
  else .next s

/-! ### LOOP_START and LOOP_STOP -/

/-- The frames of the mask in fields 0 to 7 (R435). -/
def maskFrames (s : State) (h : HopId) (n : Nat) : List Nat :=
  (List.range 512).filter fun k => bitOf (fieldOr s h n (k / 64) 0) (k % 64)

/-- The first frame of a list that is not defined. -/
def undefFrame (s : State) (l : List Nat) : Option Nat := l.find? fun f => (getFrame s f).isNone

/-- A pending start of this slot's command. -/
def isStartOf (h : HopId) (n : Nat) : FrameAct → Bool
  | .start _ _ g k => g == h && k == n
  | _ => false

/-- A pending stop of this slot's command. -/
def isStopOf (h : HopId) (n : Nat) : FrameAct → Bool
  | .stop _ g k => g == h && k == n
  | _ => false

/-- Some wheel still has a pending hopper write of a kind. -/
def actsLeft (s : State) (p : FrameAct → Bool) : Bool := s.wheels.any fun x => x.2.acts.any p

/-- The end of a command that arms frames: R544 in place of 00h or 01h. -/
def finishArm (s : State) (h : HopId) (n changed left : Nat) (results : List W64) : State :=
  if left > 0 then finish s h n (if changed = 0 then 6 else 9) 0xE results else finish s h n 0 0 results

/-- LOOP_START completes once no start is pending. -/
def startStep (s : State) (h : HopId) (n : Nat) : State :=
  if actsLeft s (isStartOf h n) then s
  else finishArm s h n (auxAt s h n 0) (auxAt s h n 1) [BitVec.ofNat 64 (auxAt s h n 0)]

/-- The start of a frame is queued to its wheel, unless it is started. -/
def askStart (s : State) (h : HopId) (n f : Nat) : State :=
  match getFrame s f with
  | none => s
  | some d =>
    if fsState s d.wheel d.slot = 0 then modWheel s d.wheel fun x => { x with acts := x.acts ++ [.start d.slot f h n] } else s

/-- LOOP_START (R95, R435, R544). -/
def execLoopStart (h : HopId) (slot : SlotId) (s : State) : Out :=
  let n := slot.val
  if starting s h n 0x21 then
    let l := maskFrames s h n
    match undefFrame s l with
    | some f => .next (reject s h n 7 (f / 64))
    | none =>
      if l.any fun f => held s (.frame f) then .next (reject s h n 2 1)
      else if l.any fun f => frameState s f == 2 then .next (reject s h n 2 2)
      else
        let s := begin_ s h n 1 (l.map Obj.frame) [] [0, 0]
        .next (startStep (forAll s l fun s f => askStart s h n f) h n)
  else if inPhase s h n 0x21 1 then .next (startStep s h n)
  else .next s

/-- LOOP_STOP completes once every named frame is stopped; its list holds the frames that were started. -/
def stopStep (s : State) (h : HopId) (n : Nat) : State :=
  if (maskFrames s h n).all fun f => frameState s f == 0 then
    finish s h n 0 0 [BitVec.ofNat 64 (getSlot s h n).aux.length]
  else s

/-- The stop of a frame is queued to its wheel, which applies it while parked (R92; log 112). -/
def askStop (s : State) (h : HopId) (n f : Nat) : State :=
  match getFrame s f with
  | none => s
  | some d => modWheel s d.wheel fun x => { x with acts := x.acts ++ [.stop f h n] }

/-- LOOP_STOP (R92, R95, R435). -/
def execLoopStop (h : HopId) (slot : SlotId) (s : State) : Out :=
  let n := slot.val
  if starting s h n 0x22 then
    let l := maskFrames s h n
    match undefFrame s l with
    | some f => .next (reject s h n 7 (f / 64))
    | none =>
      if l.any fun f => held s (.frame f) then .next (reject s h n 2 1)
      else
        let go := l.filter fun f => frameState s f == 1
        let s := begin_ s h n 1 (l.map Obj.frame) [] go
        .next (stopStep (forAll s go fun s f => askStop s h n f) h n)
  else if inPhase s h n 0x22 1 then .next (stopStep s h n)
  else .next s

/-! ### Parameters -/

/-- The words of a mask, ascending. -/
def maskBits (k : Nat) (v : W64) : List Nat := (List.range k).filter fun i => bitOf v i

/-- The applied value for frame word `12 + i` in field `j` (R436, R437). -/
def paramVal (s : State) (h : HopId) (n : Nat) (d : FrameDef) (i j : Nat) : W64 :=
  let v := clampW (fieldOr s h n j 0)
  if i < 48 then v
  else
    let q16 := bitOf d.ffq16 (i - 48)
    let t := (wordOf v).tag
    let ok := if q16 then t == .q16 || t == .q16s else t == .q31 || t == .q31s
    if ok then v else ofWord ⟨if q16 then .q16 else .q31, 0⟩

/-- LOOP_PARAM_SET (R436, R437): the words are queued to the wheel in ascending order. -/
def execLoopParamSet (h : HopId) (slot : SlotId) (s : State) : Out :=
  let n := slot.val
  if starting s h n 0x23 then
    let f := dFrame s h n
    match getFrame s f with
    | none => .next (reject s h n 7 0)
    | some d =>
      if held s (.frame f) then .next (reject s h n 2 1)
      else
        let m := applyF (fieldOr s h n 1 0) [(0, 52, id)]
        let l := (maskBits 52 m).zipIdx
        let cl := clampOf s h n 0 (BitVec.ofNat 64 f) ++ clampOf s h n 1 m ++
          l.flatMap fun p => clampOf s h n (2 + p.2) (paramVal s h n d p.1 (2 + p.2))
        let acts := (l.map fun p => FrameAct.word d.slot (12 + p.1) (wordOf (paramVal s h n d p.1 (2 + p.2))) h n) ++ [.done h n]
        let s := begin_ s h n 1 [.frame f] cl [0]
        .next (modWheel s d.wheel fun x => { x with acts := x.acts ++ acts })
  else .next s

/-- A wake entry as LOOP_PARAM_GET shows it (R81). -/
def wakeReg (s : State) (w : Nat) (e : Option Nat) : W64 :=
  match e with
  | none => 0
  | some e =>
    let n := getWake s w e
    pk [(0, b2n n.en), (1, b2n n.src), (2, n.idx), (11, b2n n.pend), (12, n.frame), (16, b2n n.dir), (17, n.div)]

/-- The frame is held by LOOP_DEFINE, LOOP_MIGRATE or SELFTEST (R423). -/
def heldForGet (s : State) (f : Nat) (d : FrameDef) : Bool :=
  let p (h : HopId) : Bool := (runningSlots s h).any fun k =>
    let x := getSlot s h k
    let op := pktOp s h k
    (op == 0x20 || op == 0x25 || op == 0x50) && (x.holds.contains (.frame f) || (op == 0x50 && x.holds.contains (.mill (millOf d.wheel))))
  p .c || p .s

/-- LOOP_PARAM_GET reads every named word in one parked interval (R438); an uncorrectable word reads POISON (R331). -/
def paramRead (s : State) (h : HopId) (n f : Nat) (d : FrameDef) : State :=
  if canApply s d.wheel then
    let l := maskBits 64 (fieldOr s h n 1 0)
    let v := l.map fun i => ofWord (readFw s d.wheel d.slot i)
    let s := forAll s l fun s i => spadNote s d.wheel (frameAddr d.slot i)
    finish s h n 0 0 ([nth 0 (defResults f d) 0, wakeReg s d.wheel ((d.wakes[0]?).bind id), wakeReg s d.wheel ((d.wakes[1]?).bind id)] ++ v)
  else s

/-- LOOP_PARAM_GET (R438). -/
def execLoopParamGet (h : HopId) (slot : SlotId) (s : State) : Out :=
  let n := slot.val
  let f := dFrame s h n
  if starting s h n 0x24 then
    match getFrame s f with
    | none => .next (reject s h n 7 0)
    | some d =>
      if heldForGet s f d then .next (reject s h n 2 1)
      else .next (paramRead (begin_ s h n 1 [] (clampOf s h n 0 (BitVec.ofNat 64 f)) []) h n f d)
  else if inPhase s h n 0x24 1 then
    match getFrame s f with
    | none => .next (finish s h n 8 0 [])
    | some d => .next (paramRead s h n f d)
  else .next s

/-! ### LOOP_MIGRATE -/

/-- No standby mill is free (R26, R30, R529). -/
def noStandby (s : State) : Bool := decide (s.standby ≥ 16) || s.occupied || bitOf s.svc.mfail s.standby

/-- The frames on a mill, with the wheel of the same position of another mill. -/
def millMoves (s : State) (m m' : Nat) : List (Nat × Nat) :=
  (millFrames s m).filterMap fun f => (getFrame s f).map fun d => (f, 4 * m' + posOf d.wheel)

/-- The frames on the standby mill, with the wheels that KIND 1 took them from. -/
def homeMoves (s : State) : List (Nat × Nat) :=
  (millFrames s s.standby).filterMap fun f => (getFrame s f).bind fun d => d.home.map fun w => (f, w)

/-- The frames to move and their targets. -/
def migMoves (s : State) (kind src tgt : Nat) : List (Nat × Nat) :=
  if kind = 0 then [(src, tgt)] else if kind = 1 then millMoves s src s.standby else homeMoves s

def frameWheel (s : State) (f : Nat) : Nat :=
  match getFrame s f with
  | some d => d.wheel
  | none => 0

/-- A target wheel lacks slots or entries for the frames that come to it (R89, R439). -/
def migNoRoom (s : State) (l : List (Nat × Nat)) : Bool :=
  (l.map (·.2)).eraseDups.any fun w =>
    let fs := (l.filter fun p => p.2 == w).map (·.1)
    let need := (fs.map fun f => match getFrame s f with
      | some d => (frameWakes d).length
      | none => 0).foldl (· + ·) 0
    decide (((List.range 16).filter fun t => (frameAt s w t).isNone).length < fs.length) || decide ((freeWakes s w).length < need)

/-- A frame holds program-store CODE words (R441). -/
def usesStore (s : State) (f : Nat) : Bool :=
  match getFrame s f with
  | some d => (List.range 64).any fun i => (fw s d.wheel d.slot i).tag == .code && cRegion (fw s d.wheel d.slot i).val == 0
  | none => false

/-- The program records of the two mills of a move differ where the frame needs them (R441). -/
def migRecords (s : State) (l : List (Nat × Nat)) : Bool := l.any fun p =>
  let a := millOf (frameWheel s p.1)
  let b := millOf p.2
  a != b && usesStore s p.1 && (getMill s a).progId != (getMill s b).progId

/-- The mills that a migration holds. -/
def migMills (s : State) (kind src : Nat) (l : List (Nat × Nat)) : List Nat :=
  ((if kind = 1 then [src] else []) ++ (l.flatMap fun p => [millOf (frameWheel s p.1), millOf p.2]) ++
    (if s.standby < 16 then [s.standby] else [])).eraseDups

/-- The stores of two mills hold the same image, or none (R279). -/
def storesMatch (s : State) (m m' : Nat) : Bool :=
  (getMill s m).mcId == (getMill s m').mcId && (getMill s m).mcDigest == (getMill s m').mcDigest

/-- The store of mill `m'` is loaded with the image that mill `m` holds, from the Miller's verified copy under R275, or
emptied like that of `m` (R278, R279). -/
def copyStore (s : State) (m m' : Nat) : State :=
  let a := getMill s m
  if a.mcId = 0 then clearCstore s m'
  else
    match keptImage s a.mcId a.mcDigest with
    | some b => loadMills s [m'] b
    | none => s

/-- The store of a target mill is matched to the source's (R279). -/
def matchStore (s : State) (m m' : Nat) : State := if storesMatch s m m' then s else copyStore s m m'

/-- The entry-line copies of a frame loaded from the slice of mill `m`, by the order of its entries (R239, R440 step 1). -/
def linesFrom (s : State) (d : FrameDef) (m : Nat) : List (Option LineCopy) :=
  (frameWakes d).map fun e => ((frameLines s d).find? fun p => p.1 == e).map fun p => lineCopy s m p.2

/-- The moves are due at their boundaries, with the entry-line copies loaded; frames whose entry lines fail in the target mill
are left (R440, R544). The number left is answered. -/
def armMoves (s : State) (l : List (Nat × Nat)) : State × Nat :=
  l.foldl (fun p q =>
    match getFrame p.1 q.1 with
    | none => p
    | some d =>
      if linesBad p.1 d (millOf q.2) then (p.1, p.2 + 1)
      else (modFrame p.1 q.1 fun d => { d with moveTo := some q.2, moveLines := linesFrom p.1 d (millOf q.2) }, p.2)) (s, 0)

/-- The moves from the slot's list: kind and left, then frames and targets. -/
def migList (s : State) (h : HopId) (n : Nat) : List (Nat × Nat) :=
  let l := (getSlot s h n).aux.drop 2
  (List.range (l.length / 2)).map fun i => (nth 0 l (2 * i), nth 0 l (2 * i + 1))

/-- Frames of a list that have come to their targets. -/
def movedCount (s : State) (l : List (Nat × Nat)) : Nat :=
  (l.filter fun p => frameWheel s p.1 == p.2 && (match getFrame s p.1 with
    | some d => d.moveTo.isNone
    | none => false)).length

/-- A KIND 1 move that moved no frame leaves no mark (R439). -/
def settleMoved (s : State) : State :=
  if s.svc.moved.isSome && !s.occupied then modSvc s fun v => { v with moved := none } else s

/-- Step 1 of R440 for every target, then the moves; then the end. -/
def migStep (s : State) (h : HopId) (n : Nat) : State :=
  let l := migList s h n
  if (getSlot s h n).phase = 1 then
    match l.find? fun p => !wheelReady s p.2 with
    | some p => cmdWheelUp s h n p.2
    | none =>
      let loads := l.any fun p => !storesMatch s (millOf (frameWheel s p.1)) (millOf p.2)
      let s := l.foldl (fun s p => matchStore s (millOf (frameWheel s p.1)) (millOf p.2)) s
      let s := if auxAt s h n 0 = 1 then modSvc s fun v => { v with moved := some (selF s h n 1 0 9, s.standby) } else s
      let (s, left) := armMoves s l
      modSlot s h n fun x =>
        { x with phase := 2, aux := [nth 0 x.aux 0, left] ++ x.aux.drop 2, changed := x.changed || loads }
  else
    let k := movedCount s l
    let left := auxAt s h n 1
    if k + left ≥ l.length then
      finishArm (settleMoved s) h n k left [BitVec.ofNat 64 k, BitVec.ofNat 64 (l.length - k)]
    else s

/-- Order 5 of LOOP_MIGRATE: status and DETAIL (R439, R441). -/
def migRefusal (s : State) (kind src : Nat) (l : List (Nat × Nat)) : Option (Nat × Nat) :=
  if (l.any fun p => held s (.frame p.1)) || (migMills s kind src l).any (heldMill s) then some (2, 1)
  else if kind = 1 ∧ (noStandby s = true ∨ src = s.standby) then some (3, 2)
  else if kind = 2 ∧ s.occupied = false then some (2, 2)
  else if migNoRoom s l then some (2, 3)
  else if migRecords s l then some (2, 2)
  else none

/-- LOOP_MIGRATE (R439 to R441, R544). -/
def execLoopMigrate (h : HopId) (slot : SlotId) (s : State) : Out :=
  let n := slot.val
  if starting s h n 0x25 then
    let kind := clampE 2 0 (selF s h n 0 0 2)
    let src := selF s h n 1 0 9
    let tgt := selF s h n 2 0 6
    if kind = 0 ∧ (getFrame s src).isNone = true then .next (reject s h n 7 1)
    else if kind = 1 ∧ nMills s ≤ src then .next (reject s h n 7 1)
    else if kind = 0 ∧ nWheels s ≤ tgt then .next (reject s h n 7 2)
    else
      let l := migMoves s kind src tgt
      match migRefusal s kind src l with
      | some (st, d) => .next (reject s h n st d)
      | none =>
        let cl := clampOf s h n 0 (BitVec.ofNat 64 kind) ++
          (if kind = 2 then [] else clampOf s h n 1 (BitVec.ofNat 64 src)) ++
          (if kind = 0 then clampOf s h n 2 (BitVec.ofNat 64 tgt) else [])
        let holds := l.map (fun p => Obj.frame p.1) ++ (migMills s kind src l).map Obj.mill
        .next (migStep (begin_ s h n 1 holds cl ([kind, 0] ++ l.flatMap fun p => [p.1, p.2])) h n)
  else if inPhase s h n 0x25 1 || inPhase s h n 0x25 2 then .next (migStep s h n)
  else .next s

end Sys2Proof.Machine
end

