-- ==== Sys2Proof/Machine/PairCmd.lean ====
section
/-! DEFINITION. TWIN_JOIN, TWIN_LEAVE, RING_JOIN and INTENT_POST (R376 to R378, R398, R404, R405, R442 to R444). -/

namespace Sys2Proof.Machine

/-- The state from which a TWIN_JOIN runs: ROLE joining, the procedure's registers empty, the newcomer's groups not
driven, EN set on the present millrace lanes (R376, R442). -/
def twinJoinStart (s : State) (n : Nat) (newc : Bool) : State :=
  let s := modTwin s fun t =>
    { t with role := .joining, joinAt := some (n, 1, newc), out := [], due := [], rxCseq := none, rxDone := [], peerRole := 0, peerHello := none,
             copied := 0, copyDue := none, copyQ := [], peerLost := false, peerHb := none, miss := 0, chk := none,
             hand := none, takeAt := 0, yieldAt := 0, cnt := [], ownDuty := [], drvDuty := [], trackBad := false }
  let s := if newc then
      forAll (setDrv s (s.twin.drvsel &&& ~~~ (twGroups s))) (frameKeys s) fun s f =>
        modFrame s f fun d => { d with appliedRun := none, stagedRec := none, stagedExt := none }
    else s
  let s := lanectlWr s 0 true false false
  if hasRace1 s then lanectlWr s 1 true false false else s

/-- A TWIN_JOIN that is refused: DETAIL and TWINSTAT.JERR (R377, R382, R442). -/
def twinJoinRefuse (s : State) (h : HopId) (n jerr : Nat) : State :=
  reject (modTwin s fun t => { t with jerr := jerr }) h n 2 jerr

/-- TWIN_JOIN (R376, R377, R442). -/
def execTwinJoin (h : HopId) (slot : SlotId) (s : State) : Out :=
  let n := slot.val
  if starting s h n 0x30 then
    let newc := selF s h n 0 0 1 == 1
    if held s .millrace then .next (reject s h n 2 1)
    else if mirroring s then .next (twinJoinRefuse s h n (Config.joinJerr 0).toNat)
    else if s.twin.role = .held ∧ newc = false then .next (twinJoinRefuse s h n 4)
    else
      let s := begin_ s h n 1 [.millrace] (clampOf s h n 0 (BitVec.ofNat 64 (b2n newc))) []
      .next (joinAdvance (twinJoinStart s n newc))
  else if inPhase s h n 0x30 1 then .next (joinAdvance s)
  else .next s

/-- The TB_IDX two periods after the current one, for each timebase (R378 step 1). -/
def handIdx (s : State) : List (BitVec 16) := (List.range 8).map fun t => (getTb s t).idx + 2

/-- The leaving complex hands over what it drives; one that drives no group leaves at once (R378). -/
def leaveStart (s : State) : State :=
  let g := s.twin.drvsel &&& twGroups s
  if g = 0 then leaveStep s
  else sendMsg (modTwin s fun t => { t with hand := some (g, false, handIdx s) }) (.handover g (handIdx s))

/-- The handover has not begun to pass: the groups that TWIN_LEAVE named are all still to pass (R442). -/
def handWhole (s : State) (n : Nat) : Bool :=
  match s.twin.hand with
  | some (g, _, _) => g.toNat == nth 0 (getSlot s .c n).aux 0
  | none => true

/-- TWIN_LEAVE (R378, R442). -/
def execTwinLeave (h : HopId) (slot : SlotId) (s : State) : Out :=
  let n := slot.val
  if starting s h n 0x31 then
    let peer := selF s h n 0 0 1 == 1
    if held s .millrace then .next (reject s h n 2 1)
    else if !mirroring s || s.twin.chk.isSome || s.twin.joinAt.isSome then .next (reject s h n 2 2)
    else
      let s := begin_ s h n 1 [.millrace] (clampOf s h n 0 (BitVec.ofNat 64 (b2n peer)))
        [(s.twin.drvsel &&& twGroups s).toNat]
      let s := modTwin s fun t => { t with leaveAt := some (n, peer) }
      .next (if peer then s else leaveStart (modTwin s fun t => { t with role := .leaving }))
  else .next s

/-! ### The ring -/

/-- One binding entry: an entry in use (R404) with a reserved bit set, or beyond the 512th in use of its set, loses VALID
and is counted (R443; log 28). The list holds the sets of the entries in use so far. -/
def bindEntry (p : List W64 × Nat × List Nat) (b : W64) : List W64 × Nat × List Nat :=
  let k := fld b 0 8
  if bitOf b 19 then
    if fld b 20 12 != 0 || decide (512 ≤ (p.2.2.filter (· == k)).length) then
      (p.1 ++ [setFld b 19 1 0], p.2.1 + 1, k :: p.2.2)
    else (p.1 ++ [b], p.2.1, k :: p.2.2)
  else (p.1 ++ [b], p.2.1, p.2.2)

/-- The binding entries as the engine keeps them, and how many it clears (R404, R443). -/
def bindEntries (l : List W64) : List W64 × Nat :=
  let r := l.foldl bindEntry ([], 0, [])
  (r.1, r.2.1)

/-- RING_JOIN (R398, R443); called again, it looks whether the join is complete. -/
def execRingJoin (h : HopId) (slot : SlotId) (s : State) : Out :=
  let n := slot.val
  if starting s h n 0x40 then
    let src := selF s h n 1 0 22
    let cnt := clampN 0 1024 (selF s h n 2 0 11)
    if !hasRing s then .next (reject s h n 7 0)
    else if src + 2 * cnt > 0x400000 then .next (reject s h n 7 1)
    else if held s .ring then .next (reject s h n 2 1)
    else if ringJoined s then .next (reject s h n 2 2)
    else
      let c0 := applyF (fieldOr s h n 0 0) [(0, 5, id), (6, 1, id), (8, 32, id), (40, 4, id)]
      let cl := clampOf s h n 0 c0 ++ clampOf s h n 1 (BitVec.ofNat 64 src) ++ clampOf s h n 2 (BitVec.ofNat 64 cnt)
      let (s, ws) := payloadWords s src (2 * cnt)
      let (bind, bad) := bindEntries ((List.range cnt).map fun k => nth 0 ws (2 * k + 1) ++ nth 0 ws (2 * k))
      let s := begin_ s h n 1 [.ring] cl [bad]
      let s := modRing s fun r => { r with cfg := c0, bind := bind, joinAt := some n, near := false,
                                           clash := bitOf s.ring.present (fld c0 0 5) }
      .next (ringJoinStep (lanectlWr (lanectlWr s 2 true false false) 3 true false false) false)
  else if inPhase s h n 0x40 1 then .next (ringJoinStep s true)
  else .next s

/-- INTENT_POST (R405, R444). -/
def execIntentPost (h : HopId) (slot : SlotId) (s : State) : Out :=
  let n := slot.val
  if starting s h n 0x41 then
    let now := s.ring_time.ns
    let soon := match s.ring.lastPost with
      | some t => decide ((now - t).toNat < 4000)
      | none => false
    if !hasRing s then .next (reject s h n 7 0)
    else if !ringJoined s || soon then .next (reject s h n 2 2)
    else
      let set := selF s h n 0 0 8
      let dl := BitVec.ofNat 64 (clampN (now.toNat + 13000) (now.toNat + 200000) (fieldOr s h n 2 0).toNat)
      let mag := (fieldOr s h n 1 0).setWidth 32
      let q := s.ring.iseq + 1
      let i : Intent := ⟨dl, now, q, BitVec.ofNat 8 set, mag, BitVec.ofNat 5 (ringMember s)⟩
      let cl := clampOf s h n 0 (BitVec.ofNat 64 set) ++ clampOf s h n 1 (mag.setWidth 64) ++ clampOf s h n 2 dl
      let s := modSlot s h n fun x => { x with clamps := cl }
      let s := modRing s fun r => { r with iseq := q, lastPost := some now }
      let s := modMem s (ringMember s) fun m => { m with iseq := some q }
      let s := intentIn (ringEmit s (.intent i 0)) i
      .next (finish s h n 0 0 [q.setWidth 64, now, dl, s.ring.present.setWidth 64])
  else .next s

end Sys2Proof.Machine
end

