-- ==== Sys2Proof/Machine/Service.lean ====
section
/-! DEFINITION. The service commands: SELFTEST of a mill and of a millpond bank (R445, R527 to R535), RESET_MILL and
RESET_WHEEL (R447, R488). -/

namespace Sys2Proof.Machine

/-! ### SELFTEST of a mill -/

/-- Counters of a mill test in the slot: mill tested, standby mill, frames moved, frames returned, frames left under R544,
result bits. -/
def tMill (s : State) (h : HopId) (n : Nat) : Nat := auxAt s h n 0
def tStand (s : State) (h : HopId) (n : Nat) : Nat := auxAt s h n 1
def tAux (s : State) (h : HopId) (n i v : Nat) : State := modSlot s h n fun x => { x with aux := setNth x.aux i v }
def inPlace (s : State) (h : HopId) (n : Nat) : Bool := tMill s h n == tStand s h n

def setBit16 (v : BitVec 16) (i : Nat) (b : Bool) : BitVec 16 := setFld v i 1 (b2n b)

/-- The wheels of a mill are held stopped, or let go (R528 step 5). -/
def isolate (s : State) (m : Nat) (b : Bool) : State := forAll s (millWheels m) fun s w => modWheel s w fun x => { x with stopped := b }

/-- The arrays of a mill after the march (R528 step 7, R530): cleared. -/
def clearArrays (s : State) (m : Nat) : State := isolate (clearMill s m) m true

/-- The frames that this test took from mill `m` and that stand on mill `st`. -/
def awayFrames (s : State) (m st : Nat) : List (Nat × Nat) :=
  (millFrames s st).filterMap fun f => (getFrame s f).bind fun d => (d.home.filter fun w => millOf w == m).map fun w => (f, w)

/-- The end of a mill test, with R0 to R2 of R531. -/
def testEnd (s : State) (h : HopId) (n status detail : Nat) (r : TestResult) (done : Bool) : State :=
  let m := tMill s h n
  let r0 := auxAt s h n 5 + (if inPlace s h n then 0x80 else 0) + m * 0x10000
  let r1 := pk [(0, auxAt s h n 2), (32, auxAt s h n 3)]
  let s := modSvc s fun v => { v with mrun := false, testcnt := if done then satInc 0xFFFF v.testcnt else v.testcnt }
  finish s h n status detail [BitVec.ofNat 64 r0, r1, r.micros]

/-- R0 bits of a failing step 6 or 7. -/
def testBits (r : TestResult) : Nat :=
  if r.logic then 2
  else 4 * b2n r.regf + 8 * b2n r.spad + 16 * b2n r.pin + 32 * b2n r.cstore +
    (if r.regf || r.spad || r.pin then r.wheelPos.toNat % 4 * 0x1000 else 0)

/-- Event 48 carries the completion of a failed test whether or not the packet asks for it (R529). -/
def failNotice (s : State) (h : HopId) (n : Nat) : State := if pktNotify s h n then s else raiseRouted s 48 0x50

/-- What R529 does with a failed mill `m` and the mill `st` that stands in for it; `bits` are those of R0. -/
def swapMills (s : State) (m st bits : Nat) : State :=
  let swap := m != st
  let s := modSvc s fun v => { v with mfail := setBit16 v.mfail m true, moved := none }
  let s := if swap then
      forAll { s with standby := m, occupied := false } (millFrames s st) fun s f => modFrame s f fun d => { d with home := none }
    else s
  logEntry s 0xE m 0 m (bits + (if swap then 0 else 0x80) + m * 0x10000)

/-- Step 6, 7 or 9 has failed (R529, R530); `bits` are those of R0. -/
def testFail (s : State) (h : HopId) (n bits : Nat) (r : TestResult) : State :=
  let bits := bits + (if inPlace s h n then 0 else 0x100)
  let s := swapMills (tAux s h n 5 bits) (tMill s h n) (tStand s h n) bits
  testEnd (failNotice s h n) h n 0 0 r true

/-- Step 8: the pinned stores, scratchpads and CDT of `m` are rewritten from those of the standby mill. -/
def rewriteArrays (s : State) (m st : Nat) : State :=
  let c := (getMill s st).cdt
  modMill (forAll s (List.range 4) fun s k => copyWheel s (4 * st + k) (4 * m + k)) m fun x => { x with cdt := c }

/-- The signature of the image that step 9 loads, verified again from the slot, fails (R279). -/
def reloadBad (s : State) (st : Nat) : Bool :=
  (getMill s st).mcId != 0 && keptBad s (getMill s st).mcId (getMill s st).mcDigest

/-- Steps 8 and 9: the arrays of `m` are filled from the standby mill, its store is reloaded from the Miller's slot, and stays
empty where no image verifies; the mill is let go (R279). -/
def refill (s : State) (m st : Nat) : State :=
  let s := rewriteArrays s m st
  isolate (if reloadBad s st then clearCstore s m else copyStore s st m) m false

/-- Step 10: every frame that was moved returns at a boundary. -/
def returnHome (s : State) (h : HopId) (n : Nat) : State :=
  let (s, left) := armMoves s (awayFrames s (tMill s h n) (tStand s h n))
  setPhase (tAux s h n 4 (auxAt s h n 4 + left)) h n 5

/-- Step 1 of R528, then steps 2 to 4 begin. The mill tested is made ON and locked too (R35). -/
def testPrepare (s : State) (h : HopId) (n : Nat) : State :=
  let m := tMill s h n
  let st := tStand s h n
  let f := (getMill s m).freq
  if inPlace s h n then
    match (millWheels m).find? fun w => !wheelReady s w with
    | some w => wheelUp s w
    | none => setPhase (isolate s m true) h n 3
  else if (getMill s st).freq ≠ f then millSet s st f 0
  else
    match (millWheels m ++ millWheels st).find? fun w => !wheelReady s w with
    | some w => wheelUp s w
    | none =>
      let s := forAll (matchStore s m st) (List.range 4) fun s k => copyWheel s (4 * m + k) (4 * st + k)
      let l := millMoves s m st
      let s := if l.isEmpty then s else modSvc s fun v => { v with moved := some (m, st) }
      let (s, left) := armMoves s l
      setPhase (modSlot (tAux s h n 4 left) h n fun x => { x with changed := true }) h n 2

/-- Step 4 ends: the mill is isolated, or the frames return where some could not be moved. -/
def testMoved (s : State) (h : HopId) (n : Nat) (r : TestResult) : State :=
  let m := tMill s h n
  let st := tStand s h n
  if (millFrames s m).any fun f => ((getFrame s f).bind FrameDef.moveTo).isSome then s
  else
    let k := (awayFrames s m st).length
    let s := settleMoved (tAux s h n 2 k)
    if auxAt s h n 4 = 0 then setPhase (isolate s m true) h n 3
    else if k = 0 then testEnd s h n 6 0xE r false
    else returnHome s h n

/-- Steps 6 to 9 as the silicon shows them. -/
def testRun (s : State) (h : HopId) (n : Nat) (r : TestResult) : State :=
  let m := tMill s h n
  let bits := testBits r
  if r.logic then testFail s h n bits r
  else
    let s := clearArrays s m
    if inPlace s h n then
      let s := isolate s m false
      if bits ≠ 0 then testFail s h n bits r
      else testEnd (modSvc (tAux s h n 5 1) fun v => { v with mfail := setBit16 v.mfail m false }) h n 0 0 r true
    else if bits ≠ 0 then testFail s h n bits r
    else if r.reload || reloadBad s (tStand s h n) then testFail (rewriteArrays s m (tStand s h n)) h n 0x40 r
    else returnHome (tAux (refill s m (tStand s h n)) h n 5 1) h n

/-- Step 10 ends. -/
def testReturned (s : State) (h : HopId) (n : Nat) (r : TestResult) : State :=
  let m := tMill s h n
  let away := awayFrames s m (tStand s h n)
  if away.any fun p => ((getFrame s p.1).bind FrameDef.moveTo).isSome then s
  else
    let s := tAux s h n 3 (auxAt s h n 2 - away.length)
    if (getSlot s h n).stop then testEnd s h n 9 0 r false
    else if auxAt s h n 4 > 0 then testEnd s h n 9 0xE r false
    else testEnd (modSvc s fun v => { v with mfail := setBit16 v.mfail m false }) h n 0 0 r true

/-- A mill test is stopped by a timeout or ABORT (R445). -/
def testStop (s : State) (h : HopId) (n : Nat) : State :=
  let m := tMill s h n
  let st := tStand s h n
  let r : TestResult := ⟨false, false, false, false, false, 0, false, false, false, 0, 0⟩
  let ph := (getSlot s h n).phase
  let home (s : State) : State :=
    let s := tAux (modSlot s h n fun x => { x with stop := true }) h n 2 (awayFrames s m st).length
    if (awayFrames s m st).isEmpty then testEnd (settleMoved s) h n 9 0 r false else returnHome s h n
  if ph = 5 then s
  else if ph = 2 then home (forAll s (millFrames s m) fun s f => modFrame s f fun d => { d with moveTo := none })
  else if ph = 3 ∧ inPlace s h n = false then home (refill (clearArrays s m) m st)
  else testEnd (if inPlace s h n then isolate s m false else s) h n 8 0 r false

/-! ### SELFTEST of a bank (R534, R535) -/

/-- The end of a bank test. -/
def bankEnd (s : State) (h : HopId) (n status : Nat) (bits : Nat) (word : Nat) (r : TestResult) (done : Bool) : State :=
  let b := auxAt s h n 0
  let s := modSvc s fun v => { v with brun := false, testcnt := if done then satInc 0xFFFF v.testcnt else v.testcnt }
  finish s h n status 0 [BitVec.ofNat 64 (bits + b * 16), BitVec.ofNat 64 word, r.micros]

def bankStep (s : State) (h : HopId) (n : Nat) (r : TestResult) : State :=
  let b := auxAt s h n 0
  let ph := (getSlot s h n).phase
  if ph = 11 then
    if !bankOn s 16 then (if s.mem.trans.isEmpty then powerOn s .bank [16] else s)
    else if !s.mem.trans.isEmpty then s
    else if r.marchSpare then bankEnd (modSvc s fun v => { v with spfail := true }) h n 0 4 r.word.toNat r true
    else
      let s := spareSubst (modSpare s fun x => { x with bank := b })
      modSlot s h n fun x => { x with phase := 12, committed := true, changed := true }
  else if ph = 12 then
    if s.spare.st = .subst ∧ s.spare.isol = true then
      if r.marchBank then
        bankEnd (modSvc s fun v => { v with bfail := setBit16 v.bfail b true }) h n 0 0xA r.word.toNat r true
      else setPhase (spareRestore s) h n 13
    else s
  else if s.spare.st = .idle then
    if (getSlot s h n).stop then bankEnd s h n 9 0 0 r false
    else bankEnd (modSvc s fun v => { v with bfail := setBit16 v.bfail b false }) h n 0 1 0 r true
  else s

/-- A bank test is stopped (R445): COPYIN is aborted; from SUBST on RESTORE runs to its end. -/
def bankStop (s : State) (h : HopId) (n : Nat) : State :=
  let r : TestResult := ⟨false, false, false, false, false, 0, false, false, false, 0, 0⟩
  let ph := (getSlot s h n).phase
  let s := modSlot s h n fun x => { x with stop := true }
  if ph = 12 ∧ s.spare.st = .subst then setPhase (spareRestore s) h n 13
  else if ph = 12 then bankEnd (spareAbortCmd s) h n 8 0 0 r false
  else if ph = 13 then s
  else bankEnd s h n 8 0 0 r false

/-! ### The command -/

/-- Order 5 of SELFTEST KIND 0 (R445, R527, R530): status and DETAIL. -/
def testRefusal (s : State) (m : Nat) : Option (Nat × Nat) :=
  if heldMill s m || (decide (s.standby < 16) && heldMill s s.standby) then some (2, 1)
  else if m = s.standby then (if s.occupied then some (3, 2) else none)
  else if noStandby s then some (3, 2)
  else if (getMill s m).progId ≠ (getMill s s.standby).progId then some (2, 2)
  else if (millFrames s m).isEmpty ∧ bitOf s.svc.mfail m = false then some (2, 2)
  else none

/-- Order 5 of SELFTEST KIND 1 (R445, R535). -/
def bankRefusal (s : State) (b : Nat) : Option Nat :=
  if held s (.bank b) || held s .spare then some 1
  else if s.spare.st ≠ .idle ∨ bankOn s b = false then some 2
  else if s.svc.spfail then some 3
  else none

/-- SELFTEST (R445, R527 to R535); called again, it goes on, with what the silicon shows in `r`. -/
def execSelftest (h : HopId) (slot : SlotId) (r : TestResult) (s : State) : Out :=
  let n := slot.val
  if starting s h n 0x50 then
    let t := selF s h n 1 0 4
    let cl := clampOf s h n 0 (BitVec.ofNat 64 (selF s h n 0 0 1)) ++ clampOf s h n 1 (BitVec.ofNat 64 t)
    if selF s h n 0 0 1 = 1 then
      match bankRefusal s t with
      | some d => .next (reject s h n 2 d)
      | none =>
        let s := begin_ s h n 11 [.bank t, .spare] cl [t]
        .next (bankStep (modSvc s fun v => { v with brun := true, btgt := t }) h n r)
    else if nMills s ≤ t then .next (reject s h n 7 1)
    else
      match testRefusal s t with
      | some (st, d) => .next (reject s h n st d)
      | none =>
        let st := s.standby
        let s := begin_ s h n 1 ((if t = st then [Obj.mill t] else [.mill t, .mill st])) cl [t, st, 0, 0, 0, 0]
        .next (testPrepare (modSvc s fun v => { v with mrun := true, mtgt := t }) h n)
  else if running s && runs s h n 0x50 then
    match (getSlot s h n).phase with
    | 1 => .next (testPrepare s h n)
    | 2 => .next (testMoved s h n r)
    | 3 => .next (testRun s h n r)
    | 5 => .next (testReturned s h n r)
    | _ => .next (bankStep s h n r)
  else .next s

/-! ### RESET_MILL and RESET_WHEEL -/

/-- Step 1 of R447 and the start of step 2: safe words, entries disarmed, nothing more issued. -/
def resetStart (s : State) (l : List Nat) : State :=
  let s := forAll s (List.range 192) fun s j => if l.any fun w => ownsSail s w j then writeSafe s j else s
  let s := eachFrame s (framesOn s l) fun s _ d =>
    (frameWakes d).foldl (fun s e => modWake s d.wheel e fun n => { n with en := false, latch := [] }) s
  forAll s l fun s w => modWheel s w fun x => { x with stopped := true }

/-- Steps 2 and 3 have finished on every wheel: the L1 or L0 is raised and the command completes. -/
def resetStep (s : State) (h : HopId) (n level scope : Nat) (l : List Nat) : State :=
  if l.all fun w => drained (getWheel s w) then
    finish (raiseReset s ⟨Config.resetCommandSrc.toNat, level, scope, 0⟩) h n 0 0 []
  else s

/-- A reset command on the wheels of a list (R447). -/
def resetCmd (s : State) (h : HopId) (n level scope : Nat) (l : List Nat) (absent busy : Bool) (o : Obj) (k : Nat) : State :=
  if absent then reject s h n 7 0
  else if busy then reject s h n 2 1
  else if selF s h n 1 0 1 = 0 ∧ (framesOn s l).any (fun f => frameState s f == 1) = true then reject s h n 2 2
  else
    let cl := clampOf s h n 0 (BitVec.ofNat 64 (selF s h n 0 0 k)) ++ clampOf s h n 1 (BitVec.ofNat 64 (selF s h n 1 0 1))
    let s := modSlot (begin_ s h n 1 [o] cl []) h n fun x => { x with changed := true }
    resetStep (resetStart s l) h n level scope l

/-- RESET_MILL (R447). -/
def execResetMill (h : HopId) (slot : SlotId) (s : State) : Out :=
  let n := slot.val
  let m := selF s h n 0 0 4
  if starting s h n 0x60 then
    .next (resetCmd s h n 1 m (millWheels m) (decide (nMills s ≤ m)) (heldMill s m) (.mill m) 4)
  else if inPhase s h n 0x60 1 then .next (resetStep s h n 1 m (millWheels m))
  else .next s

/-- RESET_WHEEL (R447). -/
def execResetWheel (h : HopId) (slot : SlotId) (s : State) : Out :=
  let n := slot.val
  let w := selF s h n 0 0 6
  if starting s h n 0x61 then
    .next (resetCmd s h n 0 w [w] (decide (nWheels s ≤ w)) (heldWheel s w) (.wheel w) 6)
  else if inPhase s h n 0x61 1 then .next (resetStep s h n 0 w [w])
  else .next s

/-- The wheels of a reset command. -/
def resetWheels (s : State) (h : HopId) (n : Nat) : List Nat :=
  if pktOp s h n = 0x60 then millWheels (selF s h n 0 0 4) else [selF s h n 0 0 6]

/-- The drain of a reset command does not finish: 09h with the unfinished step; the wheels stay stopped (R447). -/
def resetBound (s : State) (h : HopId) (n : Nat) : State :=
  finish s h n 9 (if (resetWheels s h n).any fun w => (getWheel s w).stall != .none then 2 else 3) []

/-- DRAIN_BOUND_EXPIRY: 100 µs have passed; of a guard RESET of wheel `w`, or of a reset command (R447, R488). -/
def execDrainBoundExpiry (w : Option WheelId) (h : HopId) (slot : SlotId) (s : State) : Out :=
  let n := slot.val
  match w with
  | some w => if running s && (getWheel s w).draining then .next (guardResetRaise s w) else .next s
  | none => if inPhase s h n 0x60 1 || inPhase s h n 0x61 1 then .next (resetBound s h n) else .next s

end Sys2Proof.Machine
end

