-- ==== Sys2Proof/Machine/Engine.lean ====
section
/-! DEFINITION. The hopper engines: doorbells and releases (R416), packet starts with the checks of orders 1 to 3 (R421,
R422), the stopping of commands (R424), ABORT (R449) and the Miller's fall-back service (R523, R524). -/

namespace Sys2Proof.Machine

/-! ### Stopping a command (R424) -/

/-- A command stopped at a safe point: 09h where it has changed something, else 08h; the Miller's take-over gives 08h. -/
def stopWith (s : State) (h : HopId) (n : Nat) (force changed : Bool) (results : List W64) : State :=
  finish s h n (if changed && !force then 9 else 8) 0 results

def wipeActs (s : State) (p : FrameAct → Bool) : State :=
  forAll s (wheelKeys s) fun s w => modWheel s w fun x => { x with acts := x.acts.filter fun a => !p a }

def isParamOf (h : HopId) (n : Nat) : FrameAct → Bool
  | .word _ _ _ g k => g == h && k == n
  | .done g k => g == h && k == n
  | .start _ _ _ _ => false
  | .stop _ _ _ => false

/-- LOOP_STOP stopped: frames not yet stopping stay started; R0 counts those that have changed. -/
def stopLoopStop (s : State) (h : HopId) (n : Nat) (force : Bool) : State :=
  let l := (getSlot s h n).aux
  let k := (l.filter fun f => frameState s f != 1).length
  let s := wipeActs (forAll s l fun s f => modFrame s f fun d => { d with stop := false }) (isStopOf h n)
  stopWith s h n force (decide (0 < k)) [BitVec.ofNat 64 k]

/-- LOOP_MIGRATE stopped: frames that have not moved stay. -/
def stopMigrate (s : State) (h : HopId) (n : Nat) (force : Bool) : State :=
  let l := migList s h n
  let k := if (getSlot s h n).phase = 1 then 0 else movedCount s l
  let s := forAll s (l.map (·.1)) fun s f => modFrame s f fun d => { d with moveTo := none, moveLines := [] }
  stopWith (settleMoved s) h n force (decide (0 < k) || (getSlot s h n).changed) [BitVec.ofNat 64 k, BitVec.ofNat 64 (l.length - k)]

/-- JERR of a TWIN_JOIN that its own timeout ends (R376, R377, log 18). -/
def joinStepJerr (step : Nat) : Nat :=
  if step = 1 then 1 else if step = 2 then 2 else if step = 3 then (Config.joinJerr 1).toNat else 7

/-- TWIN_JOIN stopped before its commit point (R377, R442). -/
def stopJoin (s : State) (h : HopId) (n : Nat) (abort force : Bool) : State :=
  match s.twin.joinAt with
  | some (_, step, _) =>
    if !(getSlot s h n).committed then joinFail s 8 (if abort then 8 else joinStepJerr step)
    else if force then finish (modTwin s fun t => { t with joinAt := none }) h n 8 0 [twinstat s]
    else s
  | none => s

/-- TWIN_LEAVE stopped before the handover boundary (R442). -/
def stopLeave (s : State) (n : Nat) (force : Bool) : State :=
  if handWhole s n then leaveEnd (modTwin s fun t => { t with hand := none }) 8
  else if force then finish (modTwin s fun t => { t with leaveAt := none }) .c n 8 0 [twinstat s]
  else s

/-- SELFTEST taken over by the Miller: it ends where it stands (R523). -/
def dropTest (s : State) (h : HopId) (n : Nat) : State :=
  let m := auxAt s h n 0
  let s := if (getSlot s h n).phase < 11 then
      isolate (forAll s (millFrames s m) fun s f => modFrame s f fun d => { d with moveTo := none }) m false
    else s
  finish (modSvc s fun v => { v with mrun := false, brun := false }) h n 8 0 []

/-- CALIBRATE_WEIR stopped: at the next readback, or at once for the Miller. -/
def stopCalib (s : State) (h : HopId) (n : Nat) (force : Bool) : State :=
  match force, s.calibs.find? fun c => c.slot == n with
  | true, some c => calibEnd s c 8
  | _, _ => calibGo (modSlot s h n fun x => { x with stop := true })

/-- A running command is stopped by ABORT or by its timeout, at its next safe point; `force` is the take-over of R523. -/
def stopCmd (s : State) (h : HopId) (n : Nat) (abort force : Bool) : State :=
  let x := getSlot s h n
  let op := pktOp s h n
  if x.phase = 0 then
    if op = 0x30 then
      let j := if abort then 8 else (Config.joinJerr 1).toNat
      finish (modTwin s fun t => { t with jerr := j }) h n 8 j [twinstat s]
    else finish s h n 8 0 []
  else
    match op with
    | 0x10 | 0x11 => if x.committed then s else stopWith s h n force x.changed []
    | 0x20 => stopWith s h n force x.changed []
    | 0x21 => stopWith (wipeActs s (isStartOf h n)) h n force x.changed [BitVec.ofNat 64 (nth 0 x.aux 0)]
    | 0x22 => stopLoopStop s h n force
    | 0x23 => stopWith (wipeActs s (isParamOf h n)) h n force x.changed [BitVec.ofNat 64 (nth 0 x.aux 0)]
    | 0x25 => stopMigrate s h n force
    | 0x30 => stopJoin s h n abort force
    | 0x31 => stopLeave s n force
    | 0x40 => ringJoinEnd s 8 0
    | 0x50 => if force then dropTest s h n else if x.phase ≥ 11 then bankStop s h n else testStop s h n
    | 0x51 => stopCalib s h n force
    | 0x60 | 0x61 => if force then finish s h n 8 0 [] else resetBound s h n
    | _ => finish s h n 8 0 []

/-- HOPPER_COMMAND_TIMEOUT (R424, R429): immediate commands have no timeout. -/
def execHopperCommandTimeout (h : HopId) (slot : SlotId) (s : State) : Out :=
  let n := slot.val
  if running s && (getSlot s h n).st == .running && isBg s h n then .next (stopCmd s h n false false) else .next s

/-- The command of a slot waits on one of the wheels of a list. -/
def waitsOn (s : State) (h : HopId) (n : Nat) (l : List Nat) : Bool :=
  let x := getSlot s h n
  let on (f : Nat) : Bool := (getFrame s f).isSome && l.contains (frameWheel s f)
  x.st == .running && x.phase != 0 &&
  match pktOp s h n with
  | 0x20 => l.contains (dWheel s h n)
  | 0x21 => s.wheels.any fun p => l.contains p.1 && p.2.acts.any (isStartOf h n)
  | 0x22 => (maskFrames s h n).any fun f => on f && frameState s f != 0
  | 0x23 | 0x24 => on (dFrame s h n)
  | 0x25 => (migList s h n).any fun p => on p.1 || l.contains p.2
  | 0x50 => x.phase < 11 && l.any fun w => millOf w == tMill s h n || millOf w == tStand s h n
  | 0x60 | 0x61 => (resetWheels s h n).any fun w => l.contains w
  | _ => false

/-- An L0 or L1 reset stops the commands that wait on its wheels, as a timeout does (R424). -/
def stopWaiting (s : State) (l : List Nat) : State :=
  let f (h : HopId) (s : State) : State := forAll s (runningSlots s h) fun s n => if waitsOn s h n l then stopCmd s h n false false else s
  f .s (f .c s)

/-! ### Packet starts (R421, R422) -/

/-- Opcodes that the Miller serves in FALLBACK (R524). -/
def fallbackOp (op : Nat) : Bool := [0x01, 0x02, 0x32, 0x60, 0x61, 0x70, 0x71, 0x7F].contains op

/-- The first value field that LOOP_PARAM_SET needs and its packet does not carry (R421, R436). -/
def paramMissing (s : State) (h : HopId) (n : Nat) : Option Nat :=
  let k := (maskBits 52 (fieldOr s h n 1 0)).length
  (List.range k).map (2 + ·) |>.find? fun i => !carried s h n i

/-- Order 3: DETAIL of the 05h, if any. -/
def orderThree (s : State) (h : HopId) (n : Nat) (i : CmdInfo) : Option Nat :=
  let c := pktCells s h n
  if c = 0 ∨ c > i.cells then some (0x100 + c)
  else
    match (List.range c).find? fun k => !cellDone s h n k with
    | some k => some k
    | none => if pktOp s h n = 0x23 then (paramMissing s h n).map (0x80 + ·) else none

/-- The engine starts a packet: the checks of orders 1 to 3; a packet that passes is RUNNING, and its own row does the
rest. -/
def startPacket (s : State) (h : HopId) (n : Nat) : State :=
  if !cellDone s h n 0 then reject s h n 5 0
  else
    match cmdInfo (pktOp s h n) with
    | none => reject s h n 4 0
    | some i =>
      if !accepts h i then reject s h n 4 0
      else
        match orderThree s h n i with
        | some d => reject s h n 5 d
        | none =>
          if (getHop s h).fallback && !fallbackOp (pktOp s h n) then reject s h n 2 2
          else
            modSlot (modHop s h fun x => { x with queue := x.queue.filter (· != n) }) h n fun x =>
              { x with st := .running, phase := 0, changed := false, committed := false, stop := false, clamps := [], aux := [] }

/-- The packet at the head has to wait: for an immediate command, for one of four background places, and in FALLBACK for
any running command. -/
def startBlocked (s : State) (h : HopId) (n : Nat) : Bool :=
  let r := runningSlots s h
  (r.any fun k => !isBg s h k) || ((getHop s h).fallback && !r.isEmpty) ||
    (cellDone s h n 0 && isBg s h n && decide (bgRunning s h ≥ 4))

/-- HOPPER_PACKET_START: the oldest queued packet (R422). -/
def execHopperPacketStart (h : HopId) (s : State) : Out :=
  match (getHop s h).queue with
  | [] => .next s
  | n :: _ => if running s && !startBlocked s h n then .next (startPacket s h n) else .next s

/-! ### Slots (R416) -/

def hopErr (s : State) (h : HopId) : State := modHop s h fun x => { x with err := true }

/-- A doorbell: a FREE slot is QUEUED; an ABORT starts at once, ahead of every queued packet (R416, R422). -/
def doorbell (s : State) (h : HopId) (n : Nat) : State :=
  if (getSlot s h n).st = .free then
    let b := (getHop s h).bells
    let s := modSlot (modHop s h fun x => { x with bells := b + 1 }) h n fun x => { x with st := .queued, bell := b }
    if pktOp s h n = 0x7F then startPacket s h n else modHop s h fun x => { x with queue := x.queue ++ [n] }
  else hopErr s h

/-- A release of a DONE slot: its cells, its reply and its completeness record are cleared (R416). -/
def releaseSlot (s : State) (h : HopId) (n : Nat) : State :=
  if (getSlot s h n).st = .done then modSlot s h n fun _ => { st := .clearing } else hopErr s h

/-- HOPPER_DOORBELL: HOPDB with RELEASE = 0 (R415). -/
def execHopperDoorbell (h : HopId) (slot : SlotId) (s : State) : Out :=
  if running s then .next (doorbell s h slot) else .next s

/-- HOPPER_RELEASE: HOPDB with RELEASE = 1 (R415). -/
def execHopperRelease (h : HopId) (slot : SlotId) (s : State) : Out :=
  if running s then .next (releaseSlot s h slot) else .next s

/-- HOPPER_SLOT_CLEARED: the clearing has finished and the slot is FREE (R416). -/
def execHopperSlotCleared (h : HopId) (slot : SlotId) (s : State) : Out :=
  if running s && (getSlot s h slot).st == .clearing then .next (modSlot s h slot fun _ => {}) else .next s

/-! ### ABORT (R449) -/

/-- The oldest of a list of slots, by doorbell order. -/
def oldestSlot (s : State) (h : HopId) (l : List Nat) : Option Nat := leastBy (fun n => (getSlot s h n).bell) l

/-- The oldest packet of the hopper with a TAG, queued or running, other than `me`. -/
def tagTarget (s : State) (h : HopId) (me : Nat) (t : BitVec 16) : Option Nat :=
  oldestSlot s h ((slotKeys s h).filter fun k =>
    k != me && ((getSlot s h k).st == .queued || (getSlot s h k).st == .running) && pktTag s h k == t)

/-- A queued packet that ABORT marks ends with 08h; a TWIN_JOIN shows JERR in DETAIL and in TWINSTAT (R377, R442, R449). -/
def abortQueued (s : State) (h : HopId) (k : Nat) : State :=
  if pktOp s h k = 0x30 then reject (modTwin s fun t => { t with jerr := 8 }) h k 8 8 else reject s h k 8 0

/-- ABORT (R449): it completes as soon as it has marked the packet. -/
def execAbort (h : HopId) (slot : SlotId) (s : State) : Out :=
  let n := slot.val
  if starting s h n 0x7F then
    match tagTarget s h n (BitVec.ofNat 16 (selF s h n 0 0 16)) with
    | none => .next (reject s h n 7 0)
    | some k =>
      let cl := clampOf s h n 0 (BitVec.ofNat 64 (selF s h n 0 0 16))
      let s := finish (modSlot s h n fun x => { x with clamps := cl }) h n 0 0 [BitVec.ofNat 64 k]
      .next (if (getSlot s h k).st = .queued then abortQueued s h k else stopCmd s h k true false)
  else .next s

/-! ### Fall-back (R523) -/

/-- HOPPER_FALLBACK: the Miller takes the hopper over, and ends its running packets except a load past its commit point. -/
def execHopperFallback (h : HopId) (s : State) : Out :=
  if running s && !(getHop s h).fallback then
    let s := modHop s h fun x => { x with fallback := true }
    let s := logEntry s 0xB (match h with | .c => 0 | .s => 1) 0 0 ((hopstat s h).toNat % 0x100000000)
    .next (forAll s (runningSlots s h) fun s n => stopCmd s h n false true)
  else .next s

end Sys2Proof.Machine
end

