-- ==== Sys2Proof/Machine/Reset.lean ====
section
/-! DEFINITION. The reset controller: sources and their combination (R471 to R475, R478), the watchdog (R476, R477), the
sequence of a complex reset (R479 to R486), wheel and mill resets (R487 to R489), storms, causes and history (R493 to
R496), clock domains and monitors (R497 to R500), and fuse sense (R13, R502, R503). -/

namespace Sys2Proof.Machine

/-! ### What the chip has (R6, R9, R497, R502) -/

def isHalf (s : State) : Bool := bitOf (tget 0 s.fuse 0) 8
def unitFuse (s : State) (k : Nat) : Bool := bitOf (tget 0 s.fuse 1) k
def chipMills (s : State) : Nat := if isHalf s then 8 else 16

/-- Domain `d` exists on this chip (R497). -/
def chipDomain (s : State) (d : Nat) : Bool :=
  if d < 16 then decide (d < chipMills s)
  else if d = 20 ∨ d = 21 then unitFuse s 0
  else if 22 ≤ d ∧ d ≤ 25 then unitFuse s 1
  else if d = 55 then unitFuse s 3
  else true

/-- The edge domains of R497; every other one is a core domain. -/
def isEdge (d : Nat) : Bool := (decide (19 ≤ d) && decide (d ≤ 53)) || d == 57

/-- The Miller runs: its domain is released, at step 7 of an L3 or L4, and the supplies are on (R481, R501, R522). -/
def millerLive (s : State) : Bool := !s.rst.off && !domHeld s 56

/-- The domains that a complex reset of a level resets (R470, R497): a power-on L4 alone reaches domain 59, and a reset
that ends RETENTION reaches every domain on VCORE (R522). -/
def levelDomain (lvl : Nat) (powerOn ret : Bool) (d : Nat) : Bool :=
  let l2 := decide (d ≤ 41) || d == 61 || d == 62
  if lvl ≤ 2 then l2 || (ret && (decide (d ≤ 55) || d == 57 || d == 60 || d == 63))
  else if lvl = 3 then d != 57 && d != 58 && d != 59 || (ret && d == 57)
  else d != 59 || powerOn

/-! ### Sources -/

/-- RSTCAUSE as a source writes it (R495): SRC, LEVEL, SCOPE and, for clock failures below L4, DOMAIN. -/
def causeOf (r : RstReq) : W32 :=
  BitVec.ofNat 32 (r.src % 16 + r.level % 8 * 0x10 + (if r.level < 2 then r.scope % 64 * 0x100 else 0) +
    (if (r.src = 7 ∨ r.src = 8) ∧ r.level ≠ 4 then r.domain % 64 * 0x4000 else 0))

def mergedBit : W32 := 0x80000000

/-- One absorbed source: MERGED, and an entry of its own in the history (R473, R496). -/
def absorbOne (s : State) (r : RstReq) : State :=
  addHistory (modRst s fun x => { x with cause := x.cause ||| mergedBit }) (causeOf r)

def absorb (s : State) (l : List RstReq) : State := l.foldl absorbOne s

/-- The source that a combination names: the highest level, and of that level the lowest SRC (R473). -/
def topReq (l : List RstReq) : Option RstReq :=
  l.foldl (fun b r => match b with
    | none => some r
    | some c => if r.level > c.level ∨ (r.level = c.level ∧ r.src < c.src) then some r else b) none

/-- An input holds reset (R474, R475). -/
def inputLow (s : State) : Bool := s.rst.porLow || s.rst.borLow || s.rst.pinLow

/-- POWER_ON_RESET: PORn is sampled low; nothing else acts while the supplies are removed (R49, R475). -/
def execPowerOnReset (s : State) : Out :=
  if s.rst.porLow then .next s
  else .next (raiseReset (modRst s fun r => { r with porLow := true }) ⟨1, 4, 0, 0⟩)

/-- BROWN_OUT: BORn is sampled low (R475). -/
def execBrownOut (s : State) : Out :=
  if s.rst.borLow || s.rst.off then .next s
  else .next (raiseReset (modRst s fun r => { r with borLow := true }) ⟨2, mapLevel s 0, 0, 0⟩)

/-! ### Watchdog (R476, R477) -/

/-- The timeout in ao, and the fraction of it at which the pre-warning comes. -/
def wdTimeout (r : ResetSt) : Nat := 2 ^ (r.wdTmo + 10)
def wdPreAt (r : ResetSt) : Nat :=
  if r.wdPre = 0 then wdTimeout r / 2 else if r.wdPre = 1 then wdTimeout r * 3 / 4 else wdTimeout r * 7 / 8

/-- WDCFG (R476): CNT saturates in units of 32 ao. -/
def wdcfgReg (s : State) : W64 :=
  let r := s.rst
  pk [(0, b2n r.wdEn), (1, r.wdTmo), (5, r.wdPre), (7, b2n r.wdHop), (8, b2n r.wdErr), (32, min 0x1FFFFFF (r.wdCnt / 32))]

/-- WDCFG written: a change of TMO or PRE while EN is 1 refuses the whole write. -/
def wdcfgWr (s : State) (v : W64) (be : BitVec 8) : State :=
  let n := mergeRw 0xFF (wdcfgReg s) v be
  let r := s.rst
  if r.wdEn = true ∧ (fld n 1 4 ≠ r.wdTmo ∨ fld n 5 2 ≠ r.wdPre) then modRst s fun r => { r with wdErr := true }
  else modRst s fun r =>
    { r with wdEn := r.wdEn || bitOf n 0, wdTmo := fld n 1 4, wdPre := fld n 5 2, wdHop := bitOf n 7,
             wdErr := r.wdErr && !(bitOf be 1 && bitOf v 8) }

/-- WDCFG_WRITE (R476). -/
def execWdcfgWrite (v : W64) (be : BitVec 8) (s : State) : Out := if portLive s then .next (wdcfgWr s v be) else .next s

/-- WDKICK (R476). -/
def execWdkick (s : State) : Out := if portLive s then .next (kickDog s) else .next s

/-- The always-on domain counts, through every reset that keeps EN and in RETENTION (R470, R476, R522). -/
def aoRuns (s : State) : Bool := !s.rst.off

/-- WATCHDOG_PREWARNING: the count reaches the pre-warning fraction (R477). -/
def execWatchdogPrewarning (s : State) : Out :=
  let r := s.rst
  if aoRuns s && r.wdEn && r.wdPre != 3 && !r.wdWarned then
    let s := modRst s fun r => { r with wdCnt := max r.wdCnt (wdPreAt r), wdWarned := true }
    .next (forAll s (maskList r.wdServe) fun s w => modWheel s w fun x => { x with exc17 := true })
  else .next s

/-- WATCHDOG_TIMEOUT: the count reaches the timeout (R477). -/
def execWatchdogTimeout (s : State) : Out :=
  if aoRuns s && s.rst.wdEn then
    let s := modRst s fun r => { r with wdCnt := max r.wdCnt (wdTimeout r) }
    .next (raiseReset s ⟨4, mapLevel s 6, 0, 0⟩)
  else .next s

/-! ### Requests (R478) -/

/-- A request is refused. -/
def reqBad (s : State) (v : Nat) : Bool :=
  let l := v % 8
  let t := v / 8 % 64
  decide (l ≥ 4) || (l == 1 && (decide (t ≥ 16) || decide (chipMills s ≤ t))) || (l == 0 && decide (4 * chipMills s ≤ t))

/-- A request that raises its source at the larger of LEVEL and the map's level. -/
def reqRaise (s : State) (src lo v : Nat) : State :=
  let l := v % 8
  let t := v / 8 % 64
  let lv := max l (mapLevel s lo)
  if l = 0 then raiseWheelReset s src lv t
  else if l = 1 then raiseMillReset s src lv t 0
  else raiseReset s ⟨src, lv, 0, 0⟩

/-- RSTREQ written: ERR is W1C, then GO acts. -/
def rstreqWr (s : State) (v : W64) (be : BitVec 8) : State :=
  let s := if bitOf be 1 && bitOf v 10 then modRst s fun r => { r with reqErr := false } else s
  if bitOf be 1 && bitOf v 9 then
    let n := (v &&& beMask be).toNat % 0x200
    if reqBad s n then modRst s fun r => { r with reqErr := true } else reqRaise s 5 9 n
  else s

/-- RSTREQ (R478). -/
def execRstreq (v : BitVec 10) (s : State) : Out :=
  if portLive s then .next (rstreqWr s (v.setWidth 64) 0xFF) else .next s

/-- A scan that reaches an instrument has opened its segment insertion bit (R537; log 25). -/
def openSib (s : State) (k : Nat) : State := { s with sibs := tset false s.sibs k true }

/-- The debug domain is released and supplied: its instruments act (R479, R497). -/
def dbgOn (s : State) : Bool := !s.rst.off && !domHeld s 57

/-- RSTINST_GO: the same fields through the debug instrument, ERR being W1C (R478, R537). -/
def execRstinstGo (v : BitVec 11) (s : State) : Out :=
  let on := dbgOn s
  let s := if on then modRst (openSib s 0) fun r => { r with instErr := r.instErr && !bitOf v 10 } else s
  if !(on && bitOf v 9) then .next s
  else if reqBad s (v.toNat % 0x200) then .next (modRst s fun r => { r with instErr := true })
  else .next (reqRaise s 6 12 (v.toNat % 0x200))

/-! ### Domains and their release -/

/-- A domain enters reset: its monitor starts anew (R479, R500). -/
def holdDomain (s : State) (d : Nat) : State := modClk s d fun c => { c with held := true, stable := false }

/-- Fuse sense has to run: CAPS reads 0 until its end (R11 to R13). -/
def unsense (s : State) : State :=
  modRst { s with capsId := 0, capsUnits := 0 } fun r => { r with fused := false }

/-- The fuses are sensed in this reset: at L3 and L4, and when it ends RETENTION (R13, R522). -/
def senses (s : State) (lvl : Nat) : Bool := decide (lvl ≥ 3) || s.rst.retention

/-- A domain that the reset of level `lvl` resets and that is present; a gated mill clock stays as it is (R33, R479). -/
def resetDomains (s : State) (lvl src : Nat) : List Nat :=
  (List.range 64).filter fun d => chipDomain s d && levelDomain lvl (src == 1) s.rst.retention d &&
    !(decide (lvl ≤ 2) && decide (d < 16) && (getMill s d).pstate != 0)

/-- The release steps begin; at L4 the always-on domain's memories are cleared (R481 step 3, R493). -/
def startRelease (s : State) (lvl : Nat) : State :=
  let s := modRst s fun r => { r with phase := .release lvl }
  if lvl = 4 then
    modMiller { (modRst s fun r => { r with bkup := [], bkupEcc := [], aotime := 0, aoAcc := 0 }) with retained := {} }
      fun m => { m with histDone := 0 }
  else s

/-- The sequence stands at its assertion step: it holds while an input is low, else the release steps begin (R473). -/
def assertHold (s : State) (lvl : Nat) : State :=
  let s := if senses s lvl then unsense s else s
  if inputLow s then modRst s fun r => { r with phase := .assert lvl } else startRelease s lvl

/-! ### What a complex reset leaves -/

/-- A block instruction or a block-repeat is in progress (R211, R226). -/
def blkLost (x : Wheel) : Bool := blkActive x || rptActive x

/-- The losses of R492 on a list of wheels, as bits of RSTCAUSE. -/
def lossBits (s : State) (l : List Nat) : W32 :=
  let b : Nat := match l.find? fun w => blkLost (getWheel s w) with
    | some w => 0x100000 + w * 0x200000
    | none => 0
  BitVec.ofNat 32 (b + (if l.any fun w => !(getWheel s w).exc12.isEmpty then 0x10000000 else 0))

/-- A copy of the spare bank is abandoned (R338). -/
def cutCopy (s : State) : State :=
  if s.spare.st = .copyin ∨ s.spare.st = .copyback then spareAbortCmd s else s

/-- A mill test is cut: R529 applies when frames stand on the standby mill or the mill was isolated (R533). -/
def cutTest (s : State) : State :=
  let f (s : State) (n : Nat) : State :=
    if pktOp s .s n = 0x50 ∧ (getSlot s .s n).phase ≠ 0 ∧ (getSlot s .s n).phase < 11 then
      let m := tMill s .s n
      let st := tStand s .s n
      if (getSlot s .s n).phase = 3 ∨ (awayFrames s m st).isEmpty = false then
        swapMills s m st (if m = st then 0 else 0x100)
      else s
    else s
  modSvc (forAll s (runningSlots s .s) f) fun v => { v with mrun := false, brun := false }

/-- Trace buffers: EN and KMASK stay (R541). -/
def clearTrace (t : Trace) : Trace := { en := t.en, kmask := t.kmask }

/-- TWINCFG, TWINTAKE, ROLE and DRVSEL stay through L2; the rest of the fantail starts anew (R69, R385). -/
def twinL2 (t : Twin) : Twin :=
  { cfg := t.cfg, role := t.role, take := t.take, drvsel := t.drvsel, hbStopped := true }

/-- The rest of a wheel after an L2: no staged values, no keys, held (R413, R487). -/
def wheelL2 (x : Wheel) : Wheel := { resetLogic x with staged := [], applied := [], held := true }

/-- Program-store line writes that a reset meets (R490): with `whole`, an L0 of the writing wheel, a write that has begun runs
to its end; else only a switch that has happened leaves the new line, and the record keeps ACTIVE (R491). -/
def cutPstore (s : State) (l : List Nat) (whole : Bool) : State :=
  forAll s l fun s w =>
    match (getWheel s w).stall with
    | .pstore o v k =>
      let s := if whole || k then sliceWrite s (millOf w) o v else s
      if whole then pstoreEnd s (millOf w) else s
    | _ => s

/-- An L1 of mill `m` ends a line write of LOAD_IMAGE that has begun there and not switched; the command writes the line again
(R490; log 103, DESIGN CHOICE). -/
def cutLine (s : State) (m : Nat) : State :=
  let f (h : HopId) (s : State) (n : Nat) : State :=
    if pktOp s h n = 0x10 ∧ (getSlot s h n).phase = 2 ∧ auxAt s h n 2 = 1 ∧
        (sectAt (auxBytes s h n 3) (auxAt s h n 0)).unit = m then
      modSlot s h n fun x => { x with aux := x.aux.take 2 ++ [0] ++ x.aux.drop 3 }
    else s
  forAll (forAll s (runningSlots s .c) (f .c)) (runningSlots s .s) (f .s)

/-- The actions of an L2 at its start (R67, R69, R102, R116, R119, R338, R353, R385, R413, R427, R483, R489, R541). -/
def applyL2 (s : State) : State :=
  let paired := s.twin.role != .simplex
  let s := if peerCovers s then setDrv s 0 else s
  let s := cutPstore (cutTest (cutCopy s)) (wheelKeys s) false
  let s := modRst s fun r =>
    { r with wasPaired := paired, losses := r.losses ||| lossBits s (wheelKeys s), hold := true, hungHi := false }
  let s := forAll s (wheelKeys s) fun s w => modWheel s w wheelL2
  let s := forAll s (List.range 64) fun s w => modWheel s w fun x => { x with held := true }
  let s := forAll s (List.range 192) fun s j => modSail s j fun x => { x with owned := false, owner := 0, sinceL2 := false }
  let s := forAll s (List.range 16) fun s m => modMill s m fun x => { x with hung := false, trace := clearTrace x.trace }
  let s := forAll s (List.range 8) fun s n => modEmu s n fun x => { x with outs := 0 }
  modTwin { s with hopC := {}, hopS := {}, calibs := [], readback := none, rbRetry := false, tail := {}, leats := [],
                   lanes := [], ring := {} } twinL2

/-- A mill after an L3 or L4: its program store stays; LOCK waits for its clock (R34, R36, R278, R514, R541). -/
def millCold (x : Mill) : Mill :=
  { slice := x.slice, badLines := x.badLines, switched := x.switched, lock := false, trace := clearTrace x.trace }

/-- Registers of the reset controller after an L3 or L4 (R472, R476, R480, R489). -/
def rstCold (lvl : Nat) (r : ResetSt) : ResetSt :=
  { phase := r.phase, cause := r.cause, map := r.map, reqs := r.reqs, porLow := r.porLow, borLow := r.borLow,
    pinLow := r.pinLow, fused := r.fused, losses := r.losses, aotime := r.aotime, aoAcc := r.aoAcc, bkup := r.bkup,
    bkupEcc := r.bkupEcc, instErr := r.instErr && lvl == 3,
    clk := if lvl = 4 then [] else r.clk.map fun p => (p.1, { p.2 with gated := false }), refStable := false,
    vcore := r.vcore, vmem := r.vmem, vps := r.vps, retention := r.retention, off := r.off }

/-- What an L3 or L4 reset leaves (R343, R470, R481): program store, fuses, boot records, the host's latches and inputs;
at L3 also retained memory and the backup registers. -/
def applyCold (s : State) (lvl : Nat) : State :=
  let s := cutPstore s (wheelKeys s) false
  let z := State.reset
  let s1 : State :=
    { z with pending := s.pending, free := s.free, order := s.order, fuse := s.fuse, fuseSh := s.fuseSh,
             hpResp := s.hpResp, sibs := if lvl = 3 then s.sibs else [], dbgData := if lvl = 3 then s.dbgData else none, retained := s.retained, rst := rstCold lvl s.rst,
             miller := { bootA := s.miller.bootA, bootB := s.miller.bootB, keys := [], rebuild := true, reapply := true,
                         histDone := s.miller.histDone },
             twin := { hbStopped := true } }
  let s1 := forAll s1 (List.range 16) fun t m => setMill t m (millCold (getMill s m))
  let s1 := forAll s1 (List.range 64) fun t w => modWheel t w fun x => { x with held := true }
  let s1 := forAll s1 (List.range 192) fun t n => setSail t n { tb := (getSail s n).tb }
  forAll s1 (List.range 96) fun t w => modWeir t w fun x => { x with lat := (getWeir s w).lat }

/-- The storm record at the assertion of an L2 or L3 (R493): the new record, and whether COUNT has reached 8. -/
def stormStep (s : State) : State × Bool :=
  let b := tget 0 s.rst.bkup 12
  let now : W32 := s.rst.aotime.setWidth 32
  let fresh := fld b 0 4 == 0 || decide ((now - tget 0 s.rst.bkup 13).toNat ≥ 32000000)
  let c := if fresh then 1 else min 15 (fld b 0 4 + 1)
  let s := modRst s fun r =>
    { r with bkup := tset 0 (tset 0 r.bkup 12 (BitVec.ofNat 32 (c + (fld b 4 28 + 1) % 0x10000000 * 16))) 13
                       (if fresh then now else tget 0 r.bkup 13) }
  (s, decide (c ≥ 8))

/-- The storm hold: the complex stands at the assertion of an L3 (R494). -/
def enterStorm (s : State) : State :=
  let s := unsense (applyCold s 3)
  let s := forAll s (resetDomains s 3 0) holdDomain
  modRst s fun r => { r with phase := .storm, cause := r.cause ||| 0x80 }

/-- A complex reset of source `r` at its level, with `m` when other sources combine with it (R473, R481, R483, R495). At L4
every CLKMON takes its reset value, STABLE 0 and HELD 1 (R500). -/
def applyComplex (s : State) (r : RstReq) (m : Bool) : State :=
  let s := modRst s fun x => { x with cause := causeOf r ||| (if m then mergedBit else 0) }
  if r.level = 4 then
    let s := modRst (applyCold s 4) fun x => { x with losses := 0, off := false }
    let s := forAll s ((List.range 64).filter (chipDomain s)) holdDomain
    assertHold (modMiller s fun x => { x with histDone := 0 }) 4
  else
    let doms := resetDomains s r.level r.src
    let s := if r.level = 2 then applyL2 s
      else
        let lost := lossBits s (wheelKeys s)
        modRst (applyCold s 3) fun x => { x with losses := x.losses ||| lost }
    let (s, storm) := stormStep (forAll s doms holdDomain)
    if storm then
      let s := enterStorm s
      addHistory s s.rst.cause
    else assertHold (addHistory s s.rst.cause) r.level

/-- What the controller does with the sources raised while a complex reset runs (R473): a higher level starts again;
the rest is absorbed, and an input that is low takes the sequence back to its assertion step, in which every domain of the
reset is held again. -/
def duringReset (s : State) (cur : Nat) (l : List RstReq) : State :=
  match topReq (l.filter fun r => decide (r.level > cur)) with
  | some r =>
    let s := applyComplex s r (decide (l.length > 1))
    if r.level = 4 then s else absorb s (l.erase r)
  | none =>
    let s := absorb s l
    if inputLow s then assertHold (forAll s (resetDomains s cur (if l.any (fun r => r.src == 1) then 1 else fld s.rst.cause 0 4))
      holdDomain) cur
    else s

/-- RESET_ASSERTION (R473, R481 step 2, R494): the raised sources of complex level take effect. -/
def execResetAssertion (s : State) : Out :=
  let l := s.rst.reqs
  if l.isEmpty then .next s
  else
    let s1 := modRst s fun r => { r with reqs := [] }
    match s.rst.phase with
    | .run =>
      match topReq (l.filter fun r => decide (r.level ≥ 2)) with
      | none => .next s
      | some r =>
        if s.rst.off && r.level != 4 then .next s1
        else
          let s1 := applyComplex s1 r (decide (l.length > 1))
          .next (if r.level = 4 then s1 else absorb s1 (l.erase r))
    | .storm =>
      match l.find? fun r => r.src == 1 with
      | some r => .next (applyComplex s1 r (decide (l.length > 1)))
      | none => .next (absorb s1 l)
    | .assert c => .next (duringReset s1 c l)
    | .release c => .next (duringReset s1 c l)

/-- A storm hold ends by a long pin reset or by STORMCLR: COUNT becomes 0 and an L3 runs (R494). -/
def endStorm (s : State) (src : Nat) : State :=
  let b := tget 0 s.rst.bkup 12
  let s := modRst s fun r =>
    { r with bkup := tset 0 r.bkup 12 (BitVec.ofNat 32 (fld b 4 28 * 16)), phase := .assert 3 }
  applyComplex s ⟨src, 3, 0, 0⟩ false

/-- PIN_RESET: RSTn has been low for a run of samples (R474). -/
def execPinReset (samples : Nat) (s : State) : Out :=
  if samples < 96 ∨ s.rst.off = true then .next s
  else
    let was := s.rst.pinLow
    let s := modRst s fun r => { r with pinLow := true }
    if s.rst.phase = .storm ∧ samples ≥ 32000 then .next (endStorm s 3)
    else if was then .next s
    else .next (raiseReset s ⟨3, mapLevel s 3, 0, 0⟩)

/-- STORMCLR (R494): nothing to end outside a storm hold. -/
def execStormclr (s : State) : Out :=
  if dbgOn s then
    let s := openSib s 0
    if s.rst.phase = .storm then .next (endStorm s 6) else .next s
  else .next s

/-- RESET_SOURCE_DEASSERT: PORn, BORn or RSTn is sampled high (R474, R475). -/
def execResetSourceDeassert (src : Fin 3) (s : State) : Out :=
  let s := modRst s fun r =>
    match src with
    | 0 => { r with porLow := false }
    | 1 => { r with borLow := false }
    | _ => { r with pinLow := false }
  match s.rst.phase with
  | .assert c => .next (if inputLow s then s else startRelease s c)
  | _ => .next s

/-! ### Fuse sense (R13, R472, R502, R503) -/

/-- RSTMAP from its fuse word: fields of 101b to 111b act as L4, and the floors of R471 apply. -/
def mapFloor (w : W32) : W64 :=
  let f (lo floor : Nat) : Nat × Nat := (lo, max floor (min 4 (fld w lo 3)))
  pk [f 0 3, f 3 2, f 6 2, f 9 0, f 12 0, f 15 1, f 18 2, f 21 0, (24, fld w 24 6)]

/-- Key hash `k`: byte 4j + i of the hash in bits [8i + 7:8i] of fuse word 40h + 12k + j, the first byte highest. -/
def keyHash (s : State) (k : Nat) : BitVec 384 :=
  (List.range 48).foldl (fun v b =>
    v * 256 + BitVec.ofNat 384 (fld (tget 0 s.fuse (0x40 + 12 * k + b / 4)) (8 * (b % 4)) 8)) 0

/-- The values that fuse sense gives. -/
def sense (s : State) : State :=
  let w0 := tget 0 s.fuse 0
  let half := bitOf w0 8
  let id := pk [(0, 1), (8, 2), (16, if half then 0x20 else 0x40), (24, fld w0 0 8)]
  let un := pk [(0, if half then 8 else 16), (5, 4), (8, fld (tget 0 s.fuse 1) 0 4), (12, 1), (13, 1)]
  let sh := (List.range 64).foldl (fun t i => tset 0 t i (tget 0 s.fuse i)) ([] : Tab W32)
  let s := modRst s fun r => { r with fused := true, map := mapFloor (tget 0 s.fuse 0x10) }
  let s := modMiller s fun m =>
    { m with keys := (List.range 4).foldl (fun t k => tset 0 t k (keyHash s k)) m.keys,
             revoke := (tget 0 s.fuse 0x11).setWidth 4 }
  { s with capsId := id, capsUnits := un, fuseSh := sh }

/-- Fuse sense is due: the release steps of a reset that senses run, and the monitor of its clock reports STABLE. -/
def senseDue (s : State) : Bool :=
  match s.rst.phase with
  | .release l => senses s l && !s.rst.fused && (getClk s 60).stable
  | _ => false

/-- FUSE_SENSE_DONE (R13, R481 step 9); STANDBY resets to the highest mill (R27). -/
def execFuseSenseDone (s : State) : Out :=
  if senseDue s then
    let cold := !s.rst.retention || decide (resetLevel s ≥ 3)
    let s := sense s
    .next (if cold then { s with standby := if isHalf s then 7 else 15 } else s)
  else .next s

/-! ### Release (R479, R481, R485, R486, R487, R522) -/

/-- The emulation channels that are on and whose feedback domain is released start again (R456). -/
def emuRestart (s : State) (l : List Nat) : State :=
  forAll s l fun s n =>
    if hasEmu s && bitOf (getEmu s n).cfg 0 && !fbHeld s n then
      modEmu s n fun e => { emuStart e (getFb s n).pos with restart := true }
    else s

/-- The held wheels of a mill are released (R487): their frames are stopped, and they are parked. -/
def releaseMill (s : State) (m : Nat) : State :=
  let l := (millWheels m).filter fun w => (getWheel s w).held
  forAll (stopFramesOn s l) l fun s w => modWheel s w fun x => { x with held := false }

/-- What the release of an edge domain does in its unit: a timebase's first pulse is not checked (R60); emulation restarts
unless an L2 in progress keeps the outputs at 0 (R64, R456). -/
def edgeRelease (s : State) (d : Nat) : State :=
  if 42 ≤ d ∧ d ≤ 49 then modTb s (d - 42) fun t => { t with seen := false }
  else if 50 ≤ d ∧ d ≤ 53 ∧ running s = true then emuRestart s [2 * (d - 50), 2 * (d - 50) + 1]
  else s

/-- The phase lets domains leave reset, and no input holds reset (R479). -/
def mayRelease (s : State) : Bool :=
  !inputLow s &&
  match s.rst.phase with
  | .run => !s.rst.off && !s.rst.retention
  | .release _ => !s.rst.off && s.rst.vcore && s.rst.vmem
  | _ => false

/-- DOMAIN_RELEASE: a domain whose monitor reports STABLE leaves reset (R479); a mill's wheels leave an L0 or L1 with it
(R487). Domain 57 has no monitor (R497). -/
def execDomainRelease (d : Fin 64) (s : State) : Out :=
  let c := getClk s d
  let wheels := decide (d.val < 16) && (millWheels d).any fun w => (getWheel s w).held
  if mayRelease s && chipDomain s d && (c.stable || d.val == 57) && (c.held || wheels) then
    let s := modClk s d fun c => { c with held := false }
    let s := if d.val < 16 ∧ s.rst.phase = .run then releaseMill s d else s
    .next (if isEdge d then edgeRelease s d else s)
  else .next s

/-- Every present core domain is released, no input holds reset, and fuse sense has ended where it runs (R479, R481 step
10). -/
def coreReady (s : State) : Bool :=
  !inputLow s && s.rst.fused && s.rst.vps && (List.range 64).all fun d => isEdge d || !chipDomain s d || !domHeld s d

/-- Every sail writes its safe word once; its port shows it when its timebase domain runs (R102, R522). -/
def safeAll (s : State) : State :=
  forAll s (List.range 192) fun s j => modSail s j fun x => { x with out := safeWord x.safe, safeact := true }

/-- The complex leaves an L2 (R394, R456, R477, R485, R486, R522). -/
def completeL2 (s : State) : State :=
  let ret := s.rst.retention
  let s := stopFramesOn s (List.range 64)
  let s := forAll s (List.range 64) fun s w => modWheel s w fun x => { x with held := false }
  let paired := s.rst.wasPaired
  let wd := fld s.rst.cause 0 4 == 4
  let s := modRst s fun r =>
    { r with phase := .run, wasPaired := false, retention := false, cause := r.cause ||| r.losses, losses := 0,
             wdCnt := if wd then 0 else r.wdCnt, wdWarned := r.wdWarned && !wd, drvrel := r.drvrel && !ret }
  let s := modTwin s fun t => { t with role := if paired then .held else .simplex, hbStopped := false }
  let s := emuRestart s (List.range 8)
  let s := if ret then
      let s := forAll s (List.range 8) fun s n => modFb s n fun x => { fbStill x with idxseen := false }
      let s := safeAll { s with ring_time := ⟨0, 0⟩, ringfrac := 0, tbs := [] }
      modMiller s fun m => { m with retrdy := false }
    else s
  if paired then drvRest s else s

/-- AUTOBOOT of fuse word 11h (R502, R518). -/
def autoboot (s : State) : Bool := bitOf (tget 0 s.fuseSh 0x11) 4

/-- The complex leaves an L3 or L4 (R102, R394, R481 step 10, R518). -/
def completeCold (s : State) : State :=
  let s := modRst s fun r =>
    { r with phase := .run, retention := false, cause := r.cause ||| r.losses, losses := 0 }
  let s := forAll s (List.range 64) fun s w => modWheel s w fun x => { x with held := false }
  let s := modMiller s fun m => { m with boot := if autoboot s && (m.bootA.valid || m.bootB.valid) then 1 else 0 }
  safeAll (modTwin { s with ring_time := ⟨0, 0⟩ } fun t => { t with hbStopped := false })

/-- RESET_COMPLETE (R481 step 10). -/
def execResetComplete (s : State) : Out :=
  match s.rst.phase with
  | .release l => if coreReady s then .next (if l ≤ 2 then completeL2 s else completeCold s) else .next s
  | _ => .next s

/-- HOLD_TIMER_EXPIRY (R484): sails that no loop has written since the start of the latest L2 write their safe words. -/
def execHoldTimerExpiry (s : State) : Out :=
  if s.rst.hold then
    let s := modRst s fun r => { r with hold := false }
    .next (forAll s (List.range 192) fun s j => if (getSail s j).sinceL2 then s else writeSafe s j)
  else .next s

/-- RSTCTL.DRVREL written as 1: DRVSEL follows the role from then on (R347, R480); RETENTION holds DRVSEL deasserted (R522). -/
def drvrelWr (s : State) : State :=
  if s.rst.drvrel || s.rst.retention then s
  else
    let s := modRst s fun r => { r with drvrel := true }
    match s.twin.role with
    | .simplex | .held => drvRest s
    | .leader => setDrv s (BitVec.allOnes 24)
    | _ => setDrv s (~~~ (twGroups s) ||| s.twin.drvsel)

/-- DRVREL (R480). -/
def execDrvrel (s : State) : Out := if running s then .next (drvrelWr s) else .next s

/-! ### Wheel and mill resets (R487, R488) -/

/-- The stalled instruction has a HOST access that is issued and not answered. -/
def hostPending (x : Wheel) : Bool :=
  !x.posted.isEmpty ||
  match x.stall with
  | .hostLoad _ _ | .hostStore _ _ _ | .blkRead _ _ _ | .blkWrite _ _ => true
  | _ => false

/-- A load, or a block instruction's element read, has been granted and its word has not returned. -/
def loadPending (x : Wheel) : Bool :=
  match x.stall with
  | .mpLoad _ _ _ _ (some _) => true
  | .blkMp _ _ _ _ (some _) => true
  | _ => false

/-- The ports that the reset hangs (R488). -/
def hangPorts (s : State) (l : List Nat) : State :=
  forAll s l fun s w =>
    let x := getWheel s w
    let s := if loadPending x then modMill s (millOf w) fun m => { m with hung := true } else s
    if hostPending x then modRst s fun r => { r with hungHi := true } else s

/-- A wheel after an L0 or L1: held until its mill's clock is stable (R487). -/
def wheelL1 (x : Wheel) : Wheel := { resetLogic x with held := true }

/-- Safe words of the sails that the wheels own; their ownership clears (R102). -/
def dropSails (s : State) (l : List Nat) : State :=
  forAll s (List.range 192) fun s j =>
    if l.any fun w => ownsSail s w j then modSail (writeSafe s j) j fun x => { x with owned := false, owner := 0 } else s

/-- An L0 or L1 of the wheels `l` (R102, R373, R424, R487, R488, R490, R492, R495). -/
def applyLocal (s : State) (r : RstReq) (l : List Nat) (m : Bool) : State :=
  let lost := lossBits s l
  let s := forAll s l withdrawWheel
  let s := dropSails (stopWaiting s l) l
  let s := hangPorts s l
  let hung := BitVec.ofNat 32 ((if l.any fun w => (getMill s (millOf w)).hung then 0x20000000 else 0) +
    (if s.rst.hungHi then 0x40000000 else 0))
  let s := cutPstore s l (decide (r.level = 0))
  let s := forAll s l fun s w => modWheel s w wheelL1
  let s := if r.level = 1 then modClk (cutLine s r.scope) r.scope fun c => { c with held := true } else s
  let s := modRst s fun x => { x with cause := causeOf r ||| lost ||| hung ||| (if m then mergedBit else 0) }
  addHistory s s.rst.cause

/-- The wheels of a local reset. -/
def localWheels (r : RstReq) : List Nat := if r.level = 1 then millWheels r.scope else [r.scope]

/-- The reset covers another source raised with it (R473). -/
def covers (r q : RstReq) : Bool :=
  decide (q.level < 2) && (localWheels q).all fun w => (localWheels r).contains w

/-- The first local reset to take effect: an L1 covers an L0 of its wheels, and of the sources of one scope the lowest SRC names
it (R473). -/
def firstLocal (l : List RstReq) : Option RstReq :=
  match l.find? fun r => decide (r.level < 2) with
  | none => none
  | some r =>
    let q := (l.find? fun q => q.level == 1 && covers q r).getD r
    topReq (l.filter fun p => p.level == q.level && p.scope == q.scope)

/-- The mill of the wheels is isolated by a self-test, which absorbs their resets (R533). -/
def underTest (s : State) (l : List Nat) : Bool :=
  s.svc.mrun && l.all fun w => millOf w == s.svc.mtgt && (getWheel s w).stopped

/-- WHEEL_MILL_RESET (R487, R488): the oldest raised L0 or L1, with the sources that it covers. -/
def execWheelMillReset (s : State) : Out :=
  match firstLocal s.rst.reqs with
  | none => .next s
  | some r =>
    let cov := (s.rst.reqs.erase r).filter (covers r)
    let rest := (s.rst.reqs.erase r).filter fun q => !covers r q
    if running s then
      let s := modRst s fun x => { x with reqs := rest }
      if underTest s (localWheels r) then .next (absorb s (r :: cov))
      else .next (absorb (applyLocal s r (localWheels r) (!cov.isEmpty)) cov)
    else .next s

/-! ### Clock monitors (R499, R500) -/

/-- A monitor that measures its clock: the domain exists, its clock is not gated, and the supplies are on; in RETENTION
only domains 58 and 59 are watched (R504). -/
def watched (s : State) (d : Nat) : Bool :=
  chipDomain s d && d != 57 && !(getClk s d).gated && !s.rst.off && (!s.rst.retention || d == 58 || d == 59 ||
    s.rst.phase != .run)

/-- The clock that a change of FREQ or a return to ON started does not become stable: a clock failure of the mill (R33). -/
def unlocked (s : State) (d : Nat) : Bool :=
  unitsLive s && chipDomain s d && decide (d < 16) && (getClk s d).gated && (getMill s d).pstate == 0

/-- The frequency lies within the limits of R499, in whole MHz as FMEAS shows it; domain 64 stands for REFCLK. -/
def inLimits (s : State) (d : Nat) (mhz : Nat) : Bool :=
  let band (lo hi : Nat) : Bool := decide (lo ≤ 2 * mhz) && decide (2 * mhz ≤ hi)
  let near (n : Nat) : Bool := decide (49 * n ≤ 50 * mhz) && decide (50 * mhz ≤ 51 * n)
  if d = 64 then band 190 210
  else if d = 58 ∨ d = 59 then band 40 96
  else if d < 16 then near (100 * ((getMill s d).freq + 4))
  else if d = 16 then near 1200
  else if d = 17 then band 1900 2100
  else if d ≤ 25 then band 1662 1838
  else if d ≤ 41 then band 304 840
  else if d ≤ 49 then band 190 840
  else if d ≤ 53 then band 95 420
  else if d = 54 ∨ d = 55 then near 250
  else if d = 56 then near 400
  else if d = 60 then near 25
  else if d = 61 then near 800
  else if d = 62 then near 1000
  else near 625

/-- The domains whose clocks derive from REFCLK (R77, R497, R481 steps 4 to 6; log 104). -/
def refDerived (d : Nat) : Bool :=
  decide (d ≤ 16) || d == 54 || d == 55 || d == 56 || (decide (60 ≤ d) && decide (d ≤ 63))

/-- A window of the domain's monitor may end: the domain is not in its assertion step, and a clock that derives from REFCLK,
or any measured against it at L3 and L4, needs a stable REFCLK (R479, R481, R499). -/
def windowOpen (s : State) (d : Nat) : Bool :=
  match s.rst.phase with
  | .run => s.rst.refStable || !refDerived d
  | .release l => s.rst.refStable || d == 58 || d == 59 || (decide (l ≤ 2) && !refDerived d)
  | _ => !domHeld s d

/-- CLOCK_MONITOR_STABLE: a window of 1,024 good cycles ends (R33, R479, R499). Domain 64 is REFCLK, measured against AOCLK. -/
def execClockMonitorStable (d : Fin 65) (mhz : BitVec 16) (s : State) : Out :=
  if d.val = 64 then
    if inLimits s 64 mhz.toNat && !s.rst.off && (getClk s 58).stable && (s.rst.phase == .run || mayRelease s) then
      .next (modRst s fun r => { r with refStable := true })
    else .next s
  else if watched s d && windowOpen s d && inLimits s d mhz.toNat then
    let s := modClk s d fun c => { c with stable := true, fmeas := mhz }
    .next (if d.val < 16 ∧ (getMill s d).pstate = 0 then modMill s d fun m => { m with lock := true } else s)
  else .next s

/-- The failing domain is one of those whose failure stops the heartbeat (R370). -/
def stopsHeartbeat (d : Nat) : Bool := d == 16 || d == 17 || d == 18

/-- The lane of a failed lane domain leaves UP as when LANE_RXLOCK falls, or stops transmitting (R479, R499). -/
def laneFault (s : State) (d : Nat) : State :=
  let k := (d - 18) / 2
  let was := laneUp s k
  let s := modLane s k fun l =>
    if d % 2 = 1 then
      let l := { l with rxlock := false }
      if l.st = .up ∨ l.st = .hunt then lanePark l else l
    else { l with txen := false }
  laneMoved s k was

/-- What the hold of an edge domain does in its unit: outputs are 0 (R80, R479). -/
def edgeHold (s : State) (d : Nat) : State :=
  let s := modClk s d fun c => { c with held := true }
  if 19 ≤ d ∧ d ≤ 25 then (if running s then laneFault s d else s)
  else if 42 ≤ d ∧ d ≤ 49 then
    forAll s (List.range 192) fun s j => if 42 + (getSail s j).tb = d then modSail s j fun x => { x with out := 0 } else s
  else if 50 ≤ d ∧ d ≤ 53 then
    forAll s [2 * (d - 50), 2 * (d - 50) + 1] fun s n => modEmu s n fun x => { x with outs := 0 }
  else s

/-- A core domain that fails in the release of a reset that reaches it stays in reset, or returns to it (R482). -/
def coreFaultHold (s : State) (d : Nat) : State :=
  match s.rst.phase with
  | .release l =>
    if !isEdge d && (resetDomains s l 1).contains d then modClk s d fun c => { c with held := true } else s
  | _ => s

/-- The monitor of domain `d` faults (R370, R482, R499, R506, R509). -/
def domainFault (s : State) (d : Nat) (mhz : BitVec 16) : State :=
  let s := modClk s d fun c =>
    { c with stable := false, fail := true, failcnt := satInc 0xFF c.failcnt, fmeas := mhz }
  let s := modTwin s fun t => { t with clkFail := t.clkFail ||| (1#64 <<< d) }
  let s := coreFaultHold (if millerLive s then logEntry s 6 d 0 (if d < 16 then d else 0) mhz.toNat else s) d
  if d < 16 then raiseMillReset (modMill s d fun m => { m with lock := false }) 7 (mapLevel s 15) d d
  else if isEdge d then addHistory (edgeHold s d) (Config.edgeHistory d)
  else
    let s := if stopsHeartbeat d then modTwin s fun t => { t with hbStopped := true } else s
    raiseReset s ⟨8, mapLevel s 18, 0, d⟩

/-- REFCLK fails: so does every watched domain derived from it (R499). -/
def refFault (s : State) : State :=
  forAll (modRst s fun r => { r with refStable := false })
    ((List.range 64).filter fun d => refDerived d && watched s d) fun s d => domainFault s d (getClk s d).fmeas

/-- CLOCK_MONITOR_FAULT (R33, R370, R482, R499, R506). Domain 64 is REFCLK. -/
def execClockMonitorFault (d : Fin 65) (mhz : BitVec 16) (s : State) : Out :=
  if d.val = 64 then .next (if s.rst.off || (s.rst.retention && s.rst.phase == .run) then s else refFault s)
  else if watched s d || unlocked s d then .next (domainFault s d mhz)
  else .next s

/-- CLKMONd written: FAIL is W1C, CNTCLR clears FAILCNT (R500). -/
def clkmonWr (s : State) (d : Nat) (v : W64) (be : BitVec 8) : State :=
  if hasDomain s d then
    modClk s d fun c =>
      let c := if bitOf be 0 && bitOf v 3 then { c with fail := false } else c
      if bitOf be 4 && bitOf v 32 then { c with failcnt := 0 } else c
  else s

/-- CLKMON_CNTCLR (R500). -/
def execClkmonCntclr (d : Fin 64) (s : State) : Out :=
  if portLive s then .next (clkmonWr s d 0x100000000 0x10) else .next s

/-! ### Program-store outcome (R491) -/

/-- A line write of the mill's slice is in progress: a PSTORE's, or a LOAD_IMAGE's between begin and end (R491). -/
def lineBusy (s : State) (m : Nat) : Bool :=
  let load (h : HopId) : Bool := (runningSlots s h).any fun n =>
    pktOp s h n == 0x10 && (getSlot s h n).phase == 2 && auxAt s h n 2 != 0
  load .c || load .s || (millWheels m).any fun w =>
    match (getWheel s w).stall with
    | .pstore _ _ _ => true
    | _ => false

/-- PSTORE_OUTCOME_RECORD: after the release of a reset that found ACTIVE set, the Miller reads the slice's switch state, which is
`switched` and no other than the slice's, writes OUTCOME, clears ACTIVE and sets PSW; entry 0Dh (R491, R509). -/
def execPstoreOutcomeRecord (m : MillId) (switched : Bool) (s : State) : Out :=
  let v := retVal s (0x700 + m)
  if running s && v % 2 == 1 && !domHeld s m && !lineBusy s m && switched == (getMill s m).switched then
    let o := if switched then 2 else 1
    let n := v - 1 - fld (BitVec.ofNat 32 v) 15 2 * 0x8000 + o * 0x8000
    let s := retInt s (0x700 + m) n
    let s := modRst s fun r => { r with cause := r.cause ||| 0x8000000 }
    .next (logEntry s 0xD o 0 m n)
  else .next s

end Sys2Proof.Machine
end

