-- ==== Sys2Proof/Machine/Miller.lean ====
section
/-! DEFINITION. The Miller: sensors and their alarms (R504 to R507), the mirror of the log (R512, R513), the boot from a
kept image (R518), the spare bank after a cold reset (R519), RETENTION and the supplies (R49, R50, R520 to R522), and the
mailbox (R525, R526). -/

namespace Sys2Proof.Machine

/-! ### Sensors -/

/-- TEMPLIMt and SUPLIMr with their reset values (R505). -/
def templim (s : State) (t : Nat) : W64 := tget 0x03E8_0348 s.miller.templim t
def suplim (s : State) (r : Nat) : W64 := tget 0xFFFF_0000 s.miller.suplim r

/-- An alarm with its counts of consecutive samples beyond the limit and inside the hysteresis (R506). -/
def alarmStep (on : Bool) (n ok : Nat) (beyond inside : Bool) : Bool × Nat × Nat :=
  let n := if beyond then min 2 (n + 1) else 0
  let ok := if inside then min 2 (ok + 1) else 0
  (if on then decide (ok < 2) else decide (2 ≤ n), n, ok)

/-- The log entry of a change of an alarm (R506, R509 type 05h). -/
def alarmLog (s : State) (cls idx : Nat) (was on : Bool) (v : BitVec 16) : State :=
  if was = on then s else logEntry s 5 (b2n on * 0x80 + cls * 0x10 + idx) 0 0 v.toNat

/-- A temperature sample (R504, R506, R507). -/
def tempSample (x : Sensor) (lim : W64) (v : BitVec 16) : Sensor :=
  let t := v.toInt
  let warn := (lim.setWidth 16).toInt
  let trip := ((lim >>> 16).setWidth 16).toInt
  let (hi, nHi, okHi) := alarmStep x.hi x.nHi x.okHi (decide (t > warn)) (decide (t ≤ warn - 8))
  let (tr, nTrip, okTrip) := alarmStep x.trip x.nTrip x.okTrip (decide (t > trip)) (decide (t ≤ trip - 8))
  { x with value := v, peak := if x.valid && decide (x.peak.toInt ≥ t) then x.peak else v, valid := true,
           hi := hi, nHi := nHi, okHi := okHi, trip := tr, nTrip := nTrip, okTrip := okTrip }

/-- A supply sample (R504, R506, R507). -/
def supplySample (x : Sensor) (lim : W64) (v : BitVec 16) : Sensor :=
  let low := fld lim 0 16
  let high := fld lim 16 16
  let (lo, nLo, okLo) := alarmStep x.lo x.nLo x.okLo (decide (v.toNat < low)) (decide (100 * v.toNat ≥ 101 * low))
  let (hi, nHi, okHi) := alarmStep x.hi x.nHi x.okHi (decide (v.toNat > high)) (decide (100 * v.toNat ≤ 99 * high))
  { x with value := v, peak := if x.valid && decide (x.peak.toNat ≤ v.toNat) then x.peak else v, valid := true,
           hi := hi, nHi := nHi, okHi := okHi, lo := lo, nLo := nLo, okLo := okLo }

/-- The Miller samples the sensor in this state (R504). -/
def sampled (s : State) (cls idx : Nat) : Bool :=
  millerLive s && (cls == 0 || decide (idx < 4)) && (!s.rst.retention || cls == 0 || idx == 1 || idx == 2)

/-- SENSOR_SAMPLE (R506, R521): a trip with TRIPACT sets TWINCFG.HBSTOP, but only logs in RETENTION. -/
def execSensorSample (cls : Fin 2) (idx : Fin 8) (v : BitVec 16) (s : State) : Out :=
  if sampled s cls idx then
    let k := if cls.val = 0 then idx.val else 8 + idx.val
    let x := tget {} s.miller.sensors k
    let y := if cls.val = 0 then tempSample x (templim s idx) v else supplySample x (suplim s idx) v
    let s := modMiller s fun m => { m with sensors := tset {} m.sensors k y }
    let s := alarmLog s cls idx x.hi y.hi v
    let s := alarmLog s cls idx x.lo y.lo v
    let s := alarmLog s cls idx x.trip y.trip v
    let above := decide (v.toInt > ((templim s idx >>> 16).setWidth 16).toInt)
    if cls.val = 0 ∧ y.trip = true ∧ above = true ∧ bitOf (templim s idx) 32 = true ∧ s.rst.retention = false then
      .next (modTwin s fun t => { t with cfg := t.cfg ||| (1#64 <<< 60) })
    else .next s
  else .next s

/-! ### The log's mirror -/

/-- Word `i` of a line that holds the four words of a log entry in bits [127:0] (R512). -/
def mirrorBits (e : List Nat) (i : Nat) : BitVec 14 :=
  let v := (List.range 4).foldl (fun a k => a + nth 0 e k % 0x100000000 * 2 ^ (32 * k)) 0
  BitVec.ofNat 14 (v / 2 ^ (14 * i))

/-- LOG_MIRROR_WRITE: the next entry that retained memory still holds goes to its line (R512); waits without VPS. -/
def execLogMirrorWrite (s : State) : Out :=
  if millerLive s && s.rst.vps && !s.miller.rebuild then
    let n := retVal s 0x720
    let q := max (retVal s 0x721) (n - 64)
    if q < n then
      let e := logEntryAt s q
      let o := 18 * (14051 + q % 512)
      let s := forAll s (List.range 18) fun s i => sliceWrite s 0 (o + i) (mirrorBits e i)
      .next (retInt s 0x721 (q + 1))
    else .next s
  else .next s

/-- LOG_REBUILD (R513). -/
def execLogRebuild (s : State) : Out := if running s then .next (rebuildLog s) else .next s

/-! ### The boot from a kept image (R518) -/

/-- The VALID boot records, the higher GEN first, each with its ARG of R509. -/
def bootOrder (s : State) : List (BootRec × Nat) :=
  let a := (s.miller.bootA, 1)
  let b := (s.miller.bootB, 2)
  (if a.1.gen.toNat ≥ b.1.gen.toNat then [a, b] else [b, a]).filter fun p => p.1.valid

/-- A record's attempt fails: the entry of type 09h, then the other record, or none. -/
def bootFail (s : State) (p : BootRec × Nat) (order : Nat) : State :=
  let s := logEntry s 9 order 0 0 (p.1.imageId.toNat % 0x100000000)
  modMiller s fun m => { m with boot := if m.boot = 1 ∧ (bootOrder s).length > 1 then 2 else 0 }

/-- The record that the boot is at. -/
def bootRec (s : State) : Option (BootRec × Nat) := if s.miller.boot = 0 then none else (bootOrder s)[s.miller.boot - 1]?

/-- MILLER_AUTOBOOT: the bytes that the host gives for the record at hand are checked, and loaded when
they pass and VPS feeds the program store; the banks that its descriptors cover go to ON first (R490, R517). -/
def execMillerAutoboot (bytes : List Byte) (s : State) : Out :=
  if running s && s.miller.boot != 0 then
    match bootRec s with
    | none => .next (modMiller s fun m => { m with boot := 0 })
    | some p =>
      let l := maskMills p.1.mills.toNat
      if bytes.length ≠ p.1.length then .next (bootFail s p 1)
      else
        match progCheck s bytes l with
        | some o => .next (bootFail s p o)
        | none =>
          if sha384 bytes ≠ p.1.digest then .next (bootFail s p (Config.bootFailOrder 0).toNat)
          else if !s.rst.vps then .next s
          else
            let t := if (imageBanks s bytes).isEmpty then s else powerOn s .bank (imageBanks s bytes)
            .next (modMiller (progDone (writeImage (progCommit t l) bytes) bytes l p.2) fun m => { m with boot := 0 })
  else .next s

/-- BOOT_RECORD_ATTEMPT_TIMEOUT: 100 ms of a record's attempt have passed. -/
def execBootRecordAttemptTimeout (s : State) : Out :=
  if running s && s.miller.boot != 0 then
    match bootRec s with
    | none => .next (modMiller s fun m => { m with boot := 0 })
    | some p => .next (bootFail s p (Config.bootFailOrder 1).toNat)
  else .next s

/-! ### The spare bank after a cold reset (R519) -/

/-- The newest log entry of type 0Ah: its ARG. -/
def newestSpare (s : State) : Option Nat :=
  ((logKept s).reverse.findSome? fun q =>
    match logFind s q with
    | some e => if nth 0 e 1 % 0x100 = 0xA then some (nth 0 e 1 / 0x100 % 0x100) else none
    | none => none)

/-- SPARE_REAPPLY (R519, R535). -/
def execSpareReapply (s : State) : Out :=
  if running s && s.miller.reapply then
    let s := modMiller (rebuildLog s) fun m => { m with reapply := false }
    match newestSpare s with
    | some a =>
      if a / 16 % 4 = 1 ∨ a / 16 % 4 = 2 then
        .next (spareSubst (if s.spare.st = .idle then modSpare s fun x => { x with bank := a % 16 } else s))
      else .next s
    | none => .next s
  else .next s

/-! ### RETENTION and the supplies -/

/-- Some frame is started or stopping (R50, R520). -/
def anyFrameLive (s : State) : Bool := (frameKeys s).any fun f => frameState s f != 0

/-- The complex enters RETENTION (R50, R69, R520, R522). -/
def enterRetention (s : State) : State :=
  let s := forAll s (List.range 192) writeSafe
  let s := setDrv s 0
  let s := modTwin s fun t => { t with hbStopped := true }
  let s := forAll s (wheelKeys s) fun s w => drainNow 8 s w
  let s := forAll s (List.range 4) fun s k => modLane s k fun l => { l with txen := false }
  let s := forAll s (List.range 8) fun s n => modEmu s n fun x => { x with outs := 0 }
  let s := forAll s (List.range 96) fun s w => modWeir s w fun x => { x with clr := false }
  modMiller (modRst s fun r => { r with retention := true }) fun m => { m with retrdy := true }

/-- SUPPLY_REMOVAL: OFF; only the program store, the fuses and what the host's latches hold stay (R49). -/
def execSupplyRemoval (s : State) : Out :=
  let s := unsense (applyCold s 4)
  let s := modMiller { s with retained := {} } fun m => { m with histDone := 0 }
  .next (modRst s fun r =>
    { r with phase := .run, reqs := [], porLow := false, borLow := false, pinLow := false, bkup := [], bkupEcc := [],
             aotime := 0, aoAcc := 0, losses := 0, cause := 0, vcore := false, vmem := false, vps := false,
             retention := false, off := true })

/-- LOSS_OF_VPS: the program store's rail, and in RETENTION VCORE with it (R49, R79, R490, R512). -/
def execLossOfVps (s : State) : Out :=
  .next (modRst s fun r =>
    { r with vps := false, vcore := r.vcore && !r.retention, vmem := r.vmem && !r.retention })

/-- SUPPLY_RESTORE (R521). -/
def execSupplyRestore (s : State) : Out := .next (modRst s fun r => { r with vcore := true, vmem := true, vps := true })

/-! ### The mailbox -/

def mbArg (s : State) (i : Nat) : W64 := tget 0 s.miller.arg i

/-- An operation completes: results from MBRES0 on, RESULT and DONE. -/
def mbEnd (s : State) (result : Nat) (res : List W64) : State :=
  modMiller s fun m =>
    { m with result := result, done := true, res := res.zipIdx.foldl (fun t p => tset 0 t p.2 p.1) m.res }

def bootSel (s : State) : BootRec := if bitOf (mbArg s 0) 0 then s.miller.bootB else s.miller.bootA

/-- Operation 01h. -/
def mbRetention (s : State) : State := if anyFrameLive s then mbEnd s 2 [] else mbEnd (enterRetention s) 0 []

/-- Operation 02h. -/
def mbMillRecords (s : State) : State :=
  let m := fld (mbArg s 0) 0 4
  let x := getMill s m
  if nMills s ≤ m then mbEnd s 7 []
  else mbEnd s 0 ([x.mcId, pk [(0, x.mcKey), (32, x.mcCount)]] ++ digestWords x.mcDigest)

/-- Operation 03h. -/
def mbBootRecord (s : State) : State :=
  let b := bootSel s
  mbEnd s 0 [pk [(0, b2n b.valid), (16, b.gen.toNat), (32, b.length)], b.imageId,
    pk [(0, b.mills.toNat), (16, b.haddr.toNat), (40, b.keyIdx)]]

/-- Operation 04h. -/
def mbSetBoot (s : State) : State :=
  let v := bitOf (mbArg s 2) 0
  let f (b : BootRec) : BootRec := { b with haddr := (mbArg s 1).setWidth 24, valid := v }
  if v = true ∧ (bootSel s).kept = false then mbEnd s 2 []
  else mbEnd (modMiller s fun m =>
    if bitOf (mbArg s 0) 0 then { m with bootB := f m.bootB } else { m with bootA := f m.bootA }) 0 []

/-- Operation 05h. -/
def mbBootDigest (s : State) : State := mbEnd s 0 (digestWords (bootSel s).digest)

/-- Operation 06h (R519). -/
def mbForgetSpare (s : State) : State :=
  if s.spare.st ≠ .idle then mbEnd s 2 []
  else mbEnd (logEntry s 0xA (fld (mbArg s 0) 0 4) 0 0 s.spare.prog) 0 []

/-- Operation 07h. -/
def mbProgRecords (s : State) : State :=
  let m := fld (mbArg s 0) 0 4
  if nMills s ≤ m then mbEnd s 7 [] else mbEnd s 0 [(getMill s m).progId]

/-- MBCMD written with GO (R525, R526): the operation runs to its end, or GO meets BUSY. The Miller runs in RETENTION too
(R522), and answers there while the host port does. -/
def mbGo (s : State) (op : Nat) : State :=
  if s.miller.busy then modMiller s fun m => { m with err := true }
  else
    match op with
    | 1 => mbRetention s
    | 2 => mbMillRecords s
    | 3 => mbBootRecord s
    | 4 => mbSetBoot s
    | 5 => mbBootDigest s
    | 6 => mbForgetSpare s
    | 7 => mbProgRecords s
    | _ => mbEnd s 4 []

/-- ENTER_RETENTION (R520). -/
def execEnterRetention (s : State) : Out := if portLive s then .next (mbGo s 1) else .next s

/-- READ_MILL_RECORDS (R526). -/
def execReadMillRecords (s : State) : Out := if portLive s then .next (mbGo s 2) else .next s

/-- READ_BOOT_RECORD (R526). -/
def execReadBootRecord (s : State) : Out := if portLive s then .next (mbGo s 3) else .next s

/-- SET_BOOT_RECORD (R526). -/
def execSetBootRecord (s : State) : Out := if portLive s then .next (mbGo s 4) else .next s

/-- READ_BOOT_DIGEST (R526). -/
def execReadBootDigest (s : State) : Out := if portLive s then .next (mbGo s 5) else .next s

/-- FORGET_SPARE_SUBSTITUTION (R519, R526). -/
def execForgetSpareSubstitution (s : State) : Out := if portLive s then .next (mbGo s 6) else .next s

/-- READ_PROGRAM_RECORDS (R514, R526). -/
def execReadProgramRecords (s : State) : Out := if portLive s then .next (mbGo s 7) else .next s

/-- MAILBOX_UNDEFINED_OP: an OP that R526 does not define, or any GO while BUSY is 1. -/
def execMailboxUndefinedOp (op : BitVec 8) (s : State) : Out :=
  if portLive s && (s.miller.busy || op == 0 || decide (op.toNat > 7)) then .next (mbGo s op.toNat) else .next s

/-- MBSTAT (R525). -/
def mbstatReg (s : State) : W64 :=
  let m := s.miller
  let x (i : Nat) : Sensor := tget {} m.sensors i
  let ta := (List.range 8).any fun i => (x i).hi || (x i).trip
  let sa := (List.range 4).any fun i => (x (8 + i)).hi || (x (8 + i)).lo
  pk [(0, b2n m.busy), (1, b2n m.done), (2, b2n m.err), (3, b2n m.retrdy), (4, b2n ta), (5, b2n sa), (8, m.result)]

/-- MBSTAT written: DONE and ERR are W1C. -/
def mbstatWr (s : State) (v : W64) (be : BitVec 8) : State :=
  if bitOf be 0 then modMiller s fun m => { m with done := m.done && !bitOf v 1, err := m.err && !bitOf v 2 } else s

end Sys2Proof.Machine
end

