-- ==== Sys2Proof/Machine/Debug.lean ====
section
/-! DEFINITION. Debug access (R537 to R539, R542): halting, stepping and resuming a wheel, access to its scratchpad and pinned
store and to the control stores, and TAP Test-Logic-Reset. -/

namespace Sys2Proof.Machine

/-- The wheel's mill is isolated by a self-test, steps 5 to 9: a halt is refused (R542). -/
def haltRefused (s : State) (w : Nat) : Bool := underTest s [w]

/-- HALTREQ (R538): a wheel that is absent, or under test, takes no request. -/
def execHaltreq (w : WheelId) (s : State) : Out :=
  let s := if dbgOn s then openSib s (1 + w) else s
  if running s && dbgOn s && decide (w.val < nWheels s) && !haltRefused s w && !(getWheel s w).halted then
    .next (modWheel s w fun x => { x with haltReq := true })
  else .next s

/-- DEBUG_HALT (R212, R247, R293, R538, R539): at a boundary the wheel halts; its driven groups are withdrawn. A halt is no
interruption of a block instruction: its checked segment entries stand over it (R216; log 102, DESIGN CHOICE). -/
def execDebugHalt (w : WheelId) (s : State) : Out :=
  let x := getWheel s w
  if running s && x.haltReq && atStep x.stall && (x.parked || !x.fresh) then
    if haltRefused s w then .next (modWheel s w fun x => { x with haltReq := false })
    else .next (withdrawWheel (modWheel s w fun x => { x with haltReq := false, halted := true, stall := .none }) w)
  else .next s

/-- STEP of WDBGw (R538): a halted wheel may retire one instruction, or one step of a block instruction. -/
def execDbgStep (w : WheelId) (s : State) : Out :=
  let s := if dbgOn s then openSib s (1 + w) else s
  let x := getWheel s w
  if running s && dbgOn s && x.halted && !x.parked then .next (modWheel s w fun x => { x with stepReq := true }) else .next s

/-- RESUME of WDBGw (R538): the wheel leaves the halt; a parked wheel dispatches its pending wakes (R85). -/
def execDbgResume (w : WheelId) (s : State) : Out :=
  let s := if dbgOn s then openSib s (1 + w) else s
  if running s && dbgOn s && (getWheel s w).halted then
    let s := modWheel s w fun x => { x with halted := false, stepReq := false }
    .next (if (getWheel s w).parked then dispatchNext s w else s)
  else .next s

/-! ### Accesses -/

/-- WDBGw (R538). -/
def wdbgReg (s : State) (w : Nat) : W64 :=
  let x := getWheel s w
  pk [(3, b2n x.halted), (4, b2n (x.halted && x.parked)), (8, x.pc.toNat), (40, modeView x), (48, x.sd)]

/-- TRACEm (R541). -/
def traceReg (t : Trace) : W64 :=
  pk [(0, b2n t.en), (1, b2n t.stopfull), (2, t.kmask.toNat), (10, t.wptr), (22, b2n t.wrap), (32, t.lost), (48, t.rptr)]

/-- TRACEm written: EN, STOPFULL, KMASK and RPTR (R541). -/
def traceWr (t : Trace) (v : W64) : Trace :=
  { t with en := bitOf v 0, stopfull := bitOf v 1, kmask := BitVec.ofNat 8 (fld v 2 8), rptr := fld v 48 12 }

/-- A trace record as a data scan shows it (R540); a place that holds none reads 0. -/
def traceWord : Option TraceRec → W64
  | some r => pk [(0, r.kind), (4, r.pos), (6, r.arg), (14, r.frame), (24, r.time.toNat)]
  | none => 0

/-- The memory that a debug access reaches is ON (R342). -/
def accOn (s : State) (w : Nat) : MemAcc → Bool
  | .readSpad _ | .writeSpad _ _ => spadOn s w
  | .readPin _ | .writePin _ _ => pinOn s w
  | .readCs m _ | .readCdt m _ => csOn s m
  | _ => true

/-- A debug access to a memory that is not ON, or of an absent wheel: reads 0, ignores writes (R342, R537). -/
def accDead (s : State) : MemAcc → State
  | .readSpad _ | .readPin _ => { s with dbgData := some (.word (intW 0)) }
  | .writeSpad _ _ | .writePin _ _ | .writeTrace _ _ => s
  | .readCs _ _ => { s with dbgData := some (.micro 0) }
  | .readCdt _ _ => { s with dbgData := some (.cdt 0) }
  | _ => { s with dbgData := some (.reg 0) }

/-- The insertion bit of the instrument of a debug access. -/
def accSib (w : Nat) : MemAcc → Nat
  | .readRstinst => 0
  | .readWdbg => 1 + w
  | .readCs m _ | .readCdt m _ => 129 + m
  | .readClkmon _ => 145
  | .readTrace m | .writeTrace m _ | .scanTrace m => 146 + m
  | _ => 65 + w

/-- The wheel or the mill that a debug access reaches exists. -/
def accThere (s : State) (w : Nat) : MemAcc → Bool
  | .readCs m _ | .readCdt m _ | .readTrace m | .writeTrace m _ | .scanTrace m => decide (m.val < nMills s)
  | .readRstinst | .readClkmon _ => true
  | _ => decide (w < nWheels s)

/-- The instruments that read and write at once. CSREADm reads the control store and the CDT as they stand; the ROM half has no
stated contents (R280, R537). A data scan of TRACEm shows the record at RPTR, which stays (R541; log 116, DEDUCED). -/
def accNow (s : State) (w : Nat) (a : MemAcc) : State :=
  match a with
  | .readCs m i =>
    let v := if i.toNat < 0x1000 then Config.microRom i.toNat else tget 0 (getMill s m).cstore i.toNat
    { s with dbgData := some (.micro v) }
  | .readCdt m e => { s with dbgData := some (.cdt (tget 0 (getMill s m).cdt e.toNat)) }
  | .readRstinst => { s with dbgData := some (.reg (pk [(10, b2n s.rst.instErr)])) }
  | .readWdbg => { s with dbgData := some (.reg (wdbgReg s w)) }
  | .readClkmon d => { s with dbgData := some (.reg (clkmonReg s d)) }
  | .readTrace m => { s with dbgData := some (.reg (traceReg (getMill s m).trace)) }
  | .writeTrace m v => modMill s m fun x => { x with trace := traceWr x.trace v }
  | .scanTrace m =>
    let t := (getMill s m).trace
    { s with dbgData := some (.reg (traceWord (tget none t.buf t.rptr))) }
  | a => askSteal s w (.debug a)

/-- The instruments of the always-on domain, which answer during a reset too (R537). -/
def accAlways : MemAcc → Bool
  | .readRstinst | .readClkmon _ => true
  | _ => false

/-- MEMACC_ACCESS (R280, R322, R537): the request goes to the steal register, a pinned-store write being a PSTORE (R248); the
other instruments answer at once. -/
def execMemaccAccess (w : WheelId) (a : MemAcc) (s : State) : Out :=
  let s := if dbgOn s then openSib s (accSib w a) else s
  if (running s || accAlways a) && dbgOn s then
    if accThere s w a && accOn s w a then .next (accNow s w a) else .next (accDead s a)
  else .next s

/-- TEST_LOGIC_RESET (R497, R537): domain 57 is reset and every insertion bit closes. -/
def execTestLogicReset (s : State) : Out :=
  .next (modRst { s with sibs := [], dbgData := none } fun r => { r with instErr := false })

end Sys2Proof.Machine
end

