-- ==== Sys2Proof/Machine/Flags.lean ====
section
/-! DEFINITION. The status registers of the feedback, emulation, weir, sluice, reset and service units as they are read, with
their flags that clear by a write of 1. The block has no flag register of a processor's kind; the status views of the other
units stand beside their writes in Regs, Pair, Ring, Hop, Reset and Miller. -/

namespace Sys2Proof.Machine

/-- FBCFGn to FBSTn by word number (R454). -/
def fbReg (x : Fb) (i : Nat) : W64 :=
  match i with
  | 0 => x.cfg
  | 1 => x.cpr
  | 2 => x.pos.setWidth 64
  | 3 => pk [(0, x.idxpos.toNat), (32, x.idxref.toNat)]
  | 4 => pk [(0, x.speed.toNat), (32, x.interval.toNat), (56, b2n x.still), (57, b2n x.estimate), (58, b2n x.dir)]
  | 5 => pk [(0, (BitVec.ofInt 16 x.slipacc).toNat), (32, (BitVec.ofInt 24 x.lastdev).toNat)]
  | 6 => pk [(0, b2n x.idxseen), (1, b2n x.slipfault), (2, b2n x.err), (8, x.coinc)]
  | _ => 0

/-- EMUSTn (R457): BACKLOG saturates at 16 signed bits. -/
def emustReg (x : Emu) : W64 :=
  let b : Int := max (-0x8000) (min 0x7FFF (emuTarget x - x.outcnt))
  pk [(0, (BitVec.ofInt 32 x.outcnt).toNat), (32, (BitVec.ofInt 16 b).toNat), (48, b2n x.ovf), (49, b2n x.restart),
      (50, b2n x.err)]

/-- EMUSTn written: OVF, RESTART and ERR are W1C (R457). -/
def emustWr (s : State) (n : Nat) (v : W64) (be : BitVec 8) : State :=
  if hasEmu s && bitOf be 6 then
    modEmu s n fun x =>
      { x with ovf := x.ovf && !bitOf v 48, restart := x.restart && !bitOf v 49, err := x.err && !bitOf v 50 }
  else s

/-- WEIRSTw (R460). -/
def weirstReg (x : Weir) : W64 := pk [(0, b2n x.lat), (1, b2n x.codeok), (3, b2n x.err), (8, x.tripcnt)]

/-- SLUICEg (R464). -/
def sluiceReg (x : Sluice) : W64 :=
  pk [(0, b2n x.arm), (4, b2n x.st), (5, b2n x.tripped), (6, b2n x.err), (8, x.tripcnt), (16, x.cause), (23, b2n x.causev)]

/-- PORTST (R489). -/
def portstReg (s : State) : W64 :=
  pk (((List.range 16).filter fun m => (getMill s m).hung).map (fun m => (m, 1)) ++ [(16, b2n s.rst.hungHi)])

/-- SVCSTAT (R532). -/
def svcstatReg (s : State) : W64 :=
  let v := s.svc
  pk [(0, v.mfail.toNat), (16, v.bfail.toNat), (32, b2n v.spfail), (33, b2n v.mrun), (34, v.mtgt), (38, b2n v.brun),
      (39, v.btgt), (48, v.testcnt)]

/-- Entry `i` of the fuse shadow (R503). -/
def fuseReg (s : State) (i : Nat) : W64 :=
  pk [(0, (tget 0 s.fuseSh (2 * i)).toNat), (32, (tget 0 s.fuseSh (2 * i + 1)).toNat)]

end Sys2Proof.Machine
end

