-- ==== Sys2Proof/Machine/Host.lean ====
section
/-! DEFINITION. The host port (R70 to R76): the window of R71 beat by beat, and the registers of each chapter. -/

namespace Sys2Proof.Machine

/-- What a beat of a read answers: the state after it, its data, and OK. -/
abbrev Rd := State × W64 × Bool

/-! ### Millpond and scratchpad words (R71, R73, R74) -/

/-- A memory as the host port reaches it: a word as its reader sees it, the reader's visit, and a write. -/
structure HostMem where
  rd : State → Nat → Option TWord
  note : State → Nat → State
  wr : State → Nat → TWord → State

def hostMp : HostMem := ⟨mpRead, mpNote, mpWrite⟩
def hostSpad (w : Nat) : HostMem := ⟨fun s a => spadRead s w a, fun s a => spadNote s w a, fun s a v => spadWrite s w a v⟩

/-- One payload word read: value, and OK (R73). -/
def hostWord (m : HostMem) (s : State) (a : Nat) : State × Nat × Bool :=
  match m.rd s a with
  | some x => (m.note s a, x.val.toNat, true)
  | none => (m.note s a, 0, false)

/-- A beat of payload: words `a` and `a + 1`. -/
def payRead (m : HostMem) (s : State) (a : Nat) : Rd :=
  let x := hostWord m s a
  let y := hostWord m x.1 (a + 1)
  (y.1, pk [(0, x.2.1), (32, y.2.1)], x.2.2 && y.2.2)

/-- The tag of one word, Eh where it cannot be corrected. -/
def hostTag (m : HostMem) (s : State) (a : Nat) : State × Nat × Bool :=
  match m.rd s a with
  | some x => (m.note s a, tagCode x.tag, true)
  | none => (m.note s a, 0xE, false)

/-- A beat of tags: words `a` to `a + 15`. -/
def tagRead (m : HostMem) (s : State) (a : Nat) : Rd :=
  (List.range 16).foldl (fun r i =>
    let x := hostTag m r.1 (a + i)
    (x.1, r.2.1 ||| BitVec.ofNat 64 (x.2.1 * 16 ^ i), r.2.2 && x.2.2)) (s, 0, true)

/-- The word that a partial write merges into: POISON with value 0 where the stored word cannot be corrected (R73). -/
def hostOld (m : HostMem) (s : State) (a : Nat) : TWord := (m.rd s a).getD poisonW

/-- The enabled bytes of one payload word are written, its tag stays. -/
def payWord (m : HostMem) (s : State) (a : Nat) (v mask : W32) : State :=
  if mask = 0 then s
  else
    let o := hostOld m s a
    m.wr (m.note s a) a { o with val := (o.val &&& ~~~ mask) ||| (v &&& mask) }

/-- A beat of payload written. -/
def payWrite (m : HostMem) (s : State) (a : Nat) (v : W64) (be : BitVec 8) : State :=
  let k := beMask be
  payWord m (payWord m s a (v.setWidth 32) (k.setWidth 32)) (a + 1) ((v >>> 32).setWidth 32) ((k >>> 32).setWidth 32)

/-- The tag of one word is written, its payload stays. -/
def tagWord (m : HostMem) (s : State) (a t : Nat) : State :=
  let o := hostOld m s a
  m.wr (m.note s a) a { o with tag := tagOf t }

/-- A beat of tags written: a byte that holds Ch or Dh leaves both of its tags and responds ERR (R73). -/
def tagWrite (m : HostMem) (s : State) (a : Nat) (v : W64) (be : BitVec 8) : State × Bool :=
  (List.range 8).foldl (fun r i =>
    let lo := fld v (8 * i) 4
    let hi := fld v (8 * i + 4) 4
    if !bitOf be i then r
    else if isRsv (tagOf lo) || isRsv (tagOf hi) then (r.1, false)
    else (tagWord m (tagWord m r.1 (a + 2 * i) lo) (a + 2 * i + 1) hi, r.2)) (s, true)

/-- A beat of the millpond windows; an access to a bank that is not ON responds ERR, payload 0 and tag Fh (R327). -/
def mpHostRead (s : State) (a : Nat) (tags : Bool) : Rd :=
  if mpOn s a then (if tags then tagRead hostMp s a else payRead hostMp s a)
  else (mpDrop s, if tags then BitVec.allOnes 64 else 0, false)

def mpHostWrite (s : State) (a : Nat) (tags : Bool) (v : W64) (be : BitVec 8) : State × Bool :=
  if mpOn s a then (if tags then tagWrite hostMp s a v be else (payWrite hostMp s a v be, true))
  else (mpDrop s, false)

/-- The scratchpad windows answer for a halted wheel whose scratchpad is ON (R74, R342). -/
def spadOpen (s : State) (w : Nat) : Bool := (getWheel s w).halted && spadOn s w

/-- A beat of the scratchpad windows; the windows of absent wheels read 0 and ignore writes (R6). -/
def spadHostRead (s : State) (w a : Nat) (tags : Bool) : Rd :=
  if nWheels s ≤ w then (s, 0, true)
  else if spadOpen s w then (if tags then tagRead (hostSpad w) s a else payRead (hostSpad w) s a)
  else (s, 0, false)

def spadHostWrite (s : State) (w a : Nat) (tags : Bool) (v : W64) (be : BitVec 8) : State × Bool :=
  if nWheels s ≤ w then (s, true)
  else if spadOpen s w then (if tags then tagWrite (hostSpad w) s a v be else (payWrite (hostSpad w) s a v be, true))
  else (s, false)

/-! ### Program store and control store (R71, R74, R75) -/

/-- Four words of a slice. -/
def psRead (s : State) (m o : Nat) : W64 :=
  let t := (getMill s m).slice
  if nMills s ≤ m then 0 else pk ((List.range 4).map fun i => (16 * i, (tget 0 t (o + i)).toNat))

/-- Half a microword of 16 bytes; the ROM half and absent mills read 0; a store that is not ON responds ERR (R342). -/
def csRead (s : State) (m o : Nat) : W64 × Bool :=
  if nMills s ≤ m then (0, true)
  else if csOn s m then (((tget 0 (getMill s m).cstore (0x1000 + o / 16)) >>> (64 * (o / 8 % 2))).setWidth 64, true)
  else (0, false)

/-! ### Hoppers (R414 to R417, R425, R426) -/

/-- NCELLS of a reply: cells up to the last that holds a written result or clamp entry. -/
def replyCells (r : Reply) : Nat :=
  let n := if r.clamps.isEmpty then 16 + 8 * r.results.length else 2048 + 24 * r.clamps.length
  (n + 63) / 64

/-- Eight bytes of a reply slot from byte `i`. -/
def replyWord (r : Reply) (i : Nat) : W64 :=
  if i = 0 then
    pk [(0, r.opcode.toNat), (8, replyCells r), (16, r.tag.toNat), (32, r.status), (40, r.clamps.length), (48, r.detail)]
  else if i = 8 then r.donetime
  else if i < 2048 then nth 0 r.results ((i - 16) / 8)
  else
    let j := (i - 2048) / 8
    match r.clamps[j / 3]? with
    | some c => if j % 3 = 0 then BitVec.ofNat 64 c.idx else if j % 3 = 1 then c.written else c.applied
    | none => 0

/-- The slots in a state, as a mask. -/
def slotMask (s : State) (h : HopId) (p : SlotSt → Bool) : W64 :=
  pk (((List.range 64).filter fun n => p (getSlot s h n).st).map fun n => (n, 1))

/-- A beat read in a hopper's window. -/
def hopRead (s : State) (h : HopId) (o : Nat) : W64 :=
  if o < 0x8000 then pk ((List.range 8).map fun i => (8 * i, pktByte s h (o / 0x200) (o % 0x200 + i)))
  else if 0x10000 ≤ o ∧ o < 0x50000 then
    match (getSlot s h ((o - 0x10000) / 0x1000)).reply with
    | some r => replyWord r (o % 0x1000)
    | none => 0
  else if o = 0xF0008 then hopstat s h
  else if o = 0xF0010 then slotMask s h (· == .free)
  else if o = 0xF0018 then slotMask s h (· == .done)
  else 0

/-- Request bytes written, with their completeness record (R417). -/
def cellWrite (x : Slot) (o : Nat) (v : W64) (be : BitVec 8) : Slot :=
  (List.range 8).foldl (fun x i =>
    if bitOf be i then
      { x with cells := tset 0 x.cells (o + i) (BitVec.ofNat 8 (fld v (8 * i) 8)), written := x.written ||| (1#512 <<< (o + i)) }
    else x) x

/-- HOPDB written: a doorbell or a release (R415). -/
def hopdbWr (s : State) (h : HopId) (v : W64) (be : BitVec 8) : State :=
  if bitOf be 0 then (if bitOf v 6 then releaseSlot s h (fld v 0 6) else doorbell s h (fld v 0 6)) else s

/-- A beat written in a hopper's window (R416). -/
def hopWrite (s : State) (h : HopId) (o : Nat) (v : W64) (be : BitVec 8) : State × Bool :=
  if o < 0x8000 then
    if (getSlot s h (o / 0x200)).st = .free then (modSlot s h (o / 0x200) fun x => cellWrite x (o % 0x200) v be, true)
    else (hopErr s h, false)
  else if o = 0xF0000 then (hopdbWr s h v be, true)
  else if o = 0xF0008 then
    (if bitOf be 1 && bitOf v 11 then modHop s h fun x => { x with err := false } else s, true)
  else (s, true)

/-! ### Registers with an effect of their own -/

/-- A backup register read: one that cannot be corrected reads 0 and is rewritten 0 (R331, R346). -/
def bkupRead (s : State) (n : Nat) : State × W64 :=
  let t := noteRead s .backup n
  if isUe (getEcc s .backup n) then
    (setEcc (modRst t fun r => { r with bkup := tset 0 r.bkup n 0 }) .backup n .ok, 0)
  else (t, (tget 0 s.rst.bkup n).setWidth 64)

/-- BKUP0 to BKUP11 written; a partial write merges into the value that a read would give (R346). -/
def bkupWr (s : State) (n : Nat) (v : W64) (be : BitVec 8) : State :=
  if n < 12 ∧ (beMask be).setWidth 32 ≠ (0 : W32) then
    let p := bkupRead s n
    setEcc (modRst p.1 fun r => { r with bkup := tset 0 r.bkup n ((mergeRw 0xFFFFFFFF p.2 v be).setWidth 32) }) .backup n .ok
  else s

/-- RINGTIME read: the fraction is latched into RINGFRAC (R412). -/
def ringtimeRd (s : State) : State × W64 := ({ s with ringfrac := s.ring_time.frac }, s.ring_time.ns)

/-- RINGSTAT.STEPPED is W1C (R411); RINGCNT.CNTCLR clears DISC, WIRE, LATE and REPL (R412); RINGMEMi.CNTCLR (R403). -/
def ringstatWr (s : State) (v : W64) (be : BitVec 8) : State :=
  if hasRing s && bitOf be 5 && bitOf v 44 then modRing s fun r => { r with stepped := false } else s
def ringcntWr (s : State) (v : W64) (be : BitVec 8) : State :=
  if hasRing s && bitOf be 7 && bitOf v 56 then modRing s fun r => { r with disc := 0, wire := 0, late := 0, repl := 0 } else s
def ringmemWr (s : State) (i : Nat) (v : W64) (be : BitVec 8) : State :=
  if hasRing s && bitOf be 3 && bitOf v 30 then modMem s i fun m => { m with gaps := 0, lost := 0 } else s

/-- TWINSTAT.ERR and DIVFLAG are W1C (R384). -/
def twinstatWr (s : State) (v : W64) (be : BitVec 8) : State :=
  if bitOf be 2 then modTwin s fun t => { t with err := t.err && !bitOf v 20, divflag := t.divflag && !bitOf v 21 } else s

/-! ### The complex registers (R76) -/

/-- A register of 1600000h to 16001FFh. -/
def regLow (s : State) (o : Nat) : W64 :=
  match o with
  | 0x000 => s.capsId
  | 0x008 => s.capsUnits
  | 0x100 => millcfgReg s
  | 0x110 => s.mem.cfg
  | 0x118 => memerrReg s
  | 0x120 => s.mem.bankpwr
  | 0x128 => s.mem.sppwr0
  | 0x130 => s.mem.sppwr1
  | 0x138 => s.mem.pinpwr0
  | 0x140 => s.mem.pinpwr1
  | 0x148 => s.mem.cspwr
  | 0x150 => mempwrstReg s
  | 0x158 => sparectlReg s
  | 0x160 => s.twin.cfg
  | 0x168 => twinstat s
  | 0x170 => s.twin.take
  | 0x178 => twindiv s
  | 0x180 => s.ring.cfg
  | 0x188 => ringstatReg s
  | 0x198 => s.ringfrac.setWidth 64
  | 0x1A0 => ringcntReg s
  | 0x1B0 => svcstatReg s
  | _ => 0

/-- A register of 1602000h to 16020FFh. -/
def regReset (s : State) (o : Nat) : W64 :=
  match o with
  | 0x00 => s.rst.cause.setWidth 64
  | 0x08 => pk [(10, b2n s.rst.reqErr)]
  | 0x10 => s.rst.map
  | 0x18 => wdcfgReg s
  | 0x20 => s.rst.wdServe
  | 0x30 => portstReg s
  | 0x38 => pk [(0, b2n s.rst.drvrel)]
  | _ => 0

/-- SAILCFGn and SAILSAFEn by offset. -/
def regSail (s : State) (o : Nat) : W64 :=
  let n := o / 16
  if n ≥ 192 ∨ tbHeld s n = true then 0
  else if o % 16 = 0 then sailcfgReg s n else (getSail s n).safe.setWidth 64

/-- The weir registers. -/
def regWeir (s : State) (o : Nat) : W64 :=
  let w := o / 16
  if w < 96 ∧ hasWeir s w = true then (if o % 16 = 0 then (getWeir s w).cfg else weirstReg (getWeir s w)) else 0

/-- The feedback and emulation registers. -/
def regFb (s : State) (o : Nat) : W64 :=
  let n := o / 0x40
  if n < 8 ∧ fbHeld s n = false then fbReg (getFb s n) (o % 0x40 / 8) else 0
def regEmu (s : State) (o : Nat) : W64 :=
  let n := o / 0x40
  if n < 8 ∧ fbHeld s n = false ∧ hasEmu s = true then
    (if o % 0x40 = 0 then (getEmu s n).cfg else if o % 0x40 = 8 then emustReg (getEmu s n) else 0)
  else 0

/-- The lane and ring member registers. -/
def regLane (s : State) (o : Nat) : W64 :=
  if o < 0x100 then (if laneHeld s (o / 0x40) then 0 else nth 0 (laneRegs s (o / 0x40)) (o % 0x40 / 8))
  else if o < 0x200 then ringmemReg s ((o - 0x100) / 8)
  else 0

/-- A register of the block at 1600000h, by its offset there. -/
def regRead (s : State) (o : Nat) : State × W64 :=
  if o = 0x190 then ringtimeRd s
  else if o < 0x200 then (s, regLow s o)
  else if o < 0x280 then (s, if (o - 0x200) / 8 < nMills s then millctlReg s ((o - 0x200) / 8) else 0)
  else if 0x1000 ≤ o ∧ o < 0x1200 then (s, clkmonReg s ((o - 0x1000) / 8))
  else if 0x2000 ≤ o ∧ o < 0x2100 then (s, regReset s (o - 0x2000))
  else if 0x2100 ≤ o ∧ o < 0x2180 then bkupRead s ((o - 0x2100) / 8)
  else if 0x10000 ≤ o ∧ o < 0x10C00 then (s, regSail s (o - 0x10000))
  else if 0x20000 ≤ o ∧ o < 0x20600 then (s, regWeir s (o - 0x20000))
  else if 0x28000 ≤ o ∧ o < 0x280C0 then (s, sluiceReg (getSluice s ((o - 0x28000) / 8)))
  else if 0x30000 ≤ o ∧ o < 0x30200 then (s, regFb s (o - 0x30000))
  else if 0x38000 ≤ o ∧ o < 0x38200 then (s, regEmu s (o - 0x38000))
  else if 0x40000 ≤ o ∧ o < 0x40800 then
    (s, if leatHeld s ((o - 0x40000) / 8) then 0 else leatcfgReg s ((o - 0x40000) / 8))
  else if o = 0x50000 then (s, s.twin.drvsel.setWidth 64)
  else if 0x60000 ≤ o ∧ o < 0x60100 then (s, fuseReg s ((o - 0x60000) / 8))
  else if 0x70000 ≤ o ∧ o < 0x70200 then (s, regLane s (o - 0x70000))
  else (s, 0)

/-- A write to a register of 1600000h to 16001FFh. -/
def regLowWr (s : State) (o : Nat) (v : W64) (be : BitVec 8) : State :=
  match o with
  | 0x100 => millcfgWr s v be
  | 0x110 => modMemR s fun r => { r with cfg := mergeRw 0x7F r.cfg v be }
  | 0x118 => memerrWr s v be
  | 0x120 => pwrWrite s .bank v be
  | 0x128 => pwrWrite s .sp0 v be
  | 0x130 => pwrWrite s .sp1 v be
  | 0x138 => pwrWrite s .pin0 v be
  | 0x140 => pwrWrite s .pin1 v be
  | 0x148 => pwrWrite s .cs v be
  | 0x150 => mempwrstWr s v be
  | 0x158 => sparectlWr s v be
  | 0x160 => twincfgWr s v be
  | 0x168 => twinstatWr s v be
  | 0x188 => ringstatWr s v be
  | 0x1A0 => ringcntWr s v be
  | _ => s

/-- A write to a register of 1602000h to 16020FFh. -/
def regResetWr (s : State) (o : Nat) (v : W64) (be : BitVec 8) : State :=
  match o with
  | 0x08 => rstreqWr s v be
  | 0x18 => wdcfgWr s v be
  | 0x20 => modRst s fun r => { r with wdServe := mergeBe r.wdServe v be }
  | 0x28 => if bitOf be 0 && bitOf v 0 then kickDog s else s
  | 0x38 => if bitOf be 0 && bitOf v 0 then drvrelWr s else s
  | _ => s

/-- Writes to the registers of a sail, a weir, a feedback and an emulation channel, a lane. -/
def regSailWr (s : State) (o : Nat) (v : W64) (be : BitVec 8) : State :=
  let n := o / 16
  if n ≥ 192 ∨ tbHeld s n = true then s else if o % 16 = 0 then sailcfgWr s n v be else sailsafeWr s n v be
def regWeirWr (s : State) (o : Nat) (v : W64) (be : BitVec 8) : State :=
  if o % 16 = 0 then weirWrite s (o / 16) v be else weirstWrite s (o / 16) (v &&& beMask be)
def regFbWr (s : State) (o : Nat) (v : W64) (be : BitVec 8) : State :=
  let n := o / 0x40
  if fbHeld s n then s
  else if o % 0x40 < 0x18 then fbWrite s n (o % 0x40 / 8) v be
  else if o % 0x40 = 0x30 then fbstWrite s n (v &&& beMask be)
  else s
def regEmuWr (s : State) (o : Nat) (v : W64) (be : BitVec 8) : State :=
  let n := o / 0x40
  if fbHeld s n then s
  else if o % 0x40 = 0 then emuWrite s n v be
  else if o % 0x40 = 8 then emustWr s n v be
  else s
def regLaneWr (s : State) (o : Nat) (v : W64) (be : BitVec 8) : State :=
  let k := o / 0x40
  if o ≥ 0x100 then ringmemWr s ((o - 0x100) / 8) v be
  else if laneHeld s k then s
  else if o % 0x40 = 0 ∧ bitOf be 0 = true then lanectlWr s k (bitOf v 0) (bitOf v 1) (bitOf v 2)
  else if o % 0x40 = 8 ∧ bitOf be 1 = true ∧ bitOf v 11 = true then modLane s k fun l => { l with err := false }
  else s

/-- A register of the block at 1600000h written. -/
def regWrite (s : State) (o : Nat) (v : W64) (be : BitVec 8) : State :=
  if o < 0x200 then regLowWr s o v be
  else if o < 0x280 then millctlWr s ((o - 0x200) / 8) v be
  else if 0x1000 ≤ o ∧ o < 0x1200 then clkmonWr s ((o - 0x1000) / 8) v be
  else if 0x2000 ≤ o ∧ o < 0x2100 then regResetWr s (o - 0x2000) v be
  else if 0x2100 ≤ o ∧ o < 0x2180 then bkupWr s ((o - 0x2100) / 8) v be
  else if 0x10000 ≤ o ∧ o < 0x10C00 then regSailWr s (o - 0x10000) v be
  else if 0x20000 ≤ o ∧ o < 0x20600 then regWeirWr s (o - 0x20000) v be
  else if 0x28000 ≤ o ∧ o < 0x280C0 then sluiceWrite s ((o - 0x28000) / 8) (v &&& beMask be)
  else if 0x30000 ≤ o ∧ o < 0x30200 then regFbWr s (o - 0x30000) v be
  else if 0x38000 ≤ o ∧ o < 0x38200 then regEmuWr s (o - 0x38000) v be
  else if 0x40000 ≤ o ∧ o < 0x40800 then
    (if leatHeld s ((o - 0x40000) / 8) then s else leatcfgWr s ((o - 0x40000) / 8) v be)
  else if 0x70000 ≤ o ∧ o < 0x70200 then regLaneWr s (o - 0x70000) v be
  else s

/-! ### The Miller's window (R345, R505, R525) -/

/-- A word of retained memory as the host sees it (R331, R345). -/
def retainedRead (s : State) (i : Nat) : Rd :=
  match retRead s i with
  | some x => (noteRead s .retained i, ofWord x, true)
  | none => (noteRead s .retained i, pk [(32, 0xE)], false)

def millerRead (s : State) (o : Nat) : Rd :=
  if 0x80000 ≤ o ∧ o < 0x84000 then retainedRead s ((o - 0x80000) / 8)
  else
    let v : W64 :=
      if 0x08 ≤ o ∧ o < 0x28 then mbArg s ((o - 8) / 8)
      else if o = 0x28 then mbstatReg s
      else if 0x30 ≤ o ∧ o < 0x70 then tget 0 s.miller.res ((o - 0x30) / 8)
      else if 0x100 ≤ o ∧ o < 0x140 then templim s ((o - 0x100) / 8)
      else if 0x140 ≤ o ∧ o < 0x160 then suplim s ((o - 0x140) / 8)
      else 0
    (s, v, true)

def millerWrite (s : State) (o : Nat) (v : W64) (be : BitVec 8) : State :=
  if o = 0 then (if bitOf be 1 && bitOf v 8 then mbGo s (fld (v &&& beMask be) 0 8) else s)
  else if 0x08 ≤ o ∧ o < 0x28 then
    modMiller s fun m => { m with arg := tset 0 m.arg ((o - 8) / 8) (mergeBe (tget 0 m.arg ((o - 8) / 8)) v be) }
  else if o = 0x28 then mbstatWr s v be
  else if 0x100 ≤ o ∧ o < 0x140 then
    let t := (o - 0x100) / 8
    modMiller s fun m => { m with templim := tset 0x03E8_0348 m.templim t (mergeRw 0x1FFFFFFFF (templim s t) v be) }
  else if 0x140 ≤ o ∧ o < 0x160 then
    let r := (o - 0x140) / 8
    modMiller s fun m => { m with suplim := tset 0xFFFF_0000 m.suplim r (mergeRw 0xFFFFFFFF (suplim s r) v be) }
  else s

/-! ### Requests (R70 to R72) -/

/-- The host port answers outside CAPS: no L2, L3 or L4 reset is in progress and CAPS is valid (R72). -/
def portOpen (s : State) : Bool := portLive s && bitOf s.capsId 0

/-- In RETENTION the port writes registers of the units on VAO alone: the clock monitors, the reset controller, the backup
registers and the Miller's window (R79, R522; log 105, DESIGN CHOICE). -/
def vaoReg (a : Nat) : Bool :=
  (decide (0x1601000 ≤ a) && decide (a < 0x1602180)) || (decide (0x1700000 ≤ a) && decide (a < 0x1800000))

/-- One beat read at a byte address (R71, R72, R76). -/
def readBeat (s : State) (a : Nat) : Rd :=
  if 0x1600000 ≤ a ∧ a < 0x1600100 then (s, regLow s (a - 0x1600000), true)
  else if !portOpen s then (s, 0, false)
  else if a < 0x1000000 then mpHostRead s (a / 4) false
  else if a < 0x1200000 then mpHostRead s ((a - 0x1000000) * 2) true
  else if a < 0x1400000 then (s, 0, true)
  else if a < 0x1500000 then (s, hopRead s .c (a - 0x1400000), true)
  else if a < 0x1600000 then (s, hopRead s .s (a - 0x1500000), true)
  else if a < 0x1700000 then ((regRead s (a - 0x1600000)).1, (regRead s (a - 0x1600000)).2, true)
  else if a < 0x1800000 then millerRead s (a - 0x1700000)
  else if a < 0x2000000 then spadHostRead s ((a - 0x1800000) / 0x20000) (a % 0x20000 / 4) false
  else if a < 0x2800000 then (s, psRead s ((a - 0x2000000) / 0x80000) (a % 0x80000 / 2), true)
  else if a < 0x2900000 then (s, (csRead s ((a - 0x2800000) / 0x10000) (a % 0x10000)).1, (csRead s ((a - 0x2800000) / 0x10000) (a % 0x10000)).2)
  else if a < 0x2A00000 then (s, 0, true)
  else if a < 0x2B00000 then spadHostRead s ((a - 0x2A00000) / 0x4000) (a % 0x4000 * 2) true
  else (s, 0, true)

/-- One beat written at a byte address (R71, R72, R75, R76). -/
def writeBeat (s : State) (a : Nat) (v : W64) (be : BitVec 8) : State × Bool :=
  if 0x1600000 ≤ a ∧ a < 0x1600100 then (s, true)
  else if !portOpen s then (s, false)
  else if a < 0x1000000 then mpHostWrite s (a / 4) false v be
  else if a < 0x1200000 then mpHostWrite s ((a - 0x1000000) * 2) true v be
  else if a < 0x1400000 then (s, true)
  else if s.rst.retention && decide (a < 0x1800000) && !vaoReg a then (s, true)
  else if a < 0x1500000 then hopWrite s .c (a - 0x1400000) v be
  else if a < 0x1600000 then hopWrite s .s (a - 0x1500000) v be
  else if a < 0x1700000 then (regWrite s (a - 0x1600000) v be, true)
  else if a < 0x1800000 then (millerWrite s (a - 0x1700000) v be, true)
  else if a < 0x2000000 then spadHostWrite s ((a - 0x1800000) / 0x20000) (a % 0x20000 / 4) false v be
  else if a < 0x2900000 then (s, false)
  else if a < 0x2A00000 then (s, true)
  else if a < 0x2B00000 then spadHostWrite s ((a - 0x2A00000) / 0x4000) (a % 0x4000 * 2) true v be
  else (s, true)

/-- The address of beat `i` of a request: 8-byte aligned, within 26 bits (R70). A beat past 3FFFFFFh wraps to address 0 (log 106,
DESIGN CHOICE). -/
def beatAddr (addr : BitVec 26) (i : Nat) : Nat := (addr.toNat / 8 * 8 + 8 * i) % 0x4000000

/-- A complex reset has been raised and begins. -/
def resetComing (s : State) : Bool := s.rst.phase == .run && s.rst.reqs.any fun r => decide (2 ≤ r.level)

/-- The request is ended before beat `i` by a raised complex reset that begins after `cut` beats (R72). -/
def cutNow (s : State) (cut : Option (Fin 8)) (i : Nat) : Bool :=
  match cut with
  | some k => decide (k.val ≤ i) && resetComing s
  | none => false

/-- The beats of a read, in ascending order; a beat that a reset cuts reads 0 and makes the response ERR (R72). -/
def readBeats (s : State) (addr : BitVec 26) (n : Nat) (cut : Option (Fin 8)) : State × List W64 × Bool :=
  (List.range n).foldl (fun r i =>
    let x : Rd := if cutNow r.1 cut i then (r.1, 0, false) else readBeat r.1 (beatAddr addr i)
    (x.1, r.2.1 ++ [x.2.1], r.2.2 && x.2.2)) (s, [], true)

/-- The beats of a write, in ascending order; a beat that a reset cuts has no effect and makes the response ERR (R72). The
beats after one that answers ERR for another reason still take effect (log 106, DESIGN CHOICE). -/
def writeBeats (s : State) (addr : BitVec 26) (l : List (W64 × BitVec 8)) (cut : Option (Fin 8)) : State × Bool :=
  l.zipIdx.foldl (fun r p =>
    let x := if cutNow r.1 cut p.2 then (r.1, false) else writeBeat r.1 (beatAddr addr p.2) p.1.1 p.1.2
    (x.1, r.2 && x.2)) (s, true)

/-- HOST_PORT_READ of 1 to 8 beats (R70, R72). -/
def execHostPortRead (addr : BitVec 26) (q : ReadBeats) (s : State) : Out :=
  let r := readBeats s addr (q.more + 1) q.cut
  .next { r.1 with hpResp := { ok := r.2.2, data := r.2.1 } }

/-- HOST_PORT_WRITE of one to eight beats (R70); no sender presents another number of beats. -/
def execHostPortWrite (addr : BitVec 26) (q : WriteBeats) (s : State) : Out :=
  if q.beats.isEmpty || decide (q.beats.length > 8) then .refused .illFormed
  else
    let r := writeBeats s addr q.beats q.cut
    .next { r.1 with hpResp := { ok := r.2, data := [] } }

/-- RINGTIME_READ: a read of RINGTIME (R412). -/
def execRingtimeRead (s : State) : Out := execHostPortRead 0x1600190 ⟨0, none⟩ s

end Sys2Proof.Machine
end

