-- ==== Sys2Proof/Machine/Micro.lean ====
section
/-! DEFINITION. Custom opcodes: the custom dispatch table and the microword sequencer (R253 to R267). -/

namespace Sys2Proof.Machine

/-- The microcode registers of one instruction (R263), whether an S member has gone into ACC (R209), its write set (R264) and
the POISON it has met (R265). -/
structure MicroSt where
  t : List TWord
  md : TWord
  ctr : Nat
  acc : BitVec 96
  accS : Bool
  writes : List (Nat × TWord)
  psn : Option TWord
  deriving DecidableEq, Repr

/-- A custom dispatch table entry (R254). -/
def cdtEn (d : W64) : Bool := bitOf d 0
def cdtEntry (d : W64) : Nat := fld d 1 12
def cdtPop (d : W64) : Nat := fld d 13 2
def cdtPush (d : W64) : Nat := fld d 15 1
def cdtCls (d : W64) (i : Nat) : Nat := fld d (16 + 4 * i) 4
def cdtFmax (d : W64) : Nat := fld d 28 6

/-- Does a tag belong to a class of R258? POISON is decided elsewhere (R265). -/
def inClass (c : Nat) (t other : Tag) : Bool :=
  t == .poison ||
  match c with
  | 0 => true
  | 1 => t == .int
  | 2 => famOf t == some .q31
  | 3 => famOf t == some .q16
  | 4 => t == .f32
  | 5 => (famOf t).isSome
  | 6 => other == .poison || ((famOf t).isSome && famOf t == famOf other)
  | 7 => t == .addr
  | 8 => t == .time
  | 9 => t == .sample
  | 10 => t == .duty
  | 11 => t == .code
  | _ => false

/-- The constant K (R256); none where KSEL is reserved. -/
def microK (k : Nat) : Option W32 :=
  if k < 0x20 then some (BitVec.ofNat 32 k)
  else if k = 0x20 then some 0x7FFFFFFF
  else if k = 0x21 then some 0x80000000
  else if k = 0x22 then some 0xFFFFFFFF
  else if k = 0x23 then some 0x40000000
  else none

/-- The value of an operand source (R257); `z` stands for an operand that the microword does not name. -/
def microSrc (x : Wheel) (m : MicroSt) (fam : Fam) (k : W32) (opf : Nat) (z : TWord) (c : Nat) : TWord :=
  match c with
  | 1 => stkRd x 0
  | 2 => stkRd x 1
  | 3 => stkRd x 2
  | 4 => nth z m.t 0
  | 5 => nth z m.t 1
  | 6 => nth z m.t 2
  | 7 => nth z m.t 3
  | 8 => m.md
  | 9 => ⟨if fam = .f32 then .int else famTag fam false, k⟩
  | 10 => intW opf
  | 11 => intW m.ctr
  | _ => z

/-- The operand number of INFO for a source (R284). -/
def microOpNo (c : Nat) : Nat :=
  if c = 1 then 0 else if c = 2 then 1 else if c = 3 then 2 else if c = 8 then 3 else Config.microOperand c % 16

/-- Reserved, ROM only, or not accepted for the family (R260). -/
def aopBad (aop : Nat) (f : Fam) : Bool :=
  decide (aop ≥ 0x18) || aop == 0x0B || aop == 0x0C ||
  (decide (0x0D ≤ aop ∧ aop ≤ 0x0F) && f == .f32) || (decide (0x10 ≤ aop ∧ aop ≤ 0x13) && f != .int)

/-- The minimum length of an AOP in wc (R260). -/
def aopMin (aop : Nat) (f : Fam) : Nat :=
  if aop = 3 ∨ aop = 4 ∨ aop = 7 ∨ aop = 8 then (if f = .f32 then 2 else 1)
  else if aop = 9 ∨ aop = 10 ∨ aop = 0x15 then (if f = .f32 then 3 else 2)
  else 1

/-- An ALU result that saturates into its family, with whether it did (R143, R260). -/
def aluQ (f : Fam) (s : Bool) (v : Int) : TWord × Bool :=
  if isQ f then (qRes f s v, (sat32 v).2) else (⟨.int, w32 v⟩, false)

/-- The S mark that the named operands give a result (R143, R260): NEG and ABS compute on A alone, ACCRD on what went into
ACC. -/
def aluMark (aop : Nat) (accS aS bS : Bool) : Bool :=
  if aop = 0x16 then accS else if aop = 0x05 ∨ aop = 0x06 then aS else aS || bS

/-- The ALU on both operands as members of the family (R260), with the S mark `s` of the operands: result and saturation; none
where the operation has no result. -/
def alu (aop : Nat) (f : Fam) (s : Bool) (acc : BitVec 96) (a b : TWord) : Option (TWord × Bool) :=
  let x := a.val.toInt
  let y := b.val.toInt
  let fl (v : W32) : Option (TWord × Bool) := some (⟨.f32, v⟩, false)
  let q (v : Int) : Option (TWord × Bool) := some (aluQ f s v)
  let pass (v : W32) : Option (TWord × Bool) := some (⟨famTag f s, v⟩, false)
  let mul (h : Bool) : Option (TWord × Bool) :=
    match f with
    | .f32 => fl (fMul a.val b.val)
    | .int => q (if h then (x * y).fdiv (2 ^ 32) else x * y)
    | g => q (if h then rdn (x * y) (qBits g) else rnd (x * y) (qBits g))
  let sh (o : ShOp) : Option (TWord × Bool) :=
    let r := shiftVal o f s a.val b.val.toNat
    let ovf := o == .shl && isQ f && x != 0 && (decide (b.val.toNat ≥ 32) || (sat32 (x * 2 ^ b.val.toNat)).2)
    some (r, ovf)
  match aop with
  | 0x01 => pass a.val
  | 0x02 => pass b.val
  | 0x03 => if f = .f32 then fl (fAdd a.val b.val) else q (x + y)
  | 0x04 => if f = .f32 then fl (fSub a.val b.val) else q (x - y)
  | 0x05 => if f = .f32 then fl (fNeg a.val) else q (-x)
  | 0x06 => if f = .f32 then fl (fAbs a.val) else q (if x < 0 then -x else x)
  | 0x07 => if f = .f32 then fl (fMin a.val b.val) else q (if x ≤ y then x else y)
  | 0x08 => if f = .f32 then fl (fMax a.val b.val) else q (if x ≤ y then y else x)
  | 0x09 => mul false
  | 0x0A => mul true
  | 0x0D => sh .shl
  | 0x0E => sh .shr
  | 0x0F => sh .sar
  | 0x10 => some (⟨.int, a.val &&& b.val⟩, false)
  | 0x11 => some (⟨.int, a.val ||| b.val⟩, false)
  | 0x12 => some (⟨.int, a.val ^^^ b.val⟩, false)
  | 0x13 => some (⟨.int, ~~~ a.val⟩, false)
  | 0x14 => pass 0
  | 0x16 =>
    match f with
    | .int => some (⟨.int, BitVec.ofNat 32 acc.toNat⟩, false)
    | .f32 => fl (BitVec.ofNat 32 acc.toNat)
    | g => q (rnd acc.toInt (qBits g))
  | _ => none

/-- A value against zero under its own tag (R189, R198): less, equal, greater. -/
def signOf (v : TWord) : Bool × Bool × Bool :=
  if v.tag = .f32 then (fLt v.val 0 false, fEq v.val 0, fLt 0 v.val false)
  else (decide (v.val.toInt < 0), v.val == 0, decide (0 < v.val.toInt))

/-- A condition (R259), after the microword's own writes. -/
def microCond (c : Nat) (r : TWord × Bool) (m : MicroSt) (a : TWord) (fst : W32) : Bool :=
  let t0 := signOf (nth emptyW m.t 0)
  let t1 := signOf (nth emptyW m.t 1)
  match c with
  | 0x1 => (signOf r.1).1
  | 0x2 => (signOf r.1).2.1
  | 0x3 => r.2
  | 0x4 => t0.1
  | 0x5 => t0.2.1
  | 0x6 => t1.1
  | 0x7 => t1.2.1
  | 0x8 => t0.2.2
  | 0x9 => t1.2.2
  | 0xA => m.ctr == 0
  | 0xB => isS m.md.tag
  | 0xC => isS a.tag
  | 0xD => bitOf fst 3
  | 0xE => bitOf fst 2
  | _ => false

/-- The AFAM codes (R256). -/
def famOfAfam (n : Nat) : Fam := famOfCode n

/-- Checks 1 to 3 of R267, on the microword alone. -/
def microWordBad (u : BitVec 112) (sop : Nat) : Bool :=
  let f := famOfAfam (fld u 39 2)
  let aop := fld u 33 6
  let nsel := fld u 13 2
  fld u 87 4 != 0 || fld u 91 8 != 0 || fld u 99 13 != 0 || nsel == 3 || decide (fld u 41 4 > 11) ||
  decide (fld u 45 4 > 11) || decide (fld u 49 3 > 5) || decide (fld u 55 4 > 11) || decide (fld u 59 4 > 11) ||
  fld u 63 2 == 3 || (microK (fld u 74 6)).isNone || fld u 85 2 == 3 ||
  (nsel == 0 && decide (fld u 0 13 < 0x1000)) || (nsel != 1 && fld u 52 3 != 0) || (nsel == 1 && fld u 52 3 != sop) ||
  aopBad aop f || decide (fld u 31 2 + 1 < aopMin aop f)

/-- What a microword leads to. -/
inductive MicroNext where
  | go (next : Nat) (s : State) (m : MicroSt)
  | fin (s : State) (m : MicroSt) (r : TWord)
  | fail (s : State) (e : Exc)

/-- TRAP numbers that a writable microword may raise (R266). -/
def trapOk (n : Nat) : Bool := n == 2 || n == 3 || n == 4 || n == 5 || n == 9 || n == 10

/-- Check 5 of R267 on the operands used, in the order of R145: the first one tagged Ch, Dh or EMPTY; then, unless one is
POISON, the first one outside its class. -/
def usedBad (l : List (TWord × Nat × Bool)) (poison : Bool) : Option (TWord × Nat × Bool) :=
  match l.find? fun p => isRsv p.1.tag || p.1.tag == Tag.empty with
  | some p => some p
  | none => if poison then none else l.find? fun p => !p.2.2

/-- One microword of a custom opcode (R256 to R267). `g` numbers the instruction's free values. -/
def microStep (s : State) (w op opf sop g : Nat) (u : BitVec 112) (m : MicroSt) : MicroNext :=
  let x := getWheel s w
  let z := Config.microTemp (8 * g + 6)
  let fam := famOfAfam (fld u 39 2)
  let aop := fld u 33 6
  let nsel := fld u 13 2
  let quiet := m.psn.isSome
  if microWordBad u sop && !quiet then .fail s (exc 2 (intW 0) op)
  else
    let fwn := fld u 65 6 + fld u 71 3 * (opf % 64)
    let fop := fld u 63 2
    if (fop != 0 && decide (fwn > 63) || (fop == 2 && decide (m.writes.length ≥ 4))) && !quiet then
      .fail s (exc 2 (intW 0) op)
    else
      let k := (microK (fld u 74 6)).getD 0
      let ac := fld u 41 4
      let bc := fld u 45 4
      let a := microSrc x m fam k opf z ac
      let b := microSrc x m fam k opf z bc
      let used := (if ac = 0 then [] else [(a, ac, inClass (fld u 55 4) a.tag b.tag)]) ++
        (if bc = 0 then [] else [(b, bc, inClass (fld u 59 4) b.tag a.tag)])
      let hit := used.find? fun p => p.1.tag == Tag.poison
      match (if quiet then none else usedBad used hit.isSome) with
      | some p => .fail s (tagExc p.1.tag (microOpNo p.2.1) op)
      | none =>
        let m := match m.psn, hit with
          | none, some p => { m with psn := some p.1 }
          | _, _ => m
        let quiet := m.psn.isSome
        if fop == 2 && !loopWord fwn && !quiet then .fail s (exc 5 (Config.frameInfo5 fwn) op)
        else if nsel == 2 && !quiet then
          .fail s (exc (if trapOk (fld u 80 5) then fld u 80 5 else 2) (intW 0) op)
        else
          let aS := ac != 0 && isS a.tag
          let bS := bc != 0 && isS b.tag
          let r := (alu aop fam (aluMark aop m.accS aS bS) m.acc a b).getD (z, false)
          let acc := if aop = 0x15 then dotAcc fam m.acc a.val b.val else if aop = 0x17 then 0
            else if fld u 49 3 = 5 then Config.accLoad r.1 else m.acc
          let accS := if aop = 0x15 then m.accS || aS || bS else if aop = 0x17 then false
            else if fld u 49 3 = 5 then isS r.1.tag else m.accS
          let d := fld u 49 3
          let t := if 1 ≤ d ∧ d ≤ 4 then setNth m.t (d - 1) r.1 else m.t
          let ctr := if fld u 85 2 = 1 then fld b.val 0 16 else if fld u 85 2 = 2 then m.ctr - 1 else m.ctr
          let wr := if fop = 2 ∧ fwn ≤ 63 then m.writes ++ [(fwn, r.1)] else m.writes
          let m := { m with acc := acc, accS := accS, t := t, ctr := ctr, writes := wr }
          let fst := fstat s w x.frm
          let bits := (List.range 4).foldl (fun n i =>
            n ||| (if microCond (fld u (15 + 4 * i) 4) r m a fst then 2 ^ i else 0)) 0
          let nxt := fld u 0 13 ||| bits
          let go (s : State) (m : MicroSt) : MicroNext :=
            if nsel = 0 then .go nxt s m else .fin s m r.1
          if fop = 1 ∧ fwn ≤ 63 then
            match readFrame s w op fwn with
            | .error e => .fail e.1 e.2
            | .ok (s, v) =>
              let m := match m.psn with
                | none => if v.tag = Tag.poison then { m with psn := some v } else m
                | some _ => m
              go s { m with md := v }
          else go s m

/-- END: pops, the pushed result and the write set together (R264, R265). -/
def microEnd (s : State) (w : Nat) (d : W64) (m : MicroSt) (r : TWord) : State :=
  let frm := (getWheel s w).frm
  let res : TWord := match m.psn with
    | some p => ⟨.poison, p.val⟩
    | none => r
  let s := modWheel s w fun x => popPush x (cdtPop d) (if cdtPush d = 1 then [res] else [])
  if m.psn.isSome then s else m.writes.foldl (fun s p => setFw s w frm p.1 p.2) s

/-- More than the states that a path's address, T0 to T3, MD, CTR, ACC with its mark, count of writes and POISON flag can form
(13 + 180 + 16 + 97 + 3 + 1 bits): a path of as many microwords has come back to a state it was in, and never ends (log 17). -/
def microBound : Nat := 2 ^ 160 * 2 ^ 160

/-- Microwords from address `a` on, at most `k` of them; a path that has not ended then never does (log 17). -/
def microRun (w op opf sop g : Nat) (d : W64) : Nat → State → Nat → MicroSt → Res
  | 0, s, _, _ => .ok (modWheel s w fun x => { x with stall := .endless, stallOp := BitVec.ofNat 14 op }, .stay)
  | k + 1, s, a, m =>
    let u := tget 0 (getMill s (millOf w)).cstore (a % 0x2000)
    match microStep s w op opf sop g u m with
    | .fail s e => .error (s, e)
    | .fin s m r => .ok (microEnd s w d m r, .next)
    | .go n s m => microRun w op opf sop g d k s n m

/-- The tag checks of the CDT entry on the popped operands (R255 step 6), in the order of R145: Ch, Dh or EMPTY; then POISON,
which decides the result and raises nothing; then the classes. -/
def cdtTags (d : W64) (op : Nat) (l : List TWord) : Option Exc :=
  match badExc op l with
  | some e => some e
  | none =>
    if (poisonOf l).isSome then none
    else (l.zipIdx.find? fun p => !inClass (cdtCls d p.2) p.1.tag p.1.tag).map fun p => tagExc p.1.tag p.2 op

/-- CUSTOM_OPCODE: slot s in bits [10:6], field f in bits [5:0] (R180, R253, R255). -/
def execCustomOpcode (w : WheelId) (opf : BitVec 11) (s : State) : Out :=
  let op := 0x3800 + opf.toNat
  .next <| issue s w op [] fun s =>
    let x := getWheel s w
    let m := millOf w
    let d := tget 0 (getMill s m).cdt (opf.toNat / 64)
    if cdtEn d = false ∨ csOn s m = false then .error (s, exc 1 (intW 0) op)
    else if opf.toNat % 64 > cdtFmax d then .error (s, exc 2 (intW 0) op)
    else if (bitOf d 34 && !x.mode.level) || (bitOf d 35 && x.mode.world) then .error (s, exc 6 (intW 0) op)
    else
      match depthExc x (cdtPop d) (cdtPop d) (cdtPush d) op with
      | some e => .error (s, e)
      | none =>
        let l := tops x (cdtPop d)
        match cdtTags d op l with
        | some e => .error (s, e)
        | none =>
          let g := s.free
          let t (i : Nat) : TWord := Config.microTemp (8 * g + i)
          let m0 : MicroSt :=
            ⟨(List.range 4).map t, t 4, (t 5).val.toNat % 0x10000, Config.microAcc g, isS (t 7).tag, [], poisonOf l⟩
          microRun w op opf.toNat (cdtPop d + 4 * cdtPush d) g d microBound (takeFree s) (0x1000 + cdtEntry d) m0

/-- UNDEFINED_OPCODE: a word that R179 leaves undefined raises exception 1 (R178, R199). A word that R179 defines is no
such event, and is refused. -/
def execUndefinedOpcode (w : WheelId) (word : BitVec 14) (s : State) : Out :=
  if opLen word.toNat = none then
    .next <| issue s w word.toNat [] fun s => .error (s, exc 1 (intW 0) word.toNat)
  else .refused .illFormed

end Sys2Proof.Machine
end

