-- ==== Sys2Proof/Machine/WArith.lean ====
section
/-! DEFINITION. The add, multiply, divide, shift, logic and convert classes (R183 to R187, R197, R198). -/

namespace Sys2Proof.Machine

/-- A two-operand computing instruction: R178's checks, R145, then `f` on NOS and TOS under MODE.TCHK. -/
def binOp (s : State) (w op : Nat) (f : Bool → TWord → TWord → Except Exc TWord) : State :=
  stackOp s w op 2 1 fun x l => compute op l (f x.mode.tchk (nth emptyW l 1) (nth emptyW l 0))

/-- A one-operand computing instruction. -/
def unOp (s : State) (w op : Nat) (f : TWord → Except Exc TWord) : State :=
  stackOp s w op 1 1 fun _ l => compute op l (f (nth emptyW l 0))

/-- The tags of the multiply and divide classes, in either place; MOD takes no F32 (R146). -/
def numFits (_tos : Bool) (t : Tag) : Bool := (famOf t).isSome
def modFits (tos : Bool) (t : Tag) : Bool := numFits tos t && t != .f32

/-- ADD ( a b — a+b ) (R183). -/
def execAdd (w : WheelId) (s : State) : Out :=
  .next (binOp s w 0x20 fun c => pairOp 0x20 c (addFits .add) (addRows 0x20 .add))

/-- SUB ( a b — a−b ) (R183). -/
def execSub (w : WheelId) (s : State) : Out :=
  .next (binOp s w 0x21 fun c => pairOp 0x21 c (addFits .sub) (addRows 0x21 .sub))

/-- RSUB ( a b — b−a ) (R183). -/
def execRsub (w : WheelId) (s : State) : Out :=
  .next (binOp s w 0x22 fun c => pairOp 0x22 c (addFits .rsub) (addRows 0x22 .rsub))

/-- NEG ( a — −a ) (R183). -/
def execNeg (w : WheelId) (s : State) : Out := .next (unOp s w 0x23 (unaryAdd 0x23 false))

/-- ABS ( a — |a| ) (R183). -/
def execAbsW (w : WheelId) (s : State) : Out := .next (unOp s w 0x24 (unaryAdd 0x24 true))

/-- MIN ( a b — m ) (R183). -/
def execMinW (w : WheelId) (s : State) : Out :=
  .next (binOp s w 0x25 fun c => pairOp 0x25 c (addFits .min) (addRows 0x25 .min))

/-- MAX ( a b — m ) (R183). -/
def execMaxW (w : WheelId) (s : State) : Out :=
  .next (binOp s w 0x26 fun c => pairOp 0x26 c (addFits .max) (addRows 0x26 .max))

/-- MUL (R184). -/
def execMul (w : WheelId) (s : State) : Out :=
  .next (binOp s w 0x30 fun c => pairOp 0x30 c numFits (mulRows false))

/-- MULH (R184). -/
def execMulh (w : WheelId) (s : State) : Out :=
  .next (binOp s w 0x31 fun c => pairOp 0x31 c numFits (mulRows true))

/-- DIV: NOS ÷ TOS (R185, R197). -/
def execDiv (w : WheelId) (s : State) : Out :=
  .next (binOp s w 0x32 fun c => pairOp 0x32 c numFits (divRows 0x32))

/-- MOD: the remainder of NOS ÷ TOS (R185, R197). -/
def execMod (w : WheelId) (s : State) : Out :=
  .next (binOp s w 0x33 fun c => pairOp 0x33 c modFits (modRows 0x33))

/-- The tags of the shift class: the count, which is TOS, is INT (R146, R186). -/
def shiftFits (tos : Bool) (t : Tag) : Bool := if tos then t == .int else modFits tos t

/-- SHL ( v n — r ) (R186). -/
def execShl (w : WheelId) (s : State) : Out :=
  .next (binOp s w 0x40 fun c => pairOp 0x40 c shiftFits (shiftRows .shl))

/-- SHR ( v n — r ) (R186). -/
def execShr (w : WheelId) (s : State) : Out :=
  .next (binOp s w 0x41 fun c => pairOp 0x41 c shiftFits (shiftRows .shr))

/-- SAR ( v n — r ) (R186). -/
def execSar (w : WheelId) (s : State) : Out :=
  .next (binOp s w 0x42 fun c => pairOp 0x42 c shiftFits (shiftRows .sar))

/-- AND (R186). -/
def execAndW (w : WheelId) (s : State) : Out := .next (binOp s w 0x48 fun _ => logicOp 0x48 .and)

/-- OR (R186). -/
def execOrW (w : WheelId) (s : State) : Out := .next (binOp s w 0x49 fun _ => logicOp 0x49 .or)

/-- XOR (R186). -/
def execXorW (w : WheelId) (s : State) : Out := .next (binOp s w 0x4A fun _ => logicOp 0x4A .xor)

/-- NOT (R186). -/
def execNotW (w : WheelId) (s : State) : Out :=
  .next (unOp s w 0x4B fun a => if a.tag = .int then .ok ⟨.int, ~~~ a.val⟩ else .error (tagExc a.tag 0 0x4B))

/-- CVT c (R187); the word of c = Fh is CLRS. -/
def execCvt (w : WheelId) (c : BitVec 4) (s : State) : Out :=
  .next (unOp s w (0x50 + c.toNat) (cvtOp (0x50 + c.toNat) c.toNat))

/-- CLRS: the S mark removed (R143, R187). -/
def execClrs (w : WheelId) (s : State) : Out := .next (unOp s w 0x5F (cvtOp 0x5F 15))

end Sys2Proof.Machine
end

