-- ==== Sys2Proof/Machine/Dispatch.lean ====
section
/-! DEFINITION. One arm per command: each calls the one meaning of its row. -/

namespace Sys2Proof.Machine

/-- The effect of a command on everything but the queue. -/
def exec (i : Instr) (s : State) : Host.Outcome State Fault Refusal :=
  match i with
  | .nop w => Sys2Proof.Machine.execNop w s
  | .wait w => Sys2Proof.Machine.execWait w s
  | .flush w => Sys2Proof.Machine.execFlush w s
  | .rtime w => Sys2Proof.Machine.execRtime w s
  | .cross w => Sys2Proof.Machine.execCross w s
  | .getmode w => Sys2Proof.Machine.execGetmode w s
  | .dup w => Sys2Proof.Machine.execDup w s
  | .drop w => Sys2Proof.Machine.execDrop w s
  | .swap w => Sys2Proof.Machine.execSwap w s
  | .over w => Sys2Proof.Machine.execOver w s
  | .rot w => Sys2Proof.Machine.execRot w s
  | .pick w n => Sys2Proof.Machine.execPick w n s
  | .pushi w v => Sys2Proof.Machine.execPushi w v s
  | .lits w t e => Sys2Proof.Machine.execLits w t e s
  | .litt w t v => Sys2Proof.Machine.execLitt w t v s
  | .ldl w j => Sys2Proof.Machine.execLdl w j s
  | .stl w j => Sys2Proof.Machine.execStl w j s
  | .ldf w j => Sys2Proof.Machine.execLdf w j s
  | .stf w j => Sys2Proof.Machine.execStf w j s
  | .add w => Sys2Proof.Machine.execAdd w s
  | .sub w => Sys2Proof.Machine.execSub w s
  | .rsub w => Sys2Proof.Machine.execRsub w s
  | .neg w => Sys2Proof.Machine.execNeg w s
  | .absW w => Sys2Proof.Machine.execAbsW w s
  | .minW w => Sys2Proof.Machine.execMinW w s
  | .maxW w => Sys2Proof.Machine.execMaxW w s
  | .mul w => Sys2Proof.Machine.execMul w s
  | .mulh w => Sys2Proof.Machine.execMulh w s
  | .div w => Sys2Proof.Machine.execDiv w s
  | .mod w => Sys2Proof.Machine.execMod w s
  | .shl w => Sys2Proof.Machine.execShl w s
  | .shr w => Sys2Proof.Machine.execShr w s
  | .sar w => Sys2Proof.Machine.execSar w s
  | .andW w => Sys2Proof.Machine.execAndW w s
  | .orW w => Sys2Proof.Machine.execOrW w s
  | .xorW w => Sys2Proof.Machine.execXorW w s
  | .notW w => Sys2Proof.Machine.execNotW w s
  | .cvt w c => Sys2Proof.Machine.execCvt w c s
  | .clrs w => Sys2Proof.Machine.execClrs w s
  | .ld w => Sys2Proof.Machine.execLd w s
  | .st w => Sys2Proof.Machine.execSt w s
  | .ld2 w => Sys2Proof.Machine.execLd2 w s
  | .st2 w => Sys2Proof.Machine.execSt2 w s
  | .move w steps => Sys2Proof.Machine.execMove w steps s
  | .fill w steps => Sys2Proof.Machine.execFill w steps s
  | .scan w steps => Sys2Proof.Machine.execScan w steps s
  | .dot w steps => Sys2Proof.Machine.execDot w steps s
  | .jmp w ofs => Sys2Proof.Machine.execJmp w ofs s
  | .jmpl w ofs => Sys2Proof.Machine.execJmpl w ofs s
  | .jmpi w => Sys2Proof.Machine.execJmpi w s
  | .call w ofs => Sys2Proof.Machine.execCall w ofs s
  | .calll w ofs => Sys2Proof.Machine.execCalll w ofs s
  | .calli w => Sys2Proof.Machine.execCalli w s
  | .cadr w ofs => Sys2Proof.Machine.execCadr w ofs s
  | .beq w ofs => Sys2Proof.Machine.execBeq w ofs s
  | .bne w ofs => Sys2Proof.Machine.execBne w ofs s
  | .blt w ofs => Sys2Proof.Machine.execBlt w ofs s
  | .bge w ofs => Sys2Proof.Machine.execBge w ofs s
  | .beqz w ofs => Sys2Proof.Machine.execBeqz w ofs s
  | .bnez w ofs => Sys2Proof.Machine.execBnez w ofs s
  | .bltz w ofs => Sys2Proof.Machine.execBltz w ofs s
  | .bgez w ofs => Sys2Proof.Machine.execBgez w ofs s
  | .bccl w kind ofs => Sys2Proof.Machine.execBccl w kind ofs s
  | .btag w t ofs => Sys2Proof.Machine.execBtag w t ofs s
  | .bntag w t ofs => Sys2Proof.Machine.execBntag w t ofs s
  | .enter w n => Sys2Proof.Machine.execEnter w n s
  | .returnW w r => Sys2Proof.Machine.execReturnW w r s
  | .sail w k => Sys2Proof.Machine.execSail w k s
  | .tell w n => Sys2Proof.Machine.execTell w n s
  | .scale w j => Sys2Proof.Machine.execScale w j s
  | .scaleu w j => Sys2Proof.Machine.execScaleu w j s
  | .clamp w j => Sys2Proof.Machine.execClamp w j s
  | .mkduty w j => Sys2Proof.Machine.execMkduty w j s
  | .piq w b => Sys2Proof.Machine.execPiq w b s
  | .pidq w b => Sys2Proof.Machine.execPidq w b s
  | .slew w j => Sys2Proof.Machine.execSlew w j s
  | .rpt w n => Sys2Proof.Machine.execRpt w n s
  | .rptIterationEnd w => Sys2Proof.Machine.execRptIterationEnd w s
  | .setmode w => Sys2Proof.Machine.execSetmode w s
  | .modeChangeEffect w => Sys2Proof.Machine.execModeChangeEffect w s
  | .mkaddr w => Sys2Proof.Machine.execMkaddr w s
  | .setdesc w => Sys2Proof.Machine.execSetdesc w s
  | .getdesc w => Sys2Proof.Machine.execGetdesc w s
  | .rget w => Sys2Proof.Machine.execRget w s
  | .rput w => Sys2Proof.Machine.execRput w s
  | .pstore w => Sys2Proof.Machine.execPstore w s
  | .rte w => Sys2Proof.Machine.execRte w s
  | .fcall w => Sys2Proof.Machine.execFcall w s
  | .fret w => Sys2Proof.Machine.execFret w s
  | .customOpcode w opf => Sys2Proof.Machine.execCustomOpcode w opf s
  | .undefinedOpcode w word => Sys2Proof.Machine.execUndefinedOpcode w word s
  | .exceptionEntry w => Sys2Proof.Machine.execExceptionEntry w s
  | .leatWord n d => Sys2Proof.Machine.execLeatWord n d s
  | .wake w e => Sys2Proof.Machine.execWake w e s
  | .periodBoundary t idx => Sys2Proof.Machine.execPeriodBoundary t idx s
  | .modePairFlip w slot => Sys2Proof.Machine.execModePairFlip w slot s
  | .deadlineExpiry w pend count => Sys2Proof.Machine.execDeadlineExpiry w pend count s
  | .hopperFrameWrite w => Sys2Proof.Machine.execHopperFrameWrite w s
  | .fetchLineReturn w => Sys2Proof.Machine.execFetchLineReturn w s
  | .millpondGrant bank => Sys2Proof.Machine.execMillpondGrant bank s
  | .millpondLoadReturn w => Sys2Proof.Machine.execMillpondLoadReturn w s
  | .storeBufferDrain w => Sys2Proof.Machine.execStoreBufferDrain w s
  | .hostAccessResponse w accept d0 d1 => Sys2Proof.Machine.execHostAccessResponse w accept d0 d1 s
  | .tailraceServe => Sys2Proof.Machine.execTailraceServe s
  | .tellAccept w => Sys2Proof.Machine.execTellAccept w s
  | .eccWriteback m a => Sys2Proof.Machine.execEccWriteback m a s
  | .poisonRewrite m a => Sys2Proof.Machine.execPoisonRewrite m a s
  | .scrubVisit m => Sys2Proof.Machine.execScrubVisit m s
  | .stealService w => Sys2Proof.Machine.execStealService w s
  | .hostPortRead addr req => Sys2Proof.Machine.execHostPortRead addr req s
  | .hostPortWrite addr req => Sys2Proof.Machine.execHostPortWrite addr req s
  | .ringtimeRead => Sys2Proof.Machine.execRingtimeRead s
  | .millcfgWrite v be => Sys2Proof.Machine.execMillcfgWrite v be s
  | .millctlWrite m v be => Sys2Proof.Machine.execMillctlWrite m v be s
  | .millClockLock m => Sys2Proof.Machine.execMillClockLock m s
  | .sailsafeWrite n v be => Sys2Proof.Machine.execSailsafeWrite n v be s
  | .sailcfgCntclr n => Sys2Proof.Machine.execSailcfgCntclr n s
  | .leatcfgCntclr n => Sys2Proof.Machine.execLeatcfgCntclr n s
  | .memerrCntclr => Sys2Proof.Machine.execMemerrCntclr s
  | .mempwrstCntclr => Sys2Proof.Machine.execMempwrstCntclr s
  | .memPowerWrite r v be => Sys2Proof.Machine.execMemPowerWrite r v be s
  | .memPowerTransitionDone => Sys2Proof.Machine.execMemPowerTransitionDone s
  | .substitute bank => Sys2Proof.Machine.execSubstitute bank s
  | .restore => Sys2Proof.Machine.execRestore s
  | .spareAbort => Sys2Proof.Machine.execSpareAbort s
  | .spareCopyDone => Sys2Proof.Machine.execSpareCopyDone s
  | .twincfgWrite v be => Sys2Proof.Machine.execTwincfgWrite v be s
  | .lanectlWrite k en => Sys2Proof.Machine.execLanectlWrite k en s
  | .laneRetrain k => Sys2Proof.Machine.execLaneRetrain k s
  | .lanectlCntclr k => Sys2Proof.Machine.execLanectlCntclr k s
  | .retrainEnd k => Sys2Proof.Machine.execRetrainEnd k s
  | .laneRxlockChange k level => Sys2Proof.Machine.execLaneRxlockChange k level s
  | .laneBlockReceive k pos first words => Sys2Proof.Machine.execLaneBlockReceive k pos first words s
  | .dutyFrame k h recs => Sys2Proof.Machine.execDutyFrame k h recs s
  | .stateFrame k h r0 r1 => Sys2Proof.Machine.execStateFrame k h r0 r1 s
  | .timeFrame k h t1 t2 t3 t4 => Sys2Proof.Machine.execTimeFrame k h t1 t2 t3 t4 s
  | .copyFrame k h r x => Sys2Proof.Machine.execCopyFrame k h r x s
  | .idleFrame k h => Sys2Proof.Machine.execIdleFrame k h s
  | .hello k h c b => Sys2Proof.Machine.execHello k h c b s
  | .join k h c drives => Sys2Proof.Machine.execJoin k h c drives s
  | .copydone k h c n => Sys2Proof.Machine.execCopydone k h c n s
  | .handover k h c groups idx => Sys2Proof.Machine.execHandover k h c groups idx s
  | .divcheck k h c frame sail period => Sys2Proof.Machine.execDivcheck k h c frame sail period s
  | .divresult k h c bits => Sys2Proof.Machine.execDivresult k h c bits s
  | .leave k h c groups => Sys2Proof.Machine.execLeave k h c groups s
  | .ackonly k h c => Sys2Proof.Machine.execAckonly k h c s
  | .intentcopy k h c intents => Sys2Proof.Machine.execIntentcopy k h c intents s
  | .controlRepeat => Sys2Proof.Machine.execControlRepeat s
  | .controlTimeout => Sys2Proof.Machine.execControlTimeout s
  | .divresultTimeout => Sys2Proof.Machine.execDivresultTimeout s
  | .timeFrameSend => Sys2Proof.Machine.execTimeFrameSend s
  | .heartbeatEmit => Sys2Proof.Machine.execHeartbeatEmit s
  | .heartbeatMissed => Sys2Proof.Machine.execHeartbeatMissed s
  | .mirrorStateCapture w slot => Sys2Proof.Machine.execMirrorStateCapture w slot s
  | .mirrorStateApply w slot => Sys2Proof.Machine.execMirrorStateApply w slot s
  | .ringIntentFrame k h j => Sys2Proof.Machine.execRingIntentFrame k h j s
  | .ringPublishFrame k h ptime pseq vals fails => Sys2Proof.Machine.execRingPublishFrame k h ptime pseq vals fails s
  | .ringTimeFrame k h t1 t2 t3 t4 => Sys2Proof.Machine.execRingTimeFrame k h t1 t2 t3 t4 s
  | .ringMemberFrame k h capsId tkok up2 up3 tkeeper tkhops mseq present => Sys2Proof.Machine.execRingMemberFrame k h capsId tkok up2 up3 tkeeper tkhops mseq present s
  | .ringIdleFrame k h => Sys2Proof.Machine.execRingIdleFrame k h s
  | .publishEmit => Sys2Proof.Machine.execPublishEmit s
  | .publicationLost j => Sys2Proof.Machine.execPublicationLost j s
  | .memberFrameSend => Sys2Proof.Machine.execMemberFrameSend s
  | .memberPresenceExpiry j => Sys2Proof.Machine.execMemberPresenceExpiry j s
  | .ringTimeFrameSend => Sys2Proof.Machine.execRingTimeFrameSend s
  | .ping h slot => Sys2Proof.Machine.execPing h slot s
  | .queryCaps h slot => Sys2Proof.Machine.execQueryCaps h slot s
  | .loadImage h slot => Sys2Proof.Machine.execLoadImage h slot s
  | .loadMicrocode h slot => Sys2Proof.Machine.execLoadMicrocode h slot s
  | .verify h slot => Sys2Proof.Machine.execVerify h slot s
  | .loopDefine h slot => Sys2Proof.Machine.execLoopDefine h slot s
  | .loopStart h slot => Sys2Proof.Machine.execLoopStart h slot s
  | .loopStop h slot => Sys2Proof.Machine.execLoopStop h slot s
  | .loopParamSet h slot => Sys2Proof.Machine.execLoopParamSet h slot s
  | .loopParamGet h slot => Sys2Proof.Machine.execLoopParamGet h slot s
  | .loopMigrate h slot => Sys2Proof.Machine.execLoopMigrate h slot s
  | .twinJoin h slot => Sys2Proof.Machine.execTwinJoin h slot s
  | .twinLeave h slot => Sys2Proof.Machine.execTwinLeave h slot s
  | .twinStatus h slot => Sys2Proof.Machine.execTwinStatus h slot s
  | .ringJoin h slot => Sys2Proof.Machine.execRingJoin h slot s
  | .intentPost h slot => Sys2Proof.Machine.execIntentPost h slot s
  | .selftest h slot r => Sys2Proof.Machine.execSelftest h slot r s
  | .calibrateWeir h slot => Sys2Proof.Machine.execCalibrateWeir h slot s
  | .weirDacSettled w => Sys2Proof.Machine.execWeirDacSettled w s
  | .readbackRetry => Sys2Proof.Machine.execReadbackRetry s
  | .resetMill h slot => Sys2Proof.Machine.execResetMill h slot s
  | .resetWheel h slot => Sys2Proof.Machine.execResetWheel h slot s
  | .logRead h slot => Sys2Proof.Machine.execLogRead h slot s
  | .sensorRead h slot => Sys2Proof.Machine.execSensorRead h slot s
  | .abort h slot => Sys2Proof.Machine.execAbort h slot s
  | .hopperDoorbell h slot => Sys2Proof.Machine.execHopperDoorbell h slot s
  | .hopperRelease h slot => Sys2Proof.Machine.execHopperRelease h slot s
  | .hopperSlotCleared h slot => Sys2Proof.Machine.execHopperSlotCleared h slot s
  | .hopperPacketStart h => Sys2Proof.Machine.execHopperPacketStart h s
  | .hopperCommandTimeout h slot => Sys2Proof.Machine.execHopperCommandTimeout h slot s
  | .hopperFallback h => Sys2Proof.Machine.execHopperFallback h s
  | .feedbackCountEdge n aRise aLevel bRise bLevel interval => Sys2Proof.Machine.execFeedbackCountEdge n aRise aLevel bRise bLevel interval s
  | .feedbackIndexEdge n => Sys2Proof.Machine.execFeedbackIndexEdge n s
  | .feedbackStillTimeout n => Sys2Proof.Machine.execFeedbackStillTimeout n s
  | .fbcfgWrite n reg v be => Sys2Proof.Machine.execFbcfgWrite n reg v be s
  | .fbstCntclr n => Sys2Proof.Machine.execFbstCntclr n s
  | .emucfgWrite n v be => Sys2Proof.Machine.execEmucfgWrite n v be s
  | .emuOutputStep n => Sys2Proof.Machine.execEmuOutputStep n s
  | .weircfgWrite w v be => Sys2Proof.Machine.execWeircfgWrite w v be s
  | .weirClear w => Sys2Proof.Machine.execWeirClear w s
  | .weirstCntclr w => Sys2Proof.Machine.execWeirstCntclr w s
  | .weirLatchChange w level persists => Sys2Proof.Machine.execWeirLatchChange w level persists s
  | .setarm g => Sys2Proof.Machine.execSetarm g s
  | .disarm g => Sys2Proof.Machine.execDisarm g s
  | .rearm g => Sys2Proof.Machine.execRearm g s
  | .sluiceCntclr g => Sys2Proof.Machine.execSluiceCntclr g s
  | .sluiceTrip g => Sys2Proof.Machine.execSluiceTrip g s
  | .powerOnReset => Sys2Proof.Machine.execPowerOnReset s
  | .brownOut => Sys2Proof.Machine.execBrownOut s
  | .pinReset samples => Sys2Proof.Machine.execPinReset samples s
  | .wdcfgWrite v be => Sys2Proof.Machine.execWdcfgWrite v be s
  | .wdkick => Sys2Proof.Machine.execWdkick s
  | .watchdogPrewarning => Sys2Proof.Machine.execWatchdogPrewarning s
  | .watchdogTimeout => Sys2Proof.Machine.execWatchdogTimeout s
  | .rstreq v => Sys2Proof.Machine.execRstreq v s
  | .rstinstGo v => Sys2Proof.Machine.execRstinstGo v s
  | .stormclr => Sys2Proof.Machine.execStormclr s
  | .resetAssertion => Sys2Proof.Machine.execResetAssertion s
  | .wheelMillReset => Sys2Proof.Machine.execWheelMillReset s
  | .domainRelease d => Sys2Proof.Machine.execDomainRelease d s
  | .resetComplete => Sys2Proof.Machine.execResetComplete s
  | .fuseSenseDone => Sys2Proof.Machine.execFuseSenseDone s
  | .holdTimerExpiry => Sys2Proof.Machine.execHoldTimerExpiry s
  | .drvrel => Sys2Proof.Machine.execDrvrel s
  | .clockMonitorStable d mhz => Sys2Proof.Machine.execClockMonitorStable d mhz s
  | .clockMonitorFault d mhz => Sys2Proof.Machine.execClockMonitorFault d mhz s
  | .clkmonCntclr d => Sys2Proof.Machine.execClkmonCntclr d s
  | .pstoreOutcomeRecord m switched => Sys2Proof.Machine.execPstoreOutcomeRecord m switched s
  | .sensorSample cls idx v => Sys2Proof.Machine.execSensorSample cls idx v s
  | .logMirrorWrite => Sys2Proof.Machine.execLogMirrorWrite s
  | .logRebuild => Sys2Proof.Machine.execLogRebuild s
  | .millerAutoboot bytes => Sys2Proof.Machine.execMillerAutoboot bytes s
  | .spareReapply => Sys2Proof.Machine.execSpareReapply s
  | .enterRetention => Sys2Proof.Machine.execEnterRetention s
  | .readMillRecords => Sys2Proof.Machine.execReadMillRecords s
  | .readBootRecord => Sys2Proof.Machine.execReadBootRecord s
  | .setBootRecord => Sys2Proof.Machine.execSetBootRecord s
  | .readBootDigest => Sys2Proof.Machine.execReadBootDigest s
  | .forgetSpareSubstitution => Sys2Proof.Machine.execForgetSpareSubstitution s
  | .readProgramRecords => Sys2Proof.Machine.execReadProgramRecords s
  | .supplyRemoval => Sys2Proof.Machine.execSupplyRemoval s
  | .haltreq w => Sys2Proof.Machine.execHaltreq w s
  | .debugHalt w => Sys2Proof.Machine.execDebugHalt w s
  | .dbgStep w => Sys2Proof.Machine.execDbgStep w s
  | .dbgResume w => Sys2Proof.Machine.execDbgResume w s
  | .memaccAccess w a => Sys2Proof.Machine.execMemaccAccess w a s
  | .testLogicReset => Sys2Proof.Machine.execTestLogicReset s
  | .resetSourceDeassert src => Sys2Proof.Machine.execResetSourceDeassert src s
  | .frameSlotFill k => Sys2Proof.Machine.execFrameSlotFill k s
  | .drainBoundExpiry w h slot => Sys2Proof.Machine.execDrainBoundExpiry w h slot s
  | .twinJoinStepTimeout => Sys2Proof.Machine.execTwinJoinStepTimeout s
  | .ringJoinTimeout => Sys2Proof.Machine.execRingJoinTimeout s
  | .bootRecordAttemptTimeout => Sys2Proof.Machine.execBootRecordAttemptTimeout s
  | .mailboxUndefinedOp op => Sys2Proof.Machine.execMailboxUndefinedOp op s
  | .lossOfVps => Sys2Proof.Machine.execLossOfVps s
  | .supplyRestore => Sys2Proof.Machine.execSupplyRestore s

end Sys2Proof.Machine
end

