-- ==== Sys2Proof/Machine/Tick.lean ====
section
/-! DEFINITION. What passes of time: one nanosecond of the ring-time clock and of the always-on clock, a word of a bank copy,
and the Miller's entries for uncorrectable words (log 5, 95, 96). -/

namespace Sys2Proof.Machine

/-- One edge of the always-on clock: AOTIME, and the watchdog's count while EN is 1 (R477, R493). -/
def aoEdge (r : ResetSt) : ResetSt :=
  { r with aotime := r.aotime + 1, wdCnt := if r.wdEn then r.wdCnt + 1 else r.wdCnt }

/-- A quarter of a nanosecond is 1/125 of a cycle of AOCLK at 32 MHz (R77). -/
def aoTick (r : ResetSt) : ResetSt :=
  if r.aoAcc + 4 ≥ 125 then aoEdge { r with aoAcc := r.aoAcc + 4 - 125 } else { r with aoAcc := r.aoAcc + 4 }

/-- Ring time counts a nanosecond, and what the steering's rate adds in whole units of 2^-16 ns (R394, R396; log 98). -/
def ringTick (s : State) : State :=
  let a := s.ring.rate + s.ring.rateLow
  let s1 := { s with ring_time := ofStamp (stampInt s.ring_time + 65536 + a / 65536) }
  if s.ring.rate = 0 then { s with ring_time := ⟨s.ring_time.ns + 1, s.ring_time.frac⟩ }
  else modRing s1 fun r => { r with rateLow := (a % 65536).toNat }

/-- The Miller enters the uncorrectable words found since (R330, R509 type 04h; log 96). -/
def ueTick (s : State) : State := if millerLive s then s.mem.ueLog.foldl ueEntry s else s

/-- A nanosecond: the always-on domain counts unless the supplies are removed, and ring time counts through L0, L1 and L2
(R394, R493); the copier and the Miller go on. -/
def tick (s : State) : State :=
  let s := if s.rst.off then s else modRst s aoTick
  let s := if unitsLive s then ringTick s else s
  ueTick (copyTick s)

end Sys2Proof.Machine
end

