-- ==== Sys2Proof/Machine/Step.lean ====
section
/-! DEFINITION. One step of the block: the front command, or a nanosecond of time when none waits. -/

namespace Sys2Proof.Machine

/-- One step: the front command of the queue acts on the state that holds the queue's rest; an empty queue is
one nanosecond of the complex's clocks (log 5). -/
def step (s : State) : Host.Outcome State Fault Refusal :=
  match s.pending with
  | [] => .next (tick s)
  | c :: rest => exec c { s with pending := rest }

/-- The host's question about a table word: the command it spells, put at the front of the queue; the
table gives no row any bits, so that no word spells one. -/
def State.withFetchWord (s : State) (nbits w : Nat) : State :=
  match decodeTableWord nbits w with
  | none => s
  | some c => { s with pending := c :: s.pending }

end Sys2Proof.Machine
end

