-- ==== Sys2Proof/Safety.lean ====
section
/-! DEFINITION. The terms of the claims: when an instruction of a wheel begins, what a retired instruction leaves of the
stack and of the rest, and what counts as a safe state. -/

namespace Sys2Proof.Machine

/-! ### Wheel instructions -/

/-- The state on which the effect of the wheel's next instruction acts, where the words of that instruction are
`op :: ext`, the wheel can issue it, and neither its place (R176, R223) nor its fetch (R241, R331) raises an exception. -/
def begun (s : State) (w op : Nat) (ext : List Nat) : Option State :=
  let s1 := settle s w
  if canIssue s1 w && offered s1 w (op :: ext) then
    match placeChk (getWheel s1 w) op (ext.length + 1) with
    | some _ => none
    | none =>
      match fetchWords s1 w op (ext.length + 1) with
      | .error _ => none
      | .ok s2 => some (beginAt s2 w op (op :: ext))
  else none

/-- Of the whole complex, only wheel `w` differs. -/
def OnlyWheel (b t : State) (w : Nat) : Prop := t = setWheel b w (getWheel t w)

/-- What retiring an instruction of `len` words moves besides its own effect (R178, R224, R244, R538). -/
def RetiredAs (x y : Wheel) (len : Nat) : Prop :=
  y.pc = codeAdd x.pc len ∧ y.pend = countDown x.pend ∧ y.halted = (x.halted || x.stepReq) ∧ y.stepReq = false ∧
  y.fresh = false

/-- Wheel `y` is wheel `x` but for the program counter, the operand stack and what a retirement moves. -/
def StackFrame (x y : Wheel) : Prop :=
  y = { x with pc := y.pc, sd := y.sd, gsd := y.gsd, regs := y.regs, gregs := y.gregs, pend := y.pend,
               iterEnd := y.iterEnd, halted := y.halted, stepReq := y.stepReq, fresh := y.fresh }

/-- An instruction of `len` words has popped `k` operands, pushed `vs` in order, and retired; every other window entry,
every other field of the wheel and everything else of the complex is as before. -/
def Pushed (b t : State) (w k len : Nat) (vs : List TWord) : Prop :=
  OnlyWheel b t w ∧ RetiredAs (getWheel b w) (getWheel t w) len ∧ StackFrame (getWheel b w) (getWheel t w) ∧
  depth (getWheel t w) = depth (getWheel b w) - k + vs.length ∧
  (∀ j, j < depth (getWheel b w) - k → winRd (getWheel t w) (32 + j) = winRd (getWheel b w) (32 + j)) ∧
  (∀ j, j < vs.length → winRd (getWheel t w) (32 + (depth (getWheel b w) - k) + j) = nth emptyW vs j) ∧
  ∀ i, i < 32 → winRd (getWheel t w) i = winRd (getWheel b w) i

/-- The state after wheel `w` has read the words at `c` ahead (R230): a visit of pinned words moves their marks alone (R329). -/
def landing (b : State) (w : Nat) (c : W32) : State := (readAhead b w c).1

/-- An instruction has popped `k` operands and transferred to `c` (R177, R244): no window entry changes, and of the rest
of the wheel only the fetch state, a block-repeat whose body `c` leaves, and what a retirement moves. -/
def Jumped (b t : State) (w k : Nat) (c : W32) : Prop :=
  OnlyWheel (landing b w c) t w ∧ (getWheel t w).pc = c ∧ (getWheel t w).pend = countDown (getWheel b w).pend ∧
  (getWheel t w).halted = ((getWheel b w).halted || (getWheel b w).stepReq) ∧ (getWheel t w).stepReq = false ∧
  depth (getWheel t w) = depth (getWheel b w) - k ∧ (∀ i, i < 64 → winRd (getWheel t w) i = winRd (getWheel b w) i) ∧
  getWheel t w = { getWheel (landing b w c) w with
    pc := (getWheel t w).pc, sd := (getWheel t w).sd, gsd := (getWheel t w).gsd, pend := (getWheel t w).pend,
    halted := (getWheel t w).halted, stepReq := (getWheel t w).stepReq, fresh := (getWheel t w).fresh,
    rpt := (getWheel t w).rpt, iterEnd := (getWheel t w).iterEnd, fetch := (getWheel t w).fetch }

/-- The wheel has room: `k` operands are there, and the stack holds at most 32 after `n` more (R149, R150). -/
def Room (b : State) (w k n : Nat) : Prop := k ≤ depth (getWheel b w) ∧ depth (getWheel b w) - k + n ≤ 32

/-- The next instruction's retirement, with flow `fl`, after its effect `f` on the wheel. -/
def retired (b : State) (w len : Nat) (fl : Flow) (f : Wheel → Wheel) : State :=
  arrive (modWheel (modWheel b w f) w fun x => retireWheel x (getWheel b w).pc len fl) w fl

/-- The operand `n` below TOS. -/
def top (b : State) (w n : Nat) : TWord := stkRd (getWheel b w) n

/-- None of the `k` topmost operands carries a reserved tag, which no instruction consumes (R142). -/
def Clean (b : State) (w k : Nat) : Prop := ∀ v ∈ tops (getWheel b w) k, isRsv v.tag = false

/-- Where the stack has room, command `c` of wheel `w` answers a next state in which its instruction of `len` words has
popped `k` operands and pushed `vs`. -/
def Pushes (c : Instr) (s b : State) (w k len : Nat) (vs : List TWord) : Prop :=
  Room b w k vs.length → ∃ t, exec c s = .next t ∧ Pushed b t w k len vs

/-- Command `c` of wheel `w` answers a next state in which the wheel holds exception `e`, to be taken by its entry; a
single step ends (R538), and nothing else changes (R178). -/
def Raises (c : Instr) (s b : State) (w : Nat) (e : Exc) : Prop :=
  exec c s = .next (setWheel b w { getWheel b w with
    fault := some e, halted := (getWheel b w).halted || (getWheel b w).stepReq, stepReq := false })

/-- A control transfer of wheel `w` may go to `c` (R158). -/
def Target (b : State) (w : Nat) (c : W32) : Prop :=
  cMill c = millOf w ∧ cRegion c ≠ 3 ∧ c.toNat < 0x1000000 ∧ (cRegion c ≠ 0 → cOff c ≤ 0xFFF) ∧
  (cRegion c = 2 → (getWheel b w).mode.guard = true)

/-- `c` lies `o` words into the region and mill of the wheel's program counter (R158, R177). -/
def Inside (b : State) (w : Nat) (o : Int) (c : W32) : Prop :=
  0 ≤ o ∧ o ≤ (regionEnd (cRegion (getWheel b w).pc) : Int) ∧ (cOff c : Int) = o ∧
  cRegion c = cRegion (getWheel b w).pc ∧ cMill c = cMill (getWheel b w).pc ∧ c.toNat < 0x1000000

/-- A CALL of `len` words has popped `k` operands, pushed the RET word of R159 onto the return stack and the current world's
shadow stack, and gone to `c`. -/
def Called (b t : State) (w k len : Nat) (c : W32) : Prop :=
  ∃ r : W32, rtAddr r = (codeAdd (getWheel b w).pc len).toNat % 0x1000000 ∧ rtDelta r = 0 ∧ rtEnt r = false ∧
    rtWorld r = (getWheel b w).mode.world ∧
    OnlyWheel (landing b w c) t w ∧ (getWheel t w).pc = c ∧ (getWheel t w).rstack = r :: (getWheel b w).rstack ∧
    shDepth (getWheel t w) = shDepth (getWheel b w) + 1 ∧
    spadRead t w (shBase (getWheel b w) + shDepth (getWheel b w)) = some ⟨.ret, r⟩ ∧
    (∀ a, a ≠ shBase (getWheel b w) + shDepth (getWheel b w) → spadRead t w a = spadRead b w a) ∧
    depth (getWheel t w) = depth (getWheel b w) - k ∧ (∀ i, i < 64 → winRd (getWheel t w) i = winRd (getWheel b w) i) ∧
    getWheel t w = { getWheel (landing b w c) w with
      pc := (getWheel t w).pc, sd := (getWheel t w).sd, gsd := (getWheel t w).gsd, pend := countDown (getWheel b w).pend,
      halted := (getWheel b w).halted || (getWheel b w).stepReq, stepReq := false, fresh := false,
      rpt := (getWheel t w).rpt, iterEnd := (getWheel t w).iterEnd, fetch := (getWheel t w).fetch,
      rstack := (getWheel t w).rstack, csd := (getWheel t w).csd, ssd := (getWheel t w).ssd,
      spad := (getWheel t w).spad }

/-- An exact value saturated to 32 bits, and whether it saturates (R143, R183). -/
def clip (v : Int) : Int := max (-0x80000000) (min 0x7FFFFFFF v)
def beyond (v : Int) : Bool := decide (v < -0x80000000 ∨ 0x7FFFFFFF < v)

/-- A Q-family word of an exact value: saturated, with the S mark if `m` holds or it saturates (R143). -/
def qWord (f : Fam) (m : Bool) (v : Int) : TWord := ⟨famTag f (m || beyond v), BitVec.ofInt 32 (clip v)⟩

/-- `v / 2 ^ k` to the nearest integer, ties toward +∞ (R184). -/
def nearest (v : Int) (k : Nat) : Int := (v + 2 ^ (k - 1)) / 2 ^ k

/-- Word `i` of the wheel's current frame, as a reader sees it. -/
def frameWord (b : State) (w i : Nat) : Option TWord := spadRead b w (frameAddr (getWheel b w).frm i)

/-- The state after the wheel has read the words `l` of its current frame (R329). -/
def noted (b : State) (w : WheelId) (l : List Nat) : State :=
  l.foldl (fun s i => noteRead s (.spad w) (frameAddr (getWheel b w).frm i)) b

/-- The state after the wheel has also written words of its current frame. -/
def written (b : State) (w : WheelId) (l : List Nat) (vs : List (Nat × TWord)) : State :=
  vs.foldl (fun s p => setFw s w (getWheel b w).frm p.1 p.2) (noted b w l)

/-- What R145, R178, R193, R265 and R331 give a ROM primitive of one wheel before its law: `n` operands, the frame words `ws`
and the tag condition `ok` on the operands, TOS first, and the words. Too few operands raise exception 9; an operand tagged Ch,
Dh or EMPTY exception 3; a frame word that cannot be corrected exception 15, one so tagged exception 3; a POISON among operands
and words gives POISON, the operand nearest TOS first and then the words in order; tags that are not `ok` exception 3. -/
def PrimChecks (c : Instr) (s b : State) (w : WheelId) (op n : Nat) (ws : List Nat)
    (ok : List TWord → List TWord → Bool) : Prop :=
  let bad (v : TWord) : Bool := isRsv v.tag || v.tag == .empty
  let l := tops (getWheel b w) n
  (depth (getWheel b w) < n → Raises c s b w (exc 9 (intW 0) op)) ∧
  (Room b w n 1 →
    (l.any bad = true → ∃ inf, Raises c s b w (exc 3 inf op)) ∧
    (l.any bad = false →
      (∀ k, k < ws.length → (∀ i, i < k → ∃ v, frameWord b w (nth 0 ws i) = some v ∧ bad v = false) →
        (frameWord b w (nth 0 ws k) = none →
          Raises c s (noted b w (ws.take (k + 1))) w (exc 15 (intW (frameAddr (getWheel b w).frm (nth 0 ws k))) op)) ∧
        (∀ v, frameWord b w (nth 0 ws k) = some v → bad v = true →
          ∃ inf, Raises c s (noted b w (ws.take (k + 1))) w (exc 3 inf op))) ∧
      ∀ f : List TWord, ws.map (frameWord b w) = f.map some → f.any bad = false →
        (∀ p, (l ++ f).find? (fun v => v.tag == .poison) = some p →
          ∃ t, exec c s = .next t ∧ Pushed (noted b w ws) t w n 1 [⟨.poison, p.val⟩]) ∧
        ((l ++ f).find? (fun v => v.tag == .poison) = none → ok l f = false →
          ∃ inf, Raises c s (noted b w ws) w (exc 3 inf op))))

/-- The descriptor that an ADDR word selects on a wheel. -/
def descOf (b : State) (w : Nat) (a : TWord) : W64 := segOf b (getWheel b w) (aSel a.val)

/-- An access of `n` words at `a` passes checks 1 to 5 and 7 of R167. -/
def Permits (b : State) (w : Nat) (a : TWord) (n : Nat) (store : Bool) : Prop :=
  a.tag = .addr ∧ sgNull (descOf b w a) = false ∧ aOff a.val + n ≤ sgLimit (descOf b w a) + 1 ∧
  (sgUser (descOf b w a) = true ∨ (getWheel b w).mode.level = true) ∧
  (if store then sgWr (descOf b w a) else sgRd (descOf b w a)) = true ∧
  (n = 2 → (sgBase (descOf b w a) + aOff a.val) % 2 = 0)

/-- The ADDR word `a` names `n` words of the wheel's scratchpad from word `i` on, which a block instruction may read, or
write where `store` holds (R204). -/
def LocalRun (b : State) (w : Nat) (a : TWord) (n : Nat) (store : Bool) (i : Nat) : Prop :=
  a.tag = .addr ∧ sgSpace (descOf b w a) = 1 ∧ i = sgBase (descOf b w a) + aOff a.val ∧ i + n ≤ 0x8000 ∧
  aOff a.val + n ≤ sgLimit (descOf b w a) + 1 ∧
  (sgUser (descOf b w a) = true ∨ (getWheel b w).mode.level = true) ∧
  (if store then sgWr (descOf b w a) else sgRd (descOf b w a)) = true

/-- A block instruction of wheel `w` has popped its three operands, pushed `vs` and retired. -/
def BlockDone (b t : State) (w : Nat) (vs : List TWord) : Prop :=
  (getWheel t w).pc = codeAdd (getWheel b w).pc 1 ∧ depth (getWheel t w) = depth (getWheel b w) - 3 + vs.length ∧
  (∀ j, j < vs.length → winRd (getWheel t w) (32 + (depth (getWheel b w) - 3) + j) = nth emptyW vs j) ∧
  (∀ i, i < 32 + (depth (getWheel b w) - 3) → winRd (getWheel t w) i = winRd (getWheel b w) i) ∧
  blkActive (getWheel t w) = false ∧ t.mp = b.mp ∧ t.spareRam = b.spareRam ∧ t.sails = b.sails ∧
  ∀ u a, u ≠ w → spadRead t u a = spadRead b u a

/-- An instruction of wheel `w` has issued and waits for a memory: nothing is popped, and the program counter stays. -/
def Waits (b t : State) (w : Nat) (st : Stall) : Prop :=
  ∃ op, OnlyWheel b t w ∧ getWheel t w = { getWheel b w with
    stall := st, stallOp := op, halted := (getWheel b w).halted || (getWheel b w).stepReq, stepReq := false, fresh := false }

/-- The compare-and-branch instructions: the command, its words, its KIND and its offset (R188, R191). -/
def branches (w : WheelId) (o : BitVec 8) (k : BitVec 3) (l : BitVec 18) : List (Instr × Nat × List Nat × Nat × Int) :=
  [(.beq w o, 0x800 + o.toNat, [], 0, o.toInt), (.bne w o, 0x900 + o.toNat, [], 1, o.toInt),
   (.blt w o, 0xA00 + o.toNat, [], 2, o.toInt), (.bge w o, 0xB00 + o.toNat, [], 3, o.toInt),
   (.beqz w o, 0xC00 + o.toNat, [], 4, o.toInt), (.bnez w o, 0xD00 + o.toNat, [], 5, o.toInt),
   (.bltz w o, 0xE00 + o.toNat, [], 6, o.toInt), (.bgez w o, 0xF00 + o.toNat, [], 7, o.toInt),
   (.bccl w k l, 0x3200 + k.toNat * 16 + l.toNat / 0x4000, [l.toNat % 0x4000], k.toNat, l.toInt)]

/-- The instructions of one word whose effect is on the operand stack alone: the command, its opcode word, and how many
operands it reads, pops and pushes (R182 to R187). -/
def stackTable (w : WheelId) (i : BitVec 5) (c : BitVec 4) (v : BitVec 8) : List (Instr × Nat × Nat × Nat × Nat) :=
  [(.nop w, 0x01, 0, 0, 0), (.rtime w, 0x04, 0, 0, 1), (.getmode w, 0x06, 0, 0, 1), (.dup w, 0x10, 1, 1, 2),
   (.drop w, 0x11, 1, 1, 0), (.swap w, 0x12, 2, 2, 2), (.over w, 0x13, 2, 2, 3), (.rot w, 0x14, 3, 3, 3),
   (.pick w i, 0x300 + i.toNat, i.toNat + 1, 0, 1), (.pushi w v, 0x100 + v.toNat, 0, 0, 1),
   (.ldl w i, 0x200 + i.toNat, 0, 0, 1), (.stl w i, 0x220 + i.toNat, 1, 1, 0),
   (.add w, 0x20, 2, 2, 1), (.sub w, 0x21, 2, 2, 1), (.rsub w, 0x22, 2, 2, 1), (.neg w, 0x23, 1, 1, 1),
   (.absW w, 0x24, 1, 1, 1), (.minW w, 0x25, 2, 2, 1), (.maxW w, 0x26, 2, 2, 1), (.mul w, 0x30, 2, 2, 1),
   (.mulh w, 0x31, 2, 2, 1), (.div w, 0x32, 2, 2, 1), (.mod w, 0x33, 2, 2, 1), (.shl w, 0x40, 2, 2, 1),
   (.shr w, 0x41, 2, 2, 1), (.sar w, 0x42, 2, 2, 1), (.andW w, 0x48, 2, 2, 1), (.orW w, 0x49, 2, 2, 1),
   (.xorW w, 0x4A, 2, 2, 1), (.notW w, 0x4B, 1, 1, 1), (.cvt w c, 0x50 + c.toNat, 1, 1, 1), (.clrs w, 0x5F, 1, 1, 1)]

/-- The computing instructions of R145 among them: the command, its opcode word and its operand count. -/
def computing (w : WheelId) (c : BitVec 4) : List (Instr × Nat × Nat) :=
  [(.add w, 0x20, 2), (.sub w, 0x21, 2), (.rsub w, 0x22, 2), (.neg w, 0x23, 1), (.absW w, 0x24, 1), (.minW w, 0x25, 2),
   (.maxW w, 0x26, 2), (.mul w, 0x30, 2), (.mulh w, 0x31, 2), (.div w, 0x32, 2), (.mod w, 0x33, 2), (.shl w, 0x40, 2),
   (.shr w, 0x41, 2), (.sar w, 0x42, 2), (.andW w, 0x48, 2), (.orW w, 0x49, 2), (.xorW w, 0x4A, 2), (.notW w, 0x4B, 1),
   (.cvt w c, 0x50 + c.toNat, 1), (.clrs w, 0x5F, 1)]

/-! ### Hopper commands -/

/-- The packet of a slot has completed (R416, R421, R425): its reply holds the opcode, tag, status, DETAIL, ring time,
results and clamps; HOPDONE, DONECNT and LASTTAG follow; the packet holds nothing, and every other slot is as before. -/
def Answered (s t : State) (h : HopId) (n status detail : Nat) (results : List W64) (clamps : List Clamp) : Prop :=
  (getSlot t h n).st = .done ∧ (getSlot t h n).holds = [] ∧ (getSlot t h n).cells = (getSlot s h n).cells ∧
  (∃ r, (getSlot t h n).reply = some r ∧ r.opcode.toNat = pktOp s h n ∧ r.tag = pktTag s h n ∧ r.status = status ∧
    r.detail = detail ∧ r.donetime = s.ring_time.ns ∧ r.results = results ∧ r.clamps = clamps) ∧
  (getHop t h).donecnt = ((getHop s h).donecnt + 1) % 0x100000000 ∧ (getHop t h).lasttag = pktTag s h n ∧
  (getHop t h).queue = (getHop s h).queue.filter (· != n) ∧ ∀ m, m ≠ n → getSlot t h m = getSlot s h m

/-! ### The twin pair -/

/-- A CONTROL message that has not been acted on, newer than the newest one or fewer than 64 numbers older, under header `h`
on lane `k` reaches a complex of a joined pair that has no message due. -/
def Heard (s : State) (k : Bool) (h : RaceHdr) (c : CtlHdr) : Prop :=
  running s = true ∧ hasLane s (raceLane k) = true ∧ laneUp s (raceLane k) = true ∧ h.good = true ∧
  s.twin.peerLost = false ∧ s.twin.joinAt = none ∧ s.twin.leaveAt = none ∧ mirroring s = true ∧ s.twin.due = [] ∧
  s.twin.copyDue = none ∧ c.cseq ∉ s.twin.rxDone ∧
  ∀ p, s.twin.rxCseq = some p → newer16 c.cseq p = true ∨ (p - c.cseq).toNat < 64

/-- The message has been taken, the newest CSEQ with it, and acknowledged: by an ACKONLY that is due (R360). -/
def Acked (s t : State) (c : CtlHdr) : Prop :=
  t.twin.rxDone = (c.cseq :: s.twin.rxDone).take 64 ∧ t.twin.ackNext = c.cseq ∧
  (s.twin.rxCseq = none → t.twin.rxCseq = some c.cseq) ∧
  (∀ p, s.twin.rxCseq = some p → t.twin.rxCseq = some (if newer16 c.cseq p then c.cseq else p)) ∧
  ∃ n l, t.twin.due = (n, .ackonly) :: l

/-! ### Debug access -/

/-- A debug access by the row of wheel `w` captures `v` and opens an insertion bit; nothing else changes (R537). -/
def Shows (s : State) (w : WheelId) (a : MemAcc) (v : W64) : Prop :=
  ∃ t, exec (.memaccAccess w a) s = .next t ∧ t = { s with sibs := t.sibs, dbgData := some (.reg v) }

/-! ### Safe states -/

/-- No wheel is locked up (R314) or holds a fault that waits for its entry. -/
def Quiet (s : State) : Prop := ∀ w, w < 64 → (getWheel s w).lockup = false ∧ (getWheel s w).fault = none

/-- Every memory of the complex is in canonical form: equal contents are equal data. -/
def MemWf (s : State) : Prop :=
  tabWf emptyW s.mp.cells = true ∧ tabWf emptyW s.spareRam.cells = true ∧ tabWf emptyW s.retained.cells = true ∧
  ∀ w, tabWf emptyW (getWheel s w).spad.cells = true ∧ tabWf 0 (getWheel s w).pinned.cells = true

end Sys2Proof.Machine
end

