-- ==== Sys2Proof/WellFormed.lean ====
section
/-! DEFINITION. Which commands some sender can present: the widths are in the types, and what is left is the
number of parts of a request or a message, and the two spellings of one opcode word. -/

namespace Sys2Proof

/-- A command that a sender can present. -/
def WellFormed (i : Instr) : Bool :=
  match i with
  | .cvt _ c => c != 15
  | .undefinedOpcode _ x => opLen x.toNat == none
  | .hostPortWrite _ q => decide (1 ≤ q.beats.length ∧ q.beats.length ≤ 8)
  | .dutyFrame _ _ recs => decide (recs.length ≤ 30)
  | .intentcopy _ _ _ l => decide (1 ≤ l.length ∧ l.length ≤ 7)
  | .stateFrame _ _ r0 r1 => r0.words.length == 22 && r1.words.length == 22
  | .copyFrame _ _ r x => r.words.length == 22 && x.ff.length == 4 && x.keys.length == 4
  | .hello _ _ _ b => b.microcode.length == 16
  | .handover _ _ _ _ idx => idx.length == 8
  | .ringPublishFrame _ _ _ _ vals _ => vals.length == 4
  | .laneBlockReceive _ _ _ words => words.length == 84
  | _ => true

end Sys2Proof
end

