-- ==== Sys2Proof/Certificates/Slice0/Obligations.lean ====
section
/-! DEFINITION. The statements of this model: what the commands of each family do, command by command, and what every
step of the complex keeps. The rules that a statement follows stand in its docstring. -/

set_option maxRecDepth 4000

open Sys2Proof Sys2Proof.Machine

/-- R182: the moves of the operand stack. Each pops the operands of its stack effect and pushes what it names, tags
unchanged; a reserved tag is not moved (R142). R148, R182, R90: the moves between the stack, the locals and the
current frame. A frame word outside 12 to 31 and 60 to 63 takes no store: exception 5. -/
def Obligations.StackMoves : Prop :=
  (∀ (s b : State) (w : WheelId),
    (begun s w 0x01 [] = some b → Pushes (.nop w) s b w 0 1 []) ∧
    (begun s w 0x10 [] = some b → Clean b w 1 → Pushes (.dup w) s b w 1 1 [top b w 0, top b w 0]) ∧
    (begun s w 0x11 [] = some b → Clean b w 1 → Pushes (.drop w) s b w 1 1 []) ∧
    (begun s w 0x12 [] = some b → Clean b w 2 → Pushes (.swap w) s b w 2 1 [top b w 0, top b w 1]) ∧
    (begun s w 0x13 [] = some b → Clean b w 2 → Pushes (.over w) s b w 2 1 [top b w 1, top b w 0, top b w 1]) ∧
    (begun s w 0x14 [] = some b → Clean b w 3 → Pushes (.rot w) s b w 3 1 [top b w 1, top b w 0, top b w 2]) ∧
    ∀ n : BitVec 5, begun s w (0x300 + n.toNat) [] = some b → n.toNat < depth (getWheel b w) →
      isRsv (top b w n.toNat).tag = false → Pushes (.pick w n) s b w 0 1 [top b w n.toNat]) ∧
  (∀ (s b : State) (w : WheelId),
    (∀ i : BitVec 5, begun s w (0x200 + i.toNat) [] = some b → isRsv (winRd (getWheel b w) i.toNat).tag = false →
      Pushes (.ldl w i) s b w 0 1 [winRd (getWheel b w) i.toNat]) ∧
    (∀ i : BitVec 5, begun s w (0x220 + i.toNat) [] = some b → Room b w 1 0 → Clean b w 1 →
      ∃ t, exec (.stl w i) s = .next t ∧ OnlyWheel b t w ∧ RetiredAs (getWheel b w) (getWheel t w) 1 ∧
        StackFrame (getWheel b w) (getWheel t w) ∧ depth (getWheel t w) = depth (getWheel b w) - 1 ∧
        ∀ j, j < 64 → winRd (getWheel t w) j = if j = i.toNat then top b w 0 else winRd (getWheel b w) j) ∧
    (∀ (i : BitVec 6) (v : TWord), begun s w (0x240 + i.toNat) [] = some b →
      spadRead b w (frameAddr (getWheel b w).frm i.toNat) = some v → isRsv v.tag = false → Room b w 0 1 →
      ∃ t, exec (.ldf w i) s = .next t ∧
        Pushed (noteRead b (.spad w) (frameAddr (getWheel b w).frm i.toNat)) t w 0 1 [v]) ∧
    (∀ i : BitVec 6, begun s w (0x280 + i.toNat) [] = some b → Room b w 1 0 → Clean b w 1 →
      (12 ≤ i.toNat ∧ i.toNat ≤ 31 ∨ 60 ≤ i.toNat →
        ∃ t, exec (.stf w i) s = .next t ∧
          Pushed (spadWrite b w (frameAddr (getWheel b w).frm i.toNat) (top b w 0)) t w 1 1 [] ∧
          ∀ u a, spadRead t u a =
            if u = w ∧ a = frameAddr (getWheel b w).frm i.toNat then some (top b w 0) else spadRead b u a) ∧
      (i.toNat < 12 ∨ 31 < i.toNat ∧ i.toNat < 60 →
        ∃ inf, Raises (.stf w i) s b w (exc 5 inf (0x280 + i.toNat)))))

/-- R182, R142, R172: the literals, RTIME and GETMODE; a TAG that R181 reserves raises exception 2. -/
def Obligations.Literals : Prop :=
  ∀ (s b : State) (w : WheelId),
    (∀ v : BitVec 8, begun s w (0x100 + v.toNat) [] = some b →
      Pushes (.pushi w v) s b w 0 1 [⟨.int, v.signExtend 32⟩]) ∧
    (∀ (t : BitVec 4) (e : BitVec 14), begun s w (0x3100 + t.toNat) [e.toNat] = some b →
      (tagOf t.toNat = .int ∨ tagOf t.toNat = .time →
        Pushes (.lits w t e) s b w 0 2 [⟨tagOf t.toNat, e.signExtend 32⟩]) ∧
      (tagOf t.toNat = .q31 → Pushes (.lits w t e) s b w 0 2 [⟨.q31, e.signExtend 32 * 0x40000⟩]) ∧
      (tagOf t.toNat = .q16 → Pushes (.lits w t e) s b w 0 2 [⟨.q16, e.signExtend 32 * 0x10000⟩]) ∧
      (tagOf t.toNat ∉ [.int, .q31, .q16, .time] → Raises (.lits w t e) s b w (exc 2 (intW 0) (0x3100 + t.toNat)))) ∧
    (∀ (t : BitVec 4) (v : W32),
      begun s w (0x3000 + t.toNat * 16 + v.toNat / 0x10000000) [v.toNat / 0x4000 % 0x4000, v.toNat % 0x4000] = some b →
      (tagOf t.toNat ∈ [.int, .q31, .q16, .f32, .code, .time] →
        Pushes (.litt w t v) s b w 0 3 [⟨tagOf t.toNat, v⟩]) ∧
      (tagOf t.toNat ∉ [.int, .q31, .q16, .f32, .code, .time] →
        Raises (.litt w t v) s b w (exc 2 (intW 0) (0x3000 + t.toNat * 16 + v.toNat / 0x10000000)))) ∧
    (begun s w 0x04 [] = some b →
      ((getWheel b w).run = none → Pushes (.rtime w) s b w 0 1 [⟨.time, 0⟩]) ∧
      ∀ r, (getWheel b w).run = some r → ∀ u : Int,
        u = ((s.ring_time.ns.toNat * 65536 + s.ring_time.frac.toNat : Int) -
          (r.wakeAt.ns.toNat * 65536 + r.wakeAt.frac.toNat : Int)) / 4096 →
        Pushes (.rtime w) s b w 0 1 [⟨.time, BitVec.ofInt 32 (clip u)⟩]) ∧
    (begun s w 0x06 [] = some b → ((getWheel b w).pend = [] ∨ ∃ c l, (getWheel b w).pend = c :: l ∧ 0 < c.cnt) →
      ∃ v, (bitOf v 0, bitOf v 1, bitOf v 2, bitOf v 3, bitOf v 4, bitOf v 5) =
          ((getWheel b w).mode.world, (getWheel b w).mode.level, (getWheel b w).mode.tchk, (getWheel b w).mode.compat,
           (getWheel b w).mode.guard, !(getWheel b w).pend.isEmpty) ∧
        fld v 6 2 = (((getWheel b w).pend.head?.map fun c => c.cnt % 4).getD 0) ∧ v.toNat < 256 ∧ Pushes (.getmode w) s b w 0 1 [⟨.int, v⟩])

/-- R145: an operand tagged Ch, Dh or EMPTY raises exception 3; otherwise a POISON operand makes the result POISON, with
the value of the one nearest TOS, and nothing else changes. R149: a push at 32 entries raises exception 8, too few
operands raise exception 9, and the wheel changes nothing. -/
def Obligations.OperandChecks : Prop :=
  (∀ (s b : State) (w : WheelId) (c : BitVec 4),
    ∀ p ∈ computing w c, begun s w p.2.1 [] = some b → Room b w p.2.2 1 →
      ((∃ j, j < p.2.2 ∧ ((top b w j).tag = .rsvC ∨ (top b w j).tag = .rsvD ∨ (top b w j).tag = .empty)) →
        ∃ inf, Raises p.1 s b w (exc 3 inf p.2.1)) ∧
      ((∀ j, j < p.2.2 → (top b w j).tag ≠ .rsvC ∧ (top b w j).tag ≠ .rsvD ∧ (top b w j).tag ≠ .empty) →
        ∀ j, j < p.2.2 → (top b w j).tag = .poison → (∀ i, i < j → (top b w i).tag ≠ .poison) →
          Pushes p.1 s b w p.2.2 1 [⟨.poison, (top b w j).val⟩])) ∧
  (∀ (s b : State) (w : WheelId) (i : BitVec 5) (c : BitVec 4) (v : BitVec 8),
    ∀ p ∈ stackTable w i c v, begun s w p.2.1 [] = some b →
      (depth (getWheel b w) < p.2.2.1 → Raises p.1 s b w (exc 9 (intW 0) p.2.1)) ∧
      (p.2.2.1 ≤ depth (getWheel b w) → 32 < depth (getWheel b w) - p.2.2.2.1 + p.2.2.2.2 →
        Raises p.1 s b w (exc 8 (intW 0) p.2.1)))

/-- R183 to R186, R197: the integer results; sums, differences and products wrap, quotients round toward zero, a divisor
of 0 raises exception 10 with the dividend, and a shift count of 32 or more shifts everything out. -/
def Obligations.IntegerResults : Prop :=
  ∀ (s b : State) (w : WheelId) (x y : W32), top b w 1 = ⟨.int, x⟩ → top b w 0 = ⟨.int, y⟩ →
    (begun s w 0x20 [] = some b → Pushes (.add w) s b w 2 1 [⟨.int, x + y⟩]) ∧
    (begun s w 0x21 [] = some b → Pushes (.sub w) s b w 2 1 [⟨.int, x - y⟩]) ∧
    (begun s w 0x22 [] = some b → Pushes (.rsub w) s b w 2 1 [⟨.int, y - x⟩]) ∧
    (begun s w 0x23 [] = some b → Pushes (.neg w) s b w 1 1 [⟨.int, -y⟩]) ∧
    (begun s w 0x24 [] = some b → Pushes (.absW w) s b w 1 1 [⟨.int, if y.slt 0 then -y else y⟩]) ∧
    (begun s w 0x25 [] = some b → Pushes (.minW w) s b w 2 1 [⟨.int, if x.sle y then x else y⟩]) ∧
    (begun s w 0x26 [] = some b → Pushes (.maxW w) s b w 2 1 [⟨.int, if x.sle y then y else x⟩]) ∧
    (begun s w 0x30 [] = some b → Pushes (.mul w) s b w 2 1 [⟨.int, x * y⟩]) ∧
    (begun s w 0x31 [] = some b →
      Pushes (.mulh w) s b w 2 1 [⟨.int, (x.signExtend 64 * y.signExtend 64).extractLsb' 32 32⟩]) ∧
    (begun s w 0x32 [] = some b →
      (y ≠ 0 → Pushes (.div w) s b w 2 1 [⟨.int, x.sdiv y⟩]) ∧
      (y = 0 → Room b w 2 1 → Raises (.div w) s b w (exc 10 ⟨.int, x⟩ 0x32))) ∧
    (begun s w 0x33 [] = some b →
      (y ≠ 0 → Pushes (.mod w) s b w 2 1 [⟨.int, x.srem y⟩]) ∧
      (y = 0 → Room b w 2 1 → Raises (.mod w) s b w (exc 10 ⟨.int, x⟩ 0x33))) ∧
    (begun s w 0x40 [] = some b → Pushes (.shl w) s b w 2 1 [⟨.int, x <<< y⟩]) ∧
    (begun s w 0x41 [] = some b → Pushes (.shr w) s b w 2 1 [⟨.int, x >>> y⟩]) ∧
    (begun s w 0x42 [] = some b → Pushes (.sar w) s b w 2 1 [⟨.int, x.sshiftRight' y⟩]) ∧
    (begun s w 0x48 [] = some b → Pushes (.andW w) s b w 2 1 [⟨.int, x &&& y⟩]) ∧
    (begun s w 0x49 [] = some b → Pushes (.orW w) s b w 2 1 [⟨.int, x ||| y⟩]) ∧
    (begun s w 0x4A [] = some b → Pushes (.xorW w) s b w 2 1 [⟨.int, x ^^^ y⟩]) ∧
    (begun s w 0x4B [] = some b → Pushes (.notW w) s b w 1 1 [⟨.int, ~~~y⟩])

/-- R143, R183 to R185, R197: the results of a pair of one Q family. Each is the exact result saturated to 32 bits, with
the S mark if an operand has it or the result saturated. R186: shifts of a Q value by an INT count; only SHL
saturates, and it does so when its result is not the exact one. -/
def Obligations.QFamilyResults : Prop :=
  (∀ (s b : State) (w : WheelId) (f : Fam) (p q : Bool) (x y : W32), f = .q31 ∨ f = .q16 →
    top b w 1 = ⟨famTag f p, x⟩ → top b w 0 = ⟨famTag f q, y⟩ →
    let k : Nat := if f = .q31 then 31 else 16
    (begun s w 0x20 [] = some b → Pushes (.add w) s b w 2 1 [qWord f (p || q) (x.toInt + y.toInt)]) ∧
    (begun s w 0x21 [] = some b → Pushes (.sub w) s b w 2 1 [qWord f (p || q) (x.toInt - y.toInt)]) ∧
    (begun s w 0x22 [] = some b → Pushes (.rsub w) s b w 2 1 [qWord f (p || q) (y.toInt - x.toInt)]) ∧
    (begun s w 0x23 [] = some b → Pushes (.neg w) s b w 1 1 [qWord f q (-y.toInt)]) ∧
    (begun s w 0x24 [] = some b → Pushes (.absW w) s b w 1 1 [qWord f q y.toInt.natAbs]) ∧
    (begun s w 0x25 [] = some b → Pushes (.minW w) s b w 2 1 [⟨famTag f (p || q), if x.sle y then x else y⟩]) ∧
    (begun s w 0x26 [] = some b → Pushes (.maxW w) s b w 2 1 [⟨famTag f (p || q), if x.sle y then y else x⟩]) ∧
    (begun s w 0x30 [] = some b →
      Pushes (.mul w) s b w 2 1 [qWord f (p || q) (nearest (x.toInt * y.toInt) k)]) ∧
    (begun s w 0x31 [] = some b → Pushes (.mulh w) s b w 2 1 [qWord f (p || q) (x.toInt * y.toInt / 2 ^ k)]) ∧
    (begun s w 0x32 [] = some b →
      (y ≠ 0 → Pushes (.div w) s b w 2 1 [qWord f (p || q) ((x.toInt * 2 ^ k).tdiv y.toInt)]) ∧
      (y = 0 → Pushes (.div w) s b w 2 1
        [⟨famTag f true, if x = 0 then 0 else if x.slt 0 then 0x80000001 else 0x7FFFFFFF⟩])) ∧
    (begun s w 0x33 [] = some b →
      (y ≠ 0 → Pushes (.mod w) s b w 2 1 [⟨famTag f (p || q), x.srem y⟩]) ∧
      (y = 0 → Pushes (.mod w) s b w 2 1 [⟨famTag f true, 0⟩])) ∧
    (begun s w 0x5F [] = some b → q = true → Pushes (.clrs w) s b w 1 1 [⟨famTag f false, y⟩])) ∧
  (∀ (s b : State) (w : WheelId) (f : Fam) (p : Bool) (x n : W32), f = .q31 ∨ f = .q16 →
    top b w 1 = ⟨famTag f p, x⟩ → top b w 0 = ⟨.int, n⟩ →
    (begun s w 0x40 [] = some b → ∀ v : Int, v = x.toInt * 2 ^ n.toNat →
      (-0x80000000 ≤ v ∧ v ≤ 0x7FFFFFFF → Pushes (.shl w) s b w 2 1 [⟨famTag f p, x <<< n⟩]) ∧
      (v < -0x80000000 ∨ 0x7FFFFFFF < v →
        Pushes (.shl w) s b w 2 1 [⟨famTag f true, if x.slt 0 then 0x80000000 else 0x7FFFFFFF⟩])) ∧
    (begun s w 0x41 [] = some b → Pushes (.shr w) s b w 2 1 [⟨famTag f p, x >>> n⟩]) ∧
    (begun s w 0x42 [] = some b → Pushes (.sar w) s b w 2 1 [⟨famTag f p, x.sshiftRight' n⟩]))

/-- R187: the conversions that keep the bits, the Q-to-Q conversions, and those to and from F32. R146, R158, R183, R198:
F32 pairs, saturating TIME, and the offsets of ADDR and CODE. R147: an INT nearer TOS beside a Q31 raises exception 3
in the strict setting and is read as Q31 in the numeric one; the other way round the Q31 nearer TOS is read as INT. -/
def Obligations.OtherNumbers : Prop :=
  (∀ (s b : State) (w : WheelId) (c : BitVec 4) (v : W32) (m : Bool),
    begun s w (0x50 + c.toNat) [] = some b →
    (c ∈ [0x0, 0x1, 0xD, 0xE] → top b w 0 = ⟨.int, v⟩ →
      Pushes (.cvt w c) s b w 1 1 [⟨if c = 0 then .q31 else if c = 1 then .q16 else if c = 0xD then .time else .duty, v⟩]) ∧
    (c = 2 → top b w 0 = ⟨famTag .q31 m, v⟩ → Pushes (.cvt w c) s b w 1 1 [⟨.int, v⟩]) ∧
    (c = 3 → top b w 0 = ⟨famTag .q16 m, v⟩ → Pushes (.cvt w c) s b w 1 1 [⟨.int, v⟩]) ∧
    (c = 4 → top b w 0 = ⟨famTag .q31 m, v⟩ → Pushes (.cvt w c) s b w 1 1 [⟨famTag .q16 m, v.sshiftRight 15⟩]) ∧
    (c = 5 → top b w 0 = ⟨famTag .q16 m, v⟩ → Pushes (.cvt w c) s b w 1 1
      [⟨famTag .q31 (m || decide (v.toInt < -0x10000 ∨ 0xFFFF < v.toInt)),
        if v.toInt < -0x10000 then 0x80000000 else if 0xFFFF < v.toInt then 0x7FFFFFFF else v <<< 15⟩]) ∧
    (c = 6 → top b w 0 = ⟨.int, v⟩ → Pushes (.cvt w c) s b w 1 1 [⟨.f32, fOfInt v.toInt 0⟩]) ∧
    (c = 7 → top b w 0 = ⟨famTag .q31 m, v⟩ → Pushes (.cvt w c) s b w 1 1 [⟨.f32, fOfInt v.toInt (-31)⟩]) ∧
    (c = 8 → top b w 0 = ⟨famTag .q16 m, v⟩ → Pushes (.cvt w c) s b w 1 1 [⟨.f32, fOfInt v.toInt (-16)⟩]) ∧
    (c ∈ [0x9, 0xA, 0xB] → top b w 0 = ⟨.f32, v⟩ →
      let fam : Fam := if c = 9 then .int else if c = 0xA then .q31 else .q16
      let k : Nat := if c = 9 then 0 else if c = 0xA then 31 else 16
      (isNan v = true → Pushes (.cvt w c) s b w 1 1 [⟨famTag fam true, 0⟩]) ∧
      (∀ g, fVal v = .inf g → Pushes (.cvt w c) s b w 1 1 [⟨famTag fam true, if g then 0x80000000 else 0x7FFFFFFF⟩]) ∧
      (∀ u, fToInt v k = some u → Pushes (.cvt w c) s b w 1 1
        [⟨famTag fam (beyond u), BitVec.ofInt 32 (clip u)⟩])) ∧
    (c = 0xC → (top b w 0).tag ∈ [.sample, .duty, .time, .code] →
      Pushes (.cvt w c) s b w 1 1 [⟨.int, (top b w 0).val⟩])) ∧
  (∀ (s b : State) (w : WheelId) (x y : W32),
    (top b w 1 = ⟨.f32, x⟩ → top b w 0 = ⟨.f32, y⟩ →
      (begun s w 0x20 [] = some b → Pushes (.add w) s b w 2 1 [⟨.f32, fAdd x y⟩]) ∧
      (begun s w 0x30 [] = some b → Pushes (.mul w) s b w 2 1 [⟨.f32, fMul x y⟩]) ∧
      (begun s w 0x32 [] = some b → Pushes (.div w) s b w 2 1 [⟨.f32, fDiv x y⟩]) ∧
      (begun s w 0x23 [] = some b → Pushes (.neg w) s b w 1 1 [⟨.f32, y ^^^ 0x80000000⟩]) ∧
      (begun s w 0x24 [] = some b → Pushes (.absW w) s b w 1 1 [⟨.f32, y &&& 0x7FFFFFFF⟩])) ∧
    (top b w 1 = ⟨.time, x⟩ → top b w 0 = ⟨.time, y⟩ →
      (begun s w 0x20 [] = some b → Pushes (.add w) s b w 2 1
        [⟨.time, BitVec.ofInt 32 (clip (x.toInt + y.toInt))⟩]) ∧
      (begun s w 0x21 [] = some b → Pushes (.sub w) s b w 2 1
        [⟨.time, BitVec.ofInt 32 (clip (x.toInt - y.toInt))⟩])) ∧
    (top b w 1 = ⟨.addr, x⟩ → top b w 0 = ⟨.int, y⟩ → begun s w 0x20 [] = some b →
      let o : Int := (x.toNat % 0x1000000 : Nat) + y.toInt
      (0 ≤ o → o ≤ 0xFFFFFF → ∃ r : W32, r.toNat = x.toNat / 0x1000000 * 0x1000000 + o.toNat ∧
        Pushes (.add w) s b w 2 1 [⟨.addr, r⟩]) ∧
      (o < 0 ∨ 0xFFFFFF < o → Room b w 2 1 → Raises (.add w) s b w (exc 4 ⟨.addr, x⟩ 0x20))) ∧
    (top b w 1 = ⟨.addr, x⟩ → top b w 0 = ⟨.addr, y⟩ → begun s w 0x21 [] = some b →
      x.toNat / 0x1000000 = y.toNat / 0x1000000 → Pushes (.sub w) s b w 2 1 [⟨.int, x - y⟩]) ∧
    (top b w 1 = ⟨.code, x⟩ → top b w 0 = ⟨.int, y⟩ → begun s w 0x20 [] = some b → cRegion x = 0 → cRsv x = false →
      let o : Int := (x.toNat % 0x40000 : Nat) + y.toInt
      (0 ≤ o → o ≤ 0x3FFFF → ∃ r : W32, r.toNat = x.toNat / 0x40000 * 0x40000 + o.toNat ∧
        Pushes (.add w) s b w 2 1 [⟨.code, r⟩]) ∧
      (o < 0 ∨ 0x3FFFF < o → Room b w 2 1 → Raises (.add w) s b w (exc 4 ⟨.code, x⟩ 0x20)))) ∧
  (∀ (s b : State) (w : WheelId) (x y : W32), begun s w 0x20 [] = some b →
    (top b w 1 = ⟨.q31, x⟩ → top b w 0 = ⟨.int, y⟩ →
      ((getWheel b w).mode.tchk = true → Pushes (.add w) s b w 2 1
        [qWord .q31 false (x.toInt + y.toInt)]) ∧
      ((getWheel b w).mode.tchk = false → Room b w 2 1 → ∃ inf, Raises (.add w) s b w (exc 3 inf 0x20))) ∧
    (top b w 1 = ⟨.int, x⟩ → top b w 0 = ⟨.q31, y⟩ →
      ((getWheel b w).mode.tchk = true → Pushes (.add w) s b w 2 1 [⟨.int, x + y⟩]) ∧
      ((getWheel b w).mode.tchk = false → Room b w 2 1 → ∃ inf, Raises (.add w) s b w (exc 3 inf 0x20))))

/-- R177, R191: the jumps. A relative target outside its region raises exception 4, and a target that R158 does not allow
raises exception 4, or 6 in the guard region. R159, R191: the calls; at return-stack depth 64 a call raises exception
8 and changes nothing. -/
def Obligations.JumpsAndCalls : Prop :=
  (∀ (s b : State) (w : WheelId) (c : W32),
    (∀ o : BitVec 8, begun s w (0x400 + o.toNat) [] = some b →
      (Inside b w (cOff (getWheel b w).pc + o.toInt) c →
        (Target b w c → ∃ t, exec (.jmp w o) s = .next t ∧ Jumped b t w 0 c) ∧
        (¬Target b w c → ∃ n inf, (n = 4 ∨ n = 6) ∧ Raises (.jmp w o) s b w (exc n inf (0x400 + o.toNat)))) ∧
      ((cOff (getWheel b w).pc : Int) + o.toInt < 0 ∨
        (regionEnd (cRegion (getWheel b w).pc) : Int) < cOff (getWheel b w).pc + o.toInt →
        ∃ v, Raises (.jmp w o) s b w (exc 4 ⟨.code, v⟩ (0x400 + o.toNat)))) ∧
    (∀ o : BitVec 18, begun s w (0x3280 + o.toNat / 0x4000) [o.toNat % 0x4000] = some b →
      Inside b w (cOff (getWheel b w).pc + o.toInt) c → Target b w c →
        ∃ t, exec (.jmpl w o) s = .next t ∧ Jumped b t w 0 c) ∧
    (begun s w 0x71 [] = some b → Room b w 1 0 → top b w 0 = ⟨.code, c⟩ →
      (Target b w c → ∃ t, exec (.jmpi w) s = .next t ∧ Jumped b t w 1 c) ∧
      (cMill c ≠ millOf w ∨ cRegion c = 3 ∨ 0x1000000 ≤ c.toNat ∨ cRegion c ≠ 0 ∧ 0xFFF < cOff c →
        Raises (.jmpi w) s b w (exc 4 ⟨.code, c⟩ 0x71)) ∧
      (cMill c = millOf w → cRegion c = 2 → c.toNat < 0x1000000 → cOff c ≤ 0xFFF → (getWheel b w).mode.guard = false →
        Raises (.jmpi w) s b w (exc 6 (intW 0) 0x71))) ∧
    (∀ o : BitVec 18, begun s w (0x32A0 + o.toNat / 0x4000) [o.toNat % 0x4000] = some b →
      Inside b w (cOff (getWheel b w).pc + o.toInt) c → Pushes (.cadr w o) s b w 0 2 [⟨.code, c⟩])) ∧
  (∀ (s b : State) (w : WheelId) (c : W32),
    (∀ o : BitVec 8, begun s w (0x500 + o.toNat) [] = some b →
      ((getWheel b w).rstack.length < 64 → Inside b w (cOff (getWheel b w).pc + o.toInt) c → Target b w c →
        ∃ t, exec (.call w o) s = .next t ∧ Called b t w 0 1 c) ∧
      (64 ≤ (getWheel b w).rstack.length → Raises (.call w o) s b w (exc 8 (intW 0) (0x500 + o.toNat)))) ∧
    (∀ o : BitVec 18, begun s w (0x3290 + o.toNat / 0x4000) [o.toNat % 0x4000] = some b →
      (getWheel b w).rstack.length < 64 → Inside b w (cOff (getWheel b w).pc + o.toInt) c → Target b w c →
        ∃ t, exec (.calll w o) s = .next t ∧ Called b t w 0 2 c) ∧
    (begun s w 0x70 [] = some b → Room b w 1 0 → top b w 0 = ⟨.code, c⟩ →
      ((getWheel b w).rstack.length < 64 → Target b w c → ∃ t, exec (.calli w) s = .next t ∧ Called b t w 1 1 c) ∧
      (64 ≤ (getWheel b w).rstack.length → Raises (.calli w) s b w (exc 8 (intW 0) 0x70))))

/-- R152, R153: ENTER moves the window up by Δ = 32 + SD − n, so that the caller's n topmost operands are F0 to F(n − 1),
marks the other locals EMPTY, and notes Δ − 32 in the top entry of both stacks (R159: DELTA and ENT of the shadow copy, whose
other bits stay); what the register file cannot hold is spilled to words 6000h + index. R151, R154: the ordered checks of ENTER and RETURN, first failures first, on the wheel
outside the guard handler. R155: RETURN pops both stacks and goes to the saved address; where the callee executed
ENTER, its r topmost operands are the caller's topmost, and the window is the caller's again. -/
def Obligations.WindowInstructions : Prop :=
  (∀ (s b : State) (w : WheelId) (n : BitVec 6) (x : Wheel) (r : W32) (rs : List W32),
    begun s w (0x2C0 + n.toNat) [] = some b → x = getWheel b w → x.rstack = r :: rs → x.rstack.length ≠ x.floor →
    n.toNat ≤ 32 → x.mode.guard = false → rtEnt r = false → rtWorld r = x.mode.world → n.toNat ≤ x.sd → x.sd ≤ 32 →
    x.vb + (32 + x.sd - n.toNat) + 64 ≤ 4608 → 0 < shDepth x → shDepth x ≤ 64 →
    ∃ t, exec (.enter w n) s = .next t ∧ OnlyWheel (noteSh b w x) t w ∧ ∃ y, y = getWheel t w ∧
      y.vb = x.vb + (32 + x.sd - n.toNat) ∧ y.sd = 0 ∧ y.pc = codeAdd x.pc 1 ∧
      (∀ i, i < 32 → winRd y i = if i < n.toNat then winRd x (32 + (x.sd - n.toNat) + i) else emptyW) ∧
      y.rf = max x.rf (y.vb + 64 - 512) ∧
      (∀ v, x.rf ≤ v → v < y.rf → spadRead t w (0x6000 + v) = some (tget emptyW x.regs (v % 512))) ∧
      ∃ e, y.rstack = e :: rs ∧ rtAddr e = rtAddr r ∧ rtDelta e = (x.sd - n.toNat) % 64 ∧ rtEnt e = true ∧
        rtWorld e = rtWorld r ∧ shDepth y = shDepth x ∧
        ∀ a, a = shBase x + (shDepth x - 1) → (spadRead b w a = none → spadRead t w a = none) ∧
          ∀ v, spadRead b w a = some v → ∃ q, spadRead t w a = some ⟨v.tag, q⟩ ∧ rtAddr q = rtAddr v.val ∧
            rtDelta q = (x.sd - n.toNat) % 64 ∧ rtEnt q = true ∧ rtWorld q = rtWorld v.val) ∧
  (∀ (s b : State) (w : WheelId) (n : BitVec 6) (k : BitVec 3) (x : Wheel), x = getWheel b w → x.mode.guard = false →
    (begun s w (0x2C0 + n.toNat) [] = some b → n.toNat ≤ 32 →
      (x.rstack = [] → Raises (.enter w n) s b w (exc 9 (intW 0) (0x2C0 + n.toNat))) ∧
      ∀ r rs, x.rstack = r :: rs → x.rstack.length ≠ x.floor →
        (rtEnt r = true ∨ rtWorld r ≠ x.mode.world → Raises (.enter w n) s b w (exc 2 (intW 0) (0x2C0 + n.toNat))) ∧
        (rtEnt r = false → rtWorld r = x.mode.world →
          (x.sd < n.toNat → Raises (.enter w n) s b w (exc 9 (intW 0) (0x2C0 + n.toNat))) ∧
          (n.toNat ≤ x.sd → 4608 < x.vb + 32 + x.sd - n.toNat + 64 →
            Raises (.enter w n) s b w (exc 8 (intW 0) (0x2C0 + n.toNat))))) ∧
    (begun s w (0x320 + k.toNat) [] = some b →
      (x.rstack = [] → Raises (.returnW w k) s b w (exc 9 (intW 0) (0x320 + k.toNat))) ∧
      ∀ r rs, x.rstack = r :: rs → x.rstack.length ≠ x.floor →
        (rtWorld r ≠ x.mode.world → Raises (.returnW w k) s b w (exc 6 (intW 0) (0x320 + k.toNat))) ∧
        (rtWorld r = x.mode.world → shDepth x = 0 →
          Raises (.returnW w k) s b w (exc 7 ⟨.ret, r⟩ (0x320 + k.toNat))))) ∧
  (∀ (s b : State) (w : WheelId) (k : BitVec 3) (x : Wheel) (r : W32) (rs : List W32),
    begun s w (0x320 + k.toNat) [] = some b → x = getWheel b w → x.rstack = r :: rs → x.rstack.length ≠ x.floor →
    x.mode.guard = false → rtWorld r = x.mode.world → 0 < shDepth x →
    tget .ok x.spad.ecc (shBase x + (shDepth x - 1)) = .ok → spadRead b w (shBase x + (shDepth x - 1)) = some ⟨.ret, r⟩ →
    Target b w (BitVec.ofNat 32 (rtAddr r)) →
    (rtEnt r = false → k = 0 →
      ∃ t, exec (.returnW w k) s = .next t ∧ OnlyWheel (landing b w (BitVec.ofNat 32 (rtAddr r))) t w ∧ ∃ y, y = getWheel t w ∧
        y.pc = BitVec.ofNat 32 (rtAddr r) ∧ y.rstack = rs ∧ shDepth y = shDepth x - 1 ∧ y.sd = x.sd ∧ y.vb = x.vb ∧
        y.rf = x.rf ∧ y.regs = x.regs ∧ y.spad = x.spad ∧ y.mode = x.mode ∧ y.pend = countDown x.pend) ∧
    (rtEnt r = true → k.toNat ≤ x.sd → x.sd ≤ 32 → rtDelta r + k.toNat ≤ 32 → x.rf ≤ x.vb → rtDelta r + 32 ≤ x.vb →
      ∃ t, exec (.returnW w k) s = .next t ∧ ∃ y, y = getWheel t w ∧
        y.pc = BitVec.ofNat 32 (rtAddr r) ∧ y.rstack = rs ∧ shDepth y = shDepth x - 1 ∧
        y.vb = x.vb - (rtDelta r + 32) ∧ y.sd = rtDelta r + k.toNat ∧ y.rf = min x.rf y.vb ∧ y.mode = x.mode ∧
        (∀ j, j < k.toNat → winRd y (32 + rtDelta r + j) = winRd x (32 + (x.sd - k.toNat) + j)) ∧
        ∀ v, y.vb ≤ v → v < x.rf → tget emptyW y.regs (v % 512) = (spadRead b w (0x6000 + v)).getD poisonW))

/-- R188, R191: a compare-and-branch pops its operands whether or not it is taken, and transfers if its condition holds;
its target is checked only then (R177). R188, R189, R198, R145: what the branches test. INT, the Q families and TIME
compare as signed values; F32 numerically, with every NaN unequal and unordered; two ADDR or two CODE words by their
bits. EMPTY, POISON and the reserved tags raise exception 3. R190: a tag test leaves TOS; BTAG is taken if the tag is
t, BNTAG if it differs; a reserved tag raises exception 3. -/
def Obligations.Branches : Prop :=
  (∀ (s b : State) (w : WheelId) (o : BitVec 8) (k : BitVec 3) (l : BitVec 18) (c : W32),
    ∀ p ∈ branches w o k l, begun s w p.2.1 p.2.2.1 = some b →
      ∀ n, n = (if p.2.2.2.1 < 4 then 2 else 1) → Room b w n 0 →
        ∀ taken, branchCond p.2.1 (getWheel b w).mode.tchk p.2.2.2.1 (tops (getWheel b w) n) = .ok taken →
          (taken = false → Pushes p.1 s b w n (p.2.2.1.length + 1) []) ∧
          (taken = true → Inside b w (cOff (getWheel b w).pc + p.2.2.2.2) c → Target b w c →
            ∃ t, exec p.1 s = .next t ∧ Jumped b t w n c) ∧
          (taken = true → (cOff (getWheel b w).pc : Int) + p.2.2.2.2 < 0 →
            ∃ v, Raises p.1 s b w (exc 4 ⟨.code, v⟩ p.2.1))) ∧
  (∀ (op : Nat) (m : Bool) (x y : W32),
    (∀ t, t = .int ∨ t = .time ∨ t = .q31 ∨ t = .q31s ∨ t = .q16 ∨ t = .q16s →
      branchCond op m 0 [⟨t, y⟩, ⟨t, x⟩] = .ok (x == y) ∧ branchCond op m 1 [⟨t, y⟩, ⟨t, x⟩] = .ok (x != y) ∧
      branchCond op m 2 [⟨t, y⟩, ⟨t, x⟩] = .ok (x.slt y) ∧ branchCond op m 3 [⟨t, y⟩, ⟨t, x⟩] = .ok (y.sle x) ∧
      branchCond op m 4 [⟨t, y⟩] = .ok (y == 0) ∧ branchCond op m 5 [⟨t, y⟩] = .ok (y != 0) ∧
      branchCond op m 6 [⟨t, y⟩] = .ok (y.slt 0) ∧ branchCond op m 7 [⟨t, y⟩] = .ok ((0 : W32).sle y)) ∧
    (isNan x = true ∨ isNan y = true →
      branchCond op m 0 [⟨.f32, y⟩, ⟨.f32, x⟩] = .ok false ∧ branchCond op m 1 [⟨.f32, y⟩, ⟨.f32, x⟩] = .ok true ∧
      branchCond op m 2 [⟨.f32, y⟩, ⟨.f32, x⟩] = .ok false ∧ branchCond op m 3 [⟨.f32, y⟩, ⟨.f32, x⟩] = .ok false) ∧
    branchCond op m 0 [⟨.f32, 0x80000000⟩, ⟨.f32, 0⟩] = .ok true ∧
    (∀ t, t = .addr ∨ t = .code →
      branchCond op m 0 [⟨t, y⟩, ⟨t, x⟩] = .ok (x == y) ∧ branchCond op m 1 [⟨t, y⟩, ⟨t, x⟩] = .ok (x != y)) ∧
    branchCond op m 2 [⟨.code, y⟩, ⟨.code, x⟩] = .ok (decide (x.toNat % 0x1000000 < y.toNat % 0x1000000)) ∧
    (x.toNat / 0x1000000 = y.toNat / 0x1000000 →
      branchCond op m 2 [⟨.addr, y⟩, ⟨.addr, x⟩] = .ok (decide (x.toNat < y.toNat))) ∧
    (x.toNat / 0x1000000 ≠ y.toNat / 0x1000000 → ∃ inf, branchCond op m 2 [⟨.addr, y⟩, ⟨.addr, x⟩] = .error (exc 3 inf op)) ∧
    ∀ (k : Nat) (u : TWord) (t : Tag), k < 4 → t = .empty ∨ t = .poison ∨ t = .rsvC ∨ t = .rsvD →
      (∃ inf, branchCond op m k [⟨t, x⟩, u] = .error (exc 3 inf op)) ∧
      (isRsv u.tag = false → u.tag ≠ .empty → u.tag ≠ .poison →
        ∃ inf, branchCond op m k [u, ⟨t, x⟩] = .error (exc 3 inf op))) ∧
  (∀ (s b : State) (w : WheelId) (t : BitVec 4) (o : BitVec 7) (c : W32), t ≠ 12 → t ≠ 13 →
    0 < depth (getWheel b w) → depth (getWheel b w) ≤ 32 →
    (begun s w (0x2000 + t.toNat * 128 + o.toNat) [] = some b →
      (isRsv (top b w 0).tag = true → ∃ inf, Raises (.btag w t o) s b w (exc 3 inf (0x2000 + t.toNat * 128 + o.toNat))) ∧
      (isRsv (top b w 0).tag = false →
        ((top b w 0).tag ≠ tagOf t.toNat → Pushes (.btag w t o) s b w 0 1 []) ∧
        ((top b w 0).tag = tagOf t.toNat → Inside b w (cOff (getWheel b w).pc + o.toInt) c → Target b w c →
          ∃ u, exec (.btag w t o) s = .next u ∧ Jumped b u w 0 c))) ∧
    (begun s w (0x2800 + t.toNat * 128 + o.toNat) [] = some b → isRsv (top b w 0).tag = false →
      ((top b w 0).tag = tagOf t.toNat → Pushes (.bntag w t o) s b w 0 1 []) ∧
      ((top b w 0).tag ≠ tagOf t.toNat → Inside b w (cOff (getWheel b w).pc + o.toInt) c → Target b w c →
        ∃ u, exec (.bntag w t o) s = .next u ∧ Jumped b u w 0 c)))

/-- R167, R168, R192, R326: LD and LD2. A LOCAL load pushes the words as stored; a MILLPOND load waits for its bank, or
takes the words that the wheel's own buffered stores hold; a HOST load waits for the host's answer. R129, R167 to
R169, R192, R325: ST and ST2. A LOCAL store writes the words with their tags and nothing else; a MILLPOND store takes
a store-buffer entry, or waits for one; a HOST store waits for the host, or is posted in compat mode. R167: the first
check of a load or store that fails raises its exception, and the access changes nothing. -/
def Obligations.MemoryAccess : Prop :=
  (∀ (s b : State) (w : WheelId) (a : TWord) (c : Instr) (op n : Nat),
    (c, op, n) = (.ld w, 0x60, 1) ∨ (c, op, n) = (.ld2 w, 0x62, 2) → begun s w op [] = some b → top b w 0 = a →
    Room b w 1 n → Permits b w a n false →
    (sgSpace (descOf b w a) = 1 → ∀ l, l.length = n →
      (∀ i, i < n → spadRead b w ((sgBase (descOf b w a) + aOff a.val + i) % 0x8000) = some (nth emptyW l i)) →
      (∀ v ∈ l, isRsv v.tag = false ∧ (isPtr v.tag = true → sgPtr (descOf b w a) = true)) →
      ∃ t, exec c s = .next t ∧ (∀ u v, spadRead t u v = spadRead b u v) ∧
        Pushed ((List.range n).foldl
          (fun s i => noteRead s (.spad w) ((sgBase (descOf b w a) + aOff a.val + i) % 0x8000)) b) t w 1 1 l) ∧
    (sgSpace (descOf b w a) = 2 → ∀ p, p = (sgBase (descOf b w a) + aOff a.val) % 0x400000 →
      ((∀ i, i < n → covered (getWheel b w).sbuf (p + i) = none) →
        ∃ t, exec c s = .next t ∧ Waits b t w (.mpLoad p n (sgPtr (descOf b w a)) a none)) ∧
      ∀ l, l.length = n → (∀ i, i < n → ∃ k, covered (getWheel b w).sbuf (p + i) = some (k, nth emptyW l i)) →
        (∀ v ∈ l, isRsv v.tag = false ∧ (isPtr v.tag = true → sgPtr (descOf b w a) = true)) →
        ∃ t, exec c s = .next t ∧ Pushed b t w 1 1 l) ∧
    (sgSpace (descOf b w a) = 3 → ∃ t, exec c s = .next t ∧ Waits b t w (.hostLoad a n))) ∧
  (∀ (s b : State) (w : WheelId) (a : TWord) (c : Instr) (op n : Nat) (vs : List TWord),
    (c, op, n, vs) = (.st w, 0x61, 1, [top b w 1]) ∨ (c, op, n, vs) = (.st2 w, 0x63, 2, [top b w 2, top b w 1]) →
    begun s w op [] = some b → top b w 0 = a → Room b w (n + 1) 0 → Permits b w a n true →
    (∀ v ∈ vs, isRsv v.tag = false ∧ (isPtr v.tag = true → sgPtr (descOf b w a) = true)) →
    (sgSpace (descOf b w a) = 1 →
      ∃ t, exec c s = .next t ∧ RetiredAs (getWheel b w) (getWheel t w) 1 ∧
        depth (getWheel t w) = depth (getWheel b w) - (n + 1) ∧
        (∀ i, i < 64 → winRd (getWheel t w) i = winRd (getWheel b w) i) ∧
        (∀ i, i < n → spadRead t w ((sgBase (descOf b w a) + aOff a.val + i) % 0x8000) = some (nth emptyW vs i)) ∧
        (∀ u v, (u ≠ w ∨ ∀ i, i < n → v ≠ (sgBase (descOf b w a) + aOff a.val + i) % 0x8000) →
          spadRead t u v = spadRead b u v) ∧
        ∀ v, mpRead t v = mpRead b v) ∧
    (sgSpace (descOf b w a) = 2 → ∀ e : StoreEnt,
      e = ⟨(sgBase (descOf b w a) + aOff a.val) % 0x400000, vs, false⟩ →
      ((getWheel b w).sbuf.length < 4 →
        ∃ t, exec c s = .next t ∧
          Pushed (modWheel b w fun x => { x with sbuf := x.sbuf ++ [e] }) t w (n + 1) 1 []) ∧
      (4 ≤ (getWheel b w).sbuf.length → ∃ t, exec c s = .next t ∧ Waits b t w (.storeFull e (n + 1)))) ∧
    (sgSpace (descOf b w a) = 3 →
      ((getWheel b w).mode.compat = false ∨ sgPosted (descOf b w a) = false →
        ∃ t, exec c s = .next t ∧ Waits b t w (.hostStore a (n + 1) (vs.map (·.val)))) ∧
      ((getWheel b w).mode.compat = true → sgPosted (descOf b w a) = true → (getWheel b w).posted.length < 4 →
        ∃ t, exec c s = .next t ∧
          Pushed (modWheel b w fun x => { x with posted := x.posted ++ [(a, vs.map (·.val))] }) t w (n + 1) 1 []))) ∧
  (∀ (s b : State) (w : WheelId) (a : TWord) (d : W64),
    top b w 0 = a → d = descOf b w a →
    ∀ c op n (st : Bool),
      (c, op, n, st) ∈ [(Instr.ld w, 0x60, 1, false), (.ld2 w, 0x62, 2, false), (.st w, 0x61, 1, true), (.st2 w, 0x63, 2, true)] →
      begun s w op [] = some b → (if st then Room b w (n + 1) 0 else Room b w 1 n) →
      (st = true → isRsv (top b w 1).tag = false ∧ isRsv (top b w n).tag = false) →
      (a.tag ≠ .addr → ∃ inf, Raises c s b w (exc 3 inf op)) ∧
      (a.tag = .addr →
        (sgNull d = true ∨ sgLimit d + 1 < aOff a.val + n → Raises c s b w (exc 4 a op)) ∧
        (sgNull d = false → aOff a.val + n ≤ sgLimit d + 1 →
          (sgUser d = false → (getWheel b w).mode.level = false → Raises c s b w (exc 6 (intW 0) op)) ∧
          (sgUser d = true ∨ (getWheel b w).mode.level = true →
            ((if st then sgWr d else sgRd d) = false → Raises c s b w (exc 5 a op)) ∧
            ((if st then sgWr d else sgRd d) = true →
              (st = true → sgPtr d = false → isPtr (top b w 1).tag = true → Raises c s b w (exc 5 a op)) ∧
              (n = 2 → (sgBase d + aOff a.val) % 2 = 1 →
                (st = false ∨ sgPtr d = true) → Raises c s b w (exc 13 a op)))))))

/-- R40, R127, R323, R324, R331: a bank grants one access. A granted load takes its words as they stand and its return
pushes them, or raises exception 16 at the first that cannot be corrected. R323 to R325, R129: the granted head of a
store buffer is written, all its words in one access, and then freed; entries leave in issue order. R169, R315, R316:
the host's answers. An accepted load pushes the host's words as INT and a refused one pushes POISON; a refused store
raises exception 12 at the store; a refused posted store pends its own exception 12. Where the step of a command is
not enabled, that the command changes nothing is the model's choice (log 13). -/
def Obligations.MemoryAnswers : Prop :=
  (∀ (s : State) (w : WheelId) (ad n : Nat) (ptr : Bool) (a : TWord), running s = true →
    (∀ bank : Fin 16, (getWheel s w).stall = .mpLoad ad n ptr a none → mpBank ad = bank → bankAsker s bank = some w →
      ∃ t l, exec (.millpondGrant bank) s = .next t ∧ (getWheel t w).stall = .mpLoad ad n ptr a (some l) ∧ l.length = n ∧
        (∀ i, i < n → (mpRead s (ad + i) = none ∧ l[i]? = some (poisonW, true)) ∨
          ∃ v, mpRead s (ad + i) = some v ∧ l[i]? = some (v, false)) ∧
        ∀ v, mpRead t v = mpRead s v) ∧
    ∀ l : List (TWord × Bool), (getWheel s w).stall = .mpLoad ad n ptr a (some l) → (getWheel s w).draining = false →
      ((∀ p ∈ l, p.2 = false ∧ isRsv p.1.tag = false ∧ (isPtr p.1.tag = true → ptr = true)) → 1 ≤ depth (getWheel s w) →
        depth (getWheel s w) - 1 + l.length ≤ 32 →
        ∃ t, exec (.millpondLoadReturn w) s = .next t ∧
          Pushed (modWheel s w fun x => { x with stall := .none }) t w 1 1 (l.map (·.1))) ∧
      (∀ (i : Nat) (v : TWord), l[i]? = some (v, true) → (∀ j : Nat, j < i → ∃ u, l[j]? = some (u, false)) →
        ∃ t, exec (.millpondLoadReturn w) s = .next t ∧ (getWheel t w).stall = .none ∧
          (getWheel t w).pc = (getWheel s w).pc ∧ depth (getWheel t w) = depth (getWheel s w) ∧
          (getWheel t w).fault = some (exc 16 (aAdd a i) (getWheel s w).stallOp.toNat))) ∧
  (∀ (s : State) (w : WheelId) (e : StoreEnt) (l : List StoreEnt), running s = true → (getWheel s w).sbuf = e :: l →
    (∀ bank : Fin 16, e.granted = false → mpBank e.addr = bank → bankAsker s bank = some w →
      loadWants (getWheel s w) bank = false →
      (∀ i, i < e.data.length → mpOn s (e.addr + i) = true ∧ mpBank (e.addr + i) = mpBank e.addr) →
      ∃ t, exec (.millpondGrant bank) s = .next t ∧ (getWheel t w).sbuf = { e with granted := true } :: l ∧
        (∀ i v, e.data[i]? = some v → mpRead t (e.addr + i) = some v) ∧
        ∀ a, a < 0x400000 → e.addr + e.data.length ≤ 0x400000 → (a < e.addr ∨ e.addr + e.data.length ≤ a) →
          mpRead t a = mpRead s a) ∧
    (e.granted = true → (getWheel s w).stall = .none → (getWheel s w).draining = false →
      exec (.storeBufferDrain w) s = .next (modWheel s w fun x => { x with sbuf := l })) ∧
    (e.granted = false → exec (.storeBufferDrain w) s = .next s)) ∧
  (∀ (s : State) (w : WheelId) (d0 d1 : W32) (a : TWord), running s = true → s.rst.hungHi = false →
    (getWheel s w).draining = false →
    ((getWheel s w).posted = [] → 1 ≤ depth (getWheel s w) → depth (getWheel s w) ≤ 31 →
      ((getWheel s w).stall = .hostLoad a 1 → ∀ ok, ∃ t, exec (.hostAccessResponse (some w) ok d0 d1) s = .next t ∧
        Pushed (modWheel s w fun x => { x with stall := .none }) t w 1 1 [if ok then ⟨.int, d0⟩ else ⟨.poison, 0⟩]) ∧
      ((getWheel s w).stall = .hostLoad a 2 → ∀ ok, ∃ t, exec (.hostAccessResponse (some w) ok d0 d1) s = .next t ∧
        Pushed (modWheel s w fun x => { x with stall := .none }) t w 1 1
          [if ok then ⟨.int, d0⟩ else ⟨.poison, 0⟩, if ok then ⟨.int, d1⟩ else ⟨.poison, 0⟩]) ∧
      ∀ k vs, (getWheel s w).stall = .hostStore a k vs → k ≤ depth (getWheel s w) →
        (∃ t, exec (.hostAccessResponse (some w) true d0 d1) s = .next t ∧
          Pushed (modWheel s w fun x => { x with stall := .none }) t w k 1 []) ∧
        ∃ t, exec (.hostAccessResponse (some w) false d0 d1) s = .next t ∧
          (getWheel t w).fault = some (exc 12 a (getWheel s w).stallOp.toNat) ∧ (getWheel t w).stall = .none ∧
          depth (getWheel t w) = depth (getWheel s w)) ∧
    (∀ v l, (getWheel s w).posted = (a, v) :: l → (getWheel s w).stall = .none →
      exec (.hostAccessResponse (some w) true d0 d1) s = .next (modWheel s w fun x => { x with posted := l }) ∧
      exec (.hostAccessResponse (some w) false d0 d1) s =
        .next (modWheel s w fun x => { x with posted := l, exc12 := x.exc12 ++ [(a, nth 0 v 0)] })))

/-- R206, R207: MOVE leaves in the destination run what the source run held before it began, overlapping or not, and FILL
writes x to every word of the run; no other word changes. R208 to R210: SCAN pushes the index of the first equal word
or −1; DOT on INT words pushes the sum of the products. -/
def Obligations.BlockInstructions : Prop :=
  (∀ (s b : State) (w : WheelId) (k n i j : Nat), 3 ≤ depth (getWheel b w) → depth (getWheel b w) ≤ 32 → n ≤ k →
    n < 0x80000000 → top b w 0 = ⟨.int, BitVec.ofNat 32 n⟩ → LocalRun b w (top b w 1) n true j → blkActive (getWheel b w) = false →
    (begun s w 0x80 [] = some b → LocalRun b w (top b w 2) n false i →
      (∀ m, m < n → ∃ v, spadRead b w (i + m) = some v ∧ isRsv v.tag = false ∧
        (isPtr v.tag = true → sgPtr (descOf b w (top b w 2)) = true ∧ sgPtr (descOf b w (top b w 1)) = true)) →
      ∃ t, exec (.move w k) s = .next t ∧ BlockDone b t w [] ∧
        ∀ a, spadRead t w a = if j ≤ a ∧ a < j + n then spadRead b w (i + (a - j)) else spadRead b w a) ∧
    (begun s w 0x81 [] = some b → isRsv (top b w 2).tag = false →
      (isPtr (top b w 2).tag = true → sgPtr (descOf b w (top b w 1)) = true) →
      ∃ t, exec (.fill w k) s = .next t ∧ BlockDone b t w [] ∧
        ∀ a, spadRead t w a = if j ≤ a ∧ a < j + n then some (top b w 2) else spadRead b w a)) ∧
  (∀ (s b : State) (w : WheelId) (k n i j : Nat) (f : Nat → TWord), 3 ≤ depth (getWheel b w) → depth (getWheel b w) ≤ 32 →
    n ≤ k → n < 0x80000000 → top b w 0 = ⟨.int, BitVec.ofNat 32 n⟩ → LocalRun b w (top b w 1) n false j → blkActive (getWheel b w) = false →
    (∀ m, m < n → spadRead b w (j + m) = some (f m)) →
    (begun s w 0x82 [] = some b → (top b w 2).tag ∉ [.rsvC, .rsvD, .empty, .poison] →
      (∀ m, m < n → isRsv (f m).tag = false ∧ (f m).tag ≠ .empty) →
      ((∀ m, m < n → f m ≠ top b w 2) →
        ∃ t, exec (.scan w k) s = .next t ∧ BlockDone b t w [⟨.int, 0xFFFFFFFF⟩] ∧ ∀ a, spadRead t w a = spadRead b w a) ∧
      ∀ m, m < n → f m = top b w 2 → (∀ q, q < m → f q ≠ top b w 2) →
        ∃ t, exec (.scan w k) s = .next t ∧ BlockDone b t w [⟨.int, BitVec.ofNat 32 m⟩] ∧
          ∀ a, spadRead t w a = spadRead b w a) ∧
    (begun s w 0x83 [] = some b → 0 < n → LocalRun b w (top b w 2) n false i → (∀ m, m < n → (f m).tag = .int) →
      ∀ g : Nat → W32, (∀ m, m < n → spadRead b w (i + m) = some ⟨.int, g m⟩) →
        ∃ t, exec (.dot w k) s = .next t ∧
          BlockDone b t w [⟨.int, (List.range n).foldl (fun acc m => acc + g m * (f m).val) 0⟩] ∧
          ∀ a, spadRead t w a = spadRead b w a))

/-- R41, R103, R109, R110: SAIL k writes the DUTY word to the sail that byte k of the active direction's word names, in the
order of its checks; every other sail keeps its word. A run that lost the sail at expiry, or in which DWELL has begun, does
not reach it: the word is discarded and LATECNT counts. -/
def Obligations.SailInstruction : Prop :=
  ∀ (s b : State) (w : WheelId) (k : BitVec 2) (v d : TWord) (i j : Nat) (c : State),
    begun s w (0x328 + k.toNat) [] = some b → Room b w 1 0 → i = (if fsDir b w (getWheel b w).frm then 4 else 3) →
    frameWord b w i = some v → j = fld v.val (8 * k.toNat) 8 → d = top b w 0 → c = noted b w [i] →
    (j = 0xFF ∨ ownsSail b w j = false → Raises (.sail w k) s c w (exc 5 (intW j) (0x328 + k.toNat))) ∧
    (j ≠ 0xFF → ownsSail b w j = true → ∀ off : Bool,
      off = ((runTaken (getWheel b w)).contains j || runCut (getWheel b w) || (fsPair b w (getWheel b w).frm && fsX b w (getWheel b w).frm == 2)) →
      (off = true → ∃ t, exec (.sail w k) s = .next t ∧
        Pushed (modSail c j fun y => { y with latecnt := min 0xFF (y.latecnt + 1) }) t w 1 1 []) ∧
      (off = false →
        (d.tag = .poison → tbHeld b j = false →
          ∃ t, exec (.sail w k) s = .next t ∧ (getSail t j).out = safeWord (getSail b j).safe ∧
            (getSail t j).safeact = true ∧ (getSail t j).poisoned = true ∧
            (getWheel t w).fault = some (exc 11 (intW j) (0x328 + k.toNat)) ∧
            depth (getWheel t w) = depth (getWheel b w) ∧ ∀ n, n ≠ j → getSail t n = getSail b n) ∧
        (d.tag ≠ .poison → d.tag ≠ .duty → ∃ inf, Raises (.sail w k) s c w (exc 3 inf (0x328 + k.toNat))) ∧
        (d.tag = .duty →
          (fld d.val 25 1 = 1 ∨ fld d.val 26 2 = 3 → Raises (.sail w k) s c w (exc 2 d (0x328 + k.toNat))) ∧
          (fld d.val 25 1 = 0 → fld d.val 26 2 ≠ 3 → tbHeld b j = false →
            ∃ t, exec (.sail w k) s = .next t ∧ (getSail t j).out = d.val ∧ (getSail t j).safeact = false ∧
              (∀ n, n ≠ j → getSail t n = getSail b n) ∧ depth (getWheel t w) = depth (getWheel b w) - 1 ∧
              RetiredAs (getWheel b w) (getWheel t w) 1 ∧ ∀ u a, spadRead t u a = spadRead b u a))))

/-- R114 to R117, R194: TELL queues one record of its operand, its channel, frame slot, wheel and ring time, or waits for
the full queue; WAIT ends the run, discards its exception state and parks the wheel. R93: a feed-forward value whose wake
cycle this was stands in its frame word. -/
def Obligations.TellAndWait : Prop :=
  ∀ (s b : State) (w : WheelId),
    (∀ (n : BitVec 8) (d : TWord), begun s w (0x600 + n.toNat) [] = some b → Room b w 1 0 → Clean b w 1 →
      d = tget emptyW (getWheel b w).tdest (getWheel b w).frm → (getWheel b w).frm < 16 →
      d.tag = .addr → sgSpace (descOf b w d) = 2 → aOff d.val + 3 ≤ sgLimit (descOf b w d) →
      sgUser (descOf b w d) = true ∨ (getWheel b w).mode.level = true →
      sgRd (descOf b w d) = true → sgWr (descOf b w d) = true →
      ∃ r : TellRec, r.wheel = w ∧ r.chan = n.toNat ∧ r.slot = (getWheel b w).frm ∧ r.world = (getWheel b w).mode.world ∧
        r.user = (!(getWheel b w).mode.level) ∧ r.desc = (sgBase (descOf b w d) + aOff d.val) % 0x400000 ∧
        r.words[0]? = some (top b w 0) ∧
        r.words[1]? = some (intW (n.toNat + (getWheel b w).frm * 0x100 + w.val * 0x1000 +
          (getWheel b w).tellSeq.toNat * 0x1000000)) ∧
        r.words[2]? = some (intW (s.ring_time.ns.toNat % 0x100000000)) ∧
        r.words[3]? = some (intW (s.ring_time.ns.toNat / 0x100000000)) ∧
        ((tellQueue b w).length < 4 →
          ∃ t, exec (.tell w n) s = .next t ∧ tellQueue t w = tellQueue b w ++ [r] ∧
            (∀ u, u ≠ w.val → tellQueue t u = tellQueue b u) ∧ depth (getWheel t w) = depth (getWheel b w) - 1 ∧
            (getWheel t w).tellSeq = (getWheel b w).tellSeq + 1 ∧ RetiredAs (getWheel b w) (getWheel t w) 1 ∧
            t.mp = b.mp) ∧
        (4 ≤ (tellQueue b w).length → ∃ t, exec (.tell w n) s = .next t ∧ Waits b t w (.tellFull r))) ∧
    (begun s w 0x02 [] = some b →
      ((getWheel b w).mode.world = true ∨ (getWheel b w).mode.guard = true → Raises (.wait w) s b w (exc 6 (intW 0) 0x02)) ∧
      ((getWheel b w).mode.world = false → (getWheel b w).mode.guard = false → serviceActive b (getWheel b w) = false →
        (getWheel b w).fetch.reload = false → (∀ e, (getWake b w e).pend = false) →
        (∀ r, (getWheel b w).run = some r → fsState b w r.frame ≠ 2) →
        ∃ t, exec (.wait w) s = .next t ∧ (getWheel t w).parked = true ∧ (getWheel t w).run = none ∧
          (getWheel t w).active = none ∧ (getWheel t w).busyC = 0 ∧ (getWheel t w).busyS = 0 ∧
          (getWheel t w).sd = 0 ∧ (getWheel t w).vb = 0 ∧ (getWheel t w).rf = 0 ∧ (getWheel t w).rstack = [] ∧
          (getWheel t w).csd = 0 ∧ (getWheel t w).ssd = 0 ∧ (getWheel t w).pend = [] ∧
          (∀ a, (∀ p ∈ (getWheel b w).ffNow, a ≠ frameAddr (p.1 / 4) (60 + p.1 % 4)) → spadRead t w a = spadRead b w a) ∧
          (∀ l k v, (getWheel b w).ffNow = l ++ [(k, v)] → spadRead t w (frameAddr (k / 4) (60 + k % 4)) = some v) ∧
          t.mp = b.mp ∧ t.sails = b.sails ∧ ∀ u, u ≠ w.val → getWheel t u = getWheel b u))

/-- R193, R195: SCALE and SCALEU form the sample's Q31 value, multiply and add; CLAMP bounds; MKDUTY takes bits 30 to 7 of
a positive value below the control byte. R268, R269: PIQ, with the anti-windup of its integrator word. R268, R270,
R271: PIDQ and SLEW push their law's result and write their state words at retirement. Every form of the seven answers a next
state: a reserved form raises exception 2, and the checks of R145, R178, R193 and R331 come in their order before the law. -/
def Obligations.LoopPrimitives : Prop :=
  (∀ (s b : State) (w : WheelId) (i : BitVec 6),
    (∀ c op, (c, op) ∈ [(Instr.scale w i, 0x1000 + i.toNat), (.scaleu w i, 0x1040 + i.toNat)] → begun s w op [] = some b →
      (i.toNat = 63 → Raises c s b w (exc 2 (intW 0) op)) ∧
      (i.toNat < 63 → PrimChecks c s b w op 1 [i.toNat, i.toNat + 1] fun l f =>
        (nth emptyW l 0).tag == .sample && f.all fun v => famOf v.tag == some .q31)) ∧
    (begun s w (0x1080 + i.toNat) [] = some b →
      (i.toNat = 63 → Raises (.clamp w i) s b w (exc 2 (intW 0) (0x1080 + i.toNat))) ∧
      (i.toNat < 63 → PrimChecks (.clamp w i) s b w (0x1080 + i.toNat) 1 [i.toNat, i.toNat + 1] fun l f =>
        (famOf (nth emptyW l 0).tag == some .q31 || famOf (nth emptyW l 0).tag == some .q16) &&
          f.all fun v => famOf v.tag == famOf (nth emptyW l 0).tag)) ∧
    (begun s w (0x10C0 + i.toNat) [] = some b →
      PrimChecks (.mkduty w i) s b w (0x10C0 + i.toNat) 1 [i.toNat] fun l f =>
        famOf (nth emptyW l 0).tag == some .q31 && f.all fun v => v.tag == .int) ∧
    (begun s w (0x1140 + i.toNat) [] = some b → 12 ≤ i.toNat → i.toNat ≤ 31 →
      PrimChecks (.slew w i) s b w (0x1140 + i.toNat) 1 [i.toNat, i.toNat + 20] fun l f =>
        famOf (nth emptyW l 0).tag == some .q31 && f.all fun v => famOf v.tag == some .q31) ∧
    ∀ k : BitVec 3,
      (begun s w (0x1100 + k.toNat) [] = some b →
        (k.toNat = 7 → Raises (.piq w k) s b w (exc 2 (intW 0) (0x1100 + k.toNat))) ∧
        (k.toNat < 7 → PrimChecks (.piq w k) s b w (0x1100 + k.toNat) 1
          [32 + 4 * k.toNat, 33 + 4 * k.toNat, 34 + 4 * k.toNat, 35 + 4 * k.toNat, 12 + k.toNat] fun l f =>
            famOf (nth emptyW l 0).tag == some .q31 &&
              (f.take 2).all (fun v => famOf v.tag == some .q31 || famOf v.tag == some .q16) &&
              (f.drop 2).all fun v => famOf v.tag == some .q31)) ∧
      (begun s w (0x1108 + k.toNat) [] = some b →
        (4 ≤ k.toNat → Raises (.pidq w k) s b w (exc 2 (intW 0) (0x1108 + k.toNat))) ∧
        (k.toNat < 4 → PrimChecks (.pidq w k) s b w (0x1108 + k.toNat) 1
          (((List.range 6).map fun i => 32 + 6 * k.toNat + i) ++ [12 + 3 * k.toNat, 13 + 3 * k.toNat, 14 + 3 * k.toNat])
          fun l f => famOf (nth emptyW l 0).tag == some .q31 &&
            (f.take 3).all (fun v => famOf v.tag == some .q31 || famOf v.tag == some .q16) &&
            (f.drop 3).all fun v => famOf v.tag == some .q31))) ∧
  (∀ (s b : State) (w : WheelId) (i : BitVec 6) (v g o : W32) (m p q : Bool), Room b w 1 1 →
    (i.toNat < 63 → top b w 0 = ⟨.sample, v⟩ → frameWord b w i.toNat = some ⟨famTag .q31 p, g⟩ →
      frameWord b w (i.toNat + 1) = some ⟨famTag .q31 q, o⟩ →
      (begun s w (0x1000 + i.toNat) [] = some b → ∃ t, exec (.scale w i) s = .next t ∧
        Pushed (noted b w [i.toNat, i.toNat + 1]) t w 1 1
          [qWord .q31 (p || q) (nearest ((v.setWidth 16).toInt * 0x10000 * g.toInt) 31 + o.toInt)]) ∧
      (begun s w (0x1040 + i.toNat) [] = some b → ∃ t, exec (.scaleu w i) s = .next t ∧
        Pushed (noted b w [i.toNat, i.toNat + 1]) t w 1 1
          [qWord .q31 (p || q) (nearest (((v.setWidth 16).toNat : Int) * 0x8000 * g.toInt) 31 + o.toInt)])) ∧
    (∀ f, i.toNat < 63 → f = .q31 ∨ f = .q16 → top b w 0 = ⟨famTag f m, v⟩ → frameWord b w i.toNat = some ⟨famTag f p, g⟩ →
      frameWord b w (i.toNat + 1) = some ⟨famTag f q, o⟩ → begun s w (0x1080 + i.toNat) [] = some b →
      ∃ t, exec (.clamp w i) s = .next t ∧ Pushed (noted b w [i.toNat, i.toNat + 1]) t w 1 1
        [⟨famTag f (m || p || q), if o.slt g then g else if o.slt v then o else if v.slt g then g else v⟩]) ∧
    (top b w 0 = ⟨famTag .q31 m, v⟩ → frameWord b w i.toNat = some ⟨.int, g⟩ → begun s w (0x10C0 + i.toNat) [] = some b →
      ∃ (t : State) (d : W32), exec (.mkduty w i) s = .next t ∧ Pushed (noted b w [i.toNat]) t w 1 1 [⟨.duty, d⟩] ∧
        d.toNat = g.toNat % 256 * 0x1000000 + if v.slt 0 then 0 else v.toNat / 128)) ∧
  (∀ (s b : State) (w : WheelId) (k : BitVec 3) (e kp ki lo hi ig : W32) (fp fi : Fam) (m0 m1 m2 m3 m4 m5 : Bool),
    begun s w (0x1100 + k.toNat) [] = some b → k.toNat < 7 → Room b w 1 1 → (fp = .q31 ∨ fp = .q16) → (fi = .q31 ∨ fi = .q16) →
    top b w 0 = ⟨famTag .q31 m0, e⟩ → frameWord b w (32 + 4 * k.toNat) = some ⟨famTag fp m1, kp⟩ →
    frameWord b w (33 + 4 * k.toNat) = some ⟨famTag fi m2, ki⟩ → frameWord b w (34 + 4 * k.toNat) = some ⟨famTag .q31 m3, lo⟩ →
    frameWord b w (35 + 4 * k.toNat) = some ⟨famTag .q31 m4, hi⟩ → frameWord b w (12 + k.toNat) = some ⟨famTag .q31 m5, ig⟩ →
    let p := nearest (e.toInt * kp.toInt) (qBits fp)
    let q := nearest (e.toInt * ki.toInt) (qBits fi)
    let c := ig.toInt + clip q
    let u := clip p + clip c
    let m := m0 || m1 || m2 || m3 || m4 || m5 || beyond p || beyond q || beyond c || beyond u
    let out : Int := if hi.slt lo then lo.toInt else if hi.toInt < clip u then hi.toInt
      else if clip u < lo.toInt then lo.toInt else clip u
    let held := hi.slt lo || (decide (hi.toInt < clip u) && decide (0 < e.toInt)) ||
      (decide (clip u ≤ hi.toInt) && decide (clip u < lo.toInt) && decide (e.toInt < 0))
    ∃ t, exec (.piq w k) s = .next t ∧
      Pushed (written b w [32 + 4 * k.toNat, 33 + 4 * k.toNat, 34 + 4 * k.toNat, 35 + 4 * k.toNat, 12 + k.toNat]
        [(12 + k.toNat, ⟨famTag .q31 m, if held then ig else BitVec.ofInt 32 (clip c)⟩)]) t w 1 1
        [⟨famTag .q31 m, BitVec.ofInt 32 out⟩]) ∧
  (∀ (s b : State) (w : WheelId),
    (∀ (k : BitVec 3) (e : TWord) (f : Nat → TWord), begun s w (0x1108 + k.toNat) [] = some b → k.toNat < 4 → Room b w 1 1 →
      top b w 0 = e → famOf e.tag = some .q31 →
      ∀ l, l = ((List.range 6).map fun i => 32 + 6 * k.toNat + i) ++ [12 + 3 * k.toNat, 13 + 3 * k.toNat, 14 + 3 * k.toNat] →
      (∀ i, i < 9 → frameWord b w (nth 0 l i) = some (f i) ∧
        (famOf (f i).tag = some .q31 ∨ i < 3 ∧ famOf (f i).tag = some .q16)) →
      let v (i : Nat) : Int := (f i).val.toInt
      let g (x : Int) (i : Nat) : Int := nearest (x * v i) (qBits ((famOf (f i).tag).getD .q31))
      let d0 := e.val.toInt - v 8
      let dd := g (clip d0) 2
      let d1 := clip dd - v 7
      let d2 := g (clip d1) 3
      let df := v 7 + clip d2
      let p := g e.val.toInt 0
      let q := g e.val.toInt 1
      let c := v 6 + clip q
      let u := clip p + clip c + clip df
      let m := isS e.tag || (List.range 9).any (fun i => isS (f i).tag) || [d0, dd, d1, d2, df, p, q, c, u].any beyond
      let out : Int := if v 5 < v 4 then v 4 else if v 5 < clip u then v 5 else if clip u < v 4 then v 4 else clip u
      let held := decide (v 5 < v 4) || (decide (v 5 < clip u) && decide (0 < e.val.toInt)) ||
        (decide (clip u ≤ v 5) && decide (clip u < v 4) && decide (e.val.toInt < 0))
      let ig : Int := if held then v 6 else clip c
      ∃ t, exec (.pidq w k) s = .next t ∧
        Pushed (written b w l [(12 + 3 * k.toNat, ⟨famTag .q31 m, BitVec.ofInt 32 ig⟩),
          (13 + 3 * k.toNat, ⟨famTag .q31 m, BitVec.ofInt 32 (clip df)⟩), (14 + 3 * k.toNat, ⟨famTag .q31 m, e.val⟩)]) t w 1 1
          [⟨famTag .q31 m, BitVec.ofInt 32 out⟩]) ∧
    (∀ (i : BitVec 6) (x y st : W32) (m p q : Bool), begun s w (0x1140 + i.toNat) [] = some b → Room b w 1 1 →
      (i.toNat < 12 ∨ 31 < i.toNat → Raises (.slew w i) s b w (exc 2 (intW 0) (0x1140 + i.toNat))) ∧
      (12 ≤ i.toNat → i.toNat ≤ 31 → top b w 0 = ⟨famTag .q31 m, x⟩ → frameWord b w i.toNat = some ⟨famTag .q31 p, y⟩ →
        frameWord b w (i.toNat + 20) = some ⟨famTag .q31 q, st⟩ →
        let step := max 0 st.toInt
        let d := clip (x.toInt - y.toInt)
        let z := y.toInt + max (-step) (min step d)
        let r := qWord .q31 (m || p || q || beyond (x.toInt - y.toInt)) z
        ∃ t, exec (.slew w i) s = .next t ∧ Pushed (written b w [i.toNat, i.toNat + 20] [(i.toNat, r)]) t w 1 1 [r])))

/-- R106, R107: CROSS moves XOUT toward its target by at most XSLEW, and the next XSTATE follows the table. R145, R193: its
checks come before the law. -/
def Obligations.CrossLaw : Prop :=
  (∀ (s b : State) (w : WheelId), begun s w 0x05 [] = some b →
    PrimChecks (.cross w) s b w 0x05 2 [8, 9, 10, 11, 0] fun l f =>
      l.all (fun v => famOf v.tag == some .q31) && [0, 1, 3].all (fun i => famOf (nth emptyW f i).tag == some .q31) &&
        [2, 4].all fun i => (nth emptyW f i).tag == .int) ∧
  ∀ (s b : State) (w : WheelId) (req mea slew zero old : W32) (dw : TWord) (st : W32) (n0 n1 n2 n3 n4 : Bool),
    begun s w 0x05 [] = some b → Room b w 2 1 → top b w 0 = ⟨famTag .q31 n0, req⟩ → top b w 1 = ⟨famTag .q31 n1, mea⟩ →
    frameWord b w 8 = some ⟨famTag .q31 n2, slew⟩ → frameWord b w 9 = some ⟨famTag .q31 n3, zero⟩ → frameWord b w 10 = some dw →
    dw.tag = .int → frameWord b w 11 = some ⟨famTag .q31 n4, old⟩ → frameWord b w 0 = some ⟨.int, st⟩ →
    (bitOf st 2 = false → ∃ t inf, exec (.cross w) s = .next t ∧ (getWheel t w).fault = some (exc 2 inf 0x05) ∧
      ∀ u a, spadRead t u a = spadRead b u a) ∧
    (bitOf st 2 = true → 0 ≤ slew.toInt →
      let agrees := req = 0 ∨ (if bitOf st 3 then req.toInt < 0 else 0 < req.toInt)
      let toward (x : Int) : Int := max (old.toInt - slew.toInt) (min (old.toInt + slew.toInt) x)
      ∀ (out : Int) (x : Nat),
        (fld st 4 2 = 0 ∧ agrees ∧ out = toward req.toInt ∧ x = 0 ∨
         fld st 4 2 = 0 ∧ ¬agrees ∧ out = toward 0 ∧ x = 1 ∨
         fld st 4 2 = 1 ∧ agrees ∧ out = toward req.toInt ∧ x = 0 ∨
         fld st 4 2 = 1 ∧ ¬agrees ∧ out = toward 0 ∧ (out ≠ 0 ∨ zero.toInt < mea.toInt.natAbs) ∧ x = 1 ∨
         fld st 4 2 = 1 ∧ ¬agrees ∧ out = toward 0 ∧ out = 0 ∧ mea.toInt.natAbs ≤ zero.toInt ∧ x = 3 ∨
         2 ≤ fld st 4 2 ∧ out = toward 0 ∧ x = fld st 4 2) →
        ∃ t runs y, exec (.cross w) s = .next t ∧ y = (⟨famTag .q31 (n0 || n1 || n2 || n3 || n4), BitVec.ofInt 32 out⟩ : TWord) ∧
          Pushed (written b w [8, 9, 10, 11, 0] [(11, y), (0, ⟨.int, setFld (setFld st 4 2 x) 25 7 runs⟩)]) t w 2 1 [y] ∧
          runs = if x = 1 then min 0x7F ((if fld st 4 2 = 0 then 0 else fld st 25 7) + 1) else fld st 25 7)

/-- R223, R224: RPT starts a block-repeat of its body or skips it, does not nest, and an iteration's end issues the body
again while the count stands above 1. R227: the words of the first iteration are held from its end on. -/
def Obligations.BlockRepeat : Prop :=
  ∀ (s b : State) (w : WheelId),
    (∀ (n : BitVec 6) (c : TWord), begun s w (0x1180 + n.toNat) [] = some b → Room b w 1 0 → top b w 0 = c →
      (c.tag ≠ .int → ∃ inf, Raises (.rpt w n) s b w (exc 3 inf (0x1180 + n.toNat))) ∧
      (c.tag = .int →
        (regionEnd (cRegion (getWheel b w).pc) < cOff (getWheel b w).pc + n.toNat + 1 →
          Raises (.rpt w n) s b w (exc 4 ⟨.code, (getWheel b w).pc⟩ (0x1180 + n.toNat))) ∧
        (cOff (getWheel b w).pc + n.toNat + 1 ≤ regionEnd (cRegion (getWheel b w).pc) → rptActive (getWheel b w) = true →
          Raises (.rpt w n) s b w (exc 2 (intW 0) (0x1180 + n.toNat))) ∧
        (cOff (getWheel b w).pc + n.toNat + 1 ≤ regionEnd (cRegion (getWheel b w).pc) → rptActive (getWheel b w) = false →
          (c.val.toInt ≤ 0 →
            ∃ t, exec (.rpt w n) s = .next t ∧ Jumped b t w 1 (codeAdd (getWheel b w).pc (n.toNat + 2))) ∧
          (0 < c.val.toInt → ∃ t, exec (.rpt w n) s = .next t ∧ OnlyWheel b t w ∧
            RetiredAs (getWheel b w) (getWheel t w) 1 ∧ depth (getWheel t w) = depth (getWheel b w) - 1 ∧
            rptActive (getWheel t w) = true ∧ rptLen (getWheel t w) = n.toNat + 1 ∧
            (getWheel t w).rpt.start = codeAdd (getWheel b w).pc 1 ∧ (getWheel t w).rpt.cnt = c.val ∧
            (getWheel t w).fetch.rep = [] ∧ (getWheel t w).fetch.repHeld = false)))) ∧
    (∀ n : BitVec 6, begun s w (0x1180 + n.toNat) [] = some b → depth (getWheel b w) = 0 →
      Raises (.rpt w n) s b w (exc 9 (intW 0) (0x1180 + n.toNat))) ∧
    (∀ x y : Wheel, x = getWheel s w → y = (if x.fetch.repSkip then { x with fetch := { x.fetch with repSkip := false } }
        else { x with fetch := { x.fetch with repHeld := true } }) →
      rptActive x = true → x.iterEnd = true →
      (1 < x.rpt.cnt.toNat → ∃ t, exec (.rptIterationEnd w) s = .next t ∧ t = setWheel s w
        { y with rpt := { x.rpt with cnt := x.rpt.cnt - 1 }, pc := x.rpt.start, iterEnd := false }) ∧
      (x.rpt.cnt.toNat ≤ 1 → ∃ t, exec (.rptIterationEnd w) s = .next t ∧ t = setWheel s w
        { y with rpt := {}, iterEnd := false })) ∧
    (rptActive (getWheel s w) = false ∨ (getWheel s w).iterEnd = false →
      ∃ t, exec (.rptIterationEnd w) s = .next t ∧ t = setWheel s w (getWheel s w))

/-- R172, R244, R245, R250: SETMODE's checks and its change that two further retirements bring into effect, and FLUSH,
which empties every held copy of program words. R164, R165, R196: MKADDR keeps the bits, SETDESC writes one entry of
its world's table after its checks, and GETDESC reads one; at user level they raise exception 6. R161: RGET moves the
top entry of both stacks to the operand stack, RPUT moves a RET word of the current world back. -/
def Obligations.SupervisorInstructions : Prop :=
  (∀ (s b : State) (w : WheelId),
    (∀ v : W32, begun s w 0xF1 [] = some b → Room b w 1 0 → top b w 0 = ⟨.int, v⟩ →
      ((getWheel b w).mode.level = false → bitOf v 1 = true ∨ bitOf v 3 ≠ (getWheel b w).mode.compat →
        Raises (.setmode w) s b w (exc 6 (intW 0) 0xF1)) ∧
      ((getWheel b w).mode.level = true ∨ bitOf v 1 = false ∧ bitOf v 3 = (getWheel b w).mode.compat →
        (16 ≤ v.toNat ∨ bitOf v 0 = true → Raises (.setmode w) s b w (exc 2 ⟨.int, v⟩ 0xF1)) ∧
        (v.toNat < 16 → bitOf v 0 = false →
          (2 ≤ ((getWheel b w).pend.filter fun c => 1 < c.cnt).length → Raises (.setmode w) s b w (exc 2 (intW 0) 0xF1)) ∧
          (((getWheel b w).pend.filter fun c => 1 < c.cnt).length < 2 →
            ∀ lvl, lvl = (bitOf v 1 && (getWheel b w).mode.level && (getWheel b w).pend.all (·.level)) →
            ∃ t, exec (.setmode w) s = .next t ∧
              Pushed (modWheel b w fun x => { x with pend := x.pend ++ [⟨lvl, bitOf v 2, bitOf v 3, 3⟩] }) t w 1 1 [] ∧
              (getWheel t w).pend = countDown (getWheel b w).pend ++ [⟨lvl, bitOf v 2, bitOf v 3, 2⟩] ∧
              (getWheel t w).mode = (getWheel b w).mode)))) ∧
    (∀ f : Mode → ModeChg → Mode, (∀ m c, f m c = { m with level := m.level && c.level, tchk := c.tchk, compat := c.compat }) →
      (∀ c : ModeChg, (getWheel s w).pend = [c] → c.cnt = 0 → ∃ t, exec (.modeChangeEffect w) s = .next t ∧
        t = setWheel s w { getWheel s w with pend := [], mode := f (getWheel s w).mode c }) ∧
      (∀ (c d : ModeChg) l, (getWheel s w).pend = c :: d :: l → c.cnt = 0 → ∃ t, exec (.modeChangeEffect w) s = .next t ∧
        t = setWheel s w { getWheel s w with
          pend := if d.cnt = 0 then l else d :: l,
          mode := if d.cnt = 0 then f (f (getWheel s w).mode c) d else f (getWheel s w).mode c }) ∧
      ((getWheel s w).pend = [] ∨ (∃ c l, (getWheel s w).pend = c :: l ∧ 0 < c.cnt) →
        ∃ t, exec (.modeChangeEffect w) s = .next t ∧ t = setWheel s w (getWheel s w))) ∧
    (begun s w 0x03 [] = some b → ∃ t, exec (.flush w) s = .next t ∧ OnlyWheel b t w ∧
      RetiredAs (getWheel b w) (getWheel t w) 1 ∧ (getWheel t w).fetch.line = none ∧ (getWheel t w).fetch.pre = none ∧
      (getWheel t w).fetch.btb = [] ∧ (getWheel t w).fetch.entry = [] ∧ (getWheel t w).fetch.rep = [] ∧
      (getWheel t w).fetch.want = none ∧ (getWheel t w).fetch.preWant = none ∧ (getWheel t w).fetch.reload = true ∧ depth (getWheel t w) = depth (getWheel b w) ∧
      ∀ i, winRd (getWheel t w) i = winRd (getWheel b w) i)) ∧
  (∀ (s b : State) (w : WheelId),
    (∀ c op, (c, op) ∈ [(Instr.mkaddr w, 0xF2), (.setdesc w, 0xF3), (.getdesc w, 0xF4), (.rget w, 0xF5), (.rput w, 0xF6),
        (.pstore w, 0xF7), (.rte w, 0xF0)] → begun s w op [] = some b → (getWheel b w).mode.level = false →
      (getWheel b w).mode.guard = false → Raises c s b w (exc 6 (intW 0) op)) ∧
    ((getWheel b w).mode.level = true →
      (∀ n : W32, begun s w 0xF2 [] = some b → top b w 0 = ⟨.int, n⟩ → Pushes (.mkaddr w) s b w 1 1 [⟨.addr, n⟩]) ∧
      (∀ lo hi i : W32, begun s w 0xF3 [] = some b → Room b w 3 0 → top b w 0 = ⟨.int, i⟩ → top b w 1 = ⟨.int, hi⟩ →
        top b w 2 = ⟨.int, lo⟩ →
        (i.toNat = 0 ∨ 255 < i.toNat → Raises (.setdesc w) s b w (exc 2 ⟨.int, i⟩ 0xF3)) ∧
        (0 < i.toNat → i.toNat ≤ 255 → ∀ d : W64, d = hi ++ lo →
          let bad : Prop := 3 < sgSpace d ∨ (sgSpace d ≠ 0 ∧ hi.toNat ≥ 0x1000000) ∨ sgSpace d = 1 ∧ 0x5FFF < sgBase d + sgLimit d ∨
            sgSpace d = 2 ∧ (0x3FFFFF < sgBase d + sgLimit d ∨ ∃ k, sgBase d / 0x40000 ≤ k ∧
              k ≤ (sgBase d + sgLimit d) / 0x40000 ∧ k < 16 ∧ bankOn b k = false) ∨
            sgSpace d = 3 ∧ (0xFFFFFF < sgBase d + sgLimit d ∨ (getWheel b w).mode.world = false)
          (bad → Raises (.setdesc w) s b w (exc 2 ⟨.int, hi⟩ 0xF3)) ∧
          (¬bad →
            ∃ t, exec (.setdesc w) s = .next t ∧ segEnt t (getWheel b w).mode.world i.toNat = d ∧
              (∀ m j, (m, j) ≠ ((getWheel b w).mode.world, i.toNat) → segEnt t m j = segEnt b m j) ∧
              depth (getWheel t w) = depth (getWheel b w) - 3 ∧ RetiredAs (getWheel b w) (getWheel t w) 1))) ∧
      (∀ i : W32, begun s w 0xF4 [] = some b → top b w 0 = ⟨.int, i⟩ → i.toNat ≤ 255 →
        ∀ d, d = segEnt b (getWheel b w).mode.world i.toNat →
          Pushes (.getdesc w) s b w 1 1 [⟨.int, d.setWidth 32⟩, ⟨.int, (d >>> 32).setWidth 32⟩]))) ∧
  (∀ (s b : State) (w : WheelId) (x : Wheel) (r : W32), x = getWheel b w → x.mode.level = true → x.mode.guard = false →
    (∀ rs, begun s w 0xF5 [] = some b → Room b w 0 1 → x.rstack = r :: rs → x.rstack.length ≠ x.floor → 0 < shDepth x →
      (rtWorld r ≠ x.mode.world → Raises (.rget w) s b w (exc 6 (intW 0) 0xF5)) ∧
      (rtWorld r = x.mode.world → tget .ok x.spad.ecc (shBase x + (shDepth x - 1)) = .ok →
        (spadRead b w (shBase x + (shDepth x - 1)) ≠ some ⟨.ret, r⟩ →
          Raises (.rget w) s b w (exc 7 ⟨.ret, r⟩ 0xF5)) ∧
        (spadRead b w (shBase x + (shDepth x - 1)) = some ⟨.ret, r⟩ →
          ∃ t, exec (.rget w) s = .next t ∧ OnlyWheel b t w ∧ RetiredAs x (getWheel t w) 1 ∧
            (getWheel t w).rstack = rs ∧ shDepth (getWheel t w) = shDepth x - 1 ∧ (getWheel t w).sd = x.sd + 1 ∧
            winRd (getWheel t w) (32 + x.sd) = ⟨.ret, r⟩ ∧
            ∀ i, i < 32 + x.sd → winRd (getWheel t w) i = winRd x i))) ∧
    (begun s w 0xF6 [] = some b → Room b w 1 0 →
      ((top b w 0).tag ≠ .ret → ∃ inf, Raises (.rput w) s b w (exc 3 inf 0xF6)) ∧
      (top b w 0 = ⟨.ret, r⟩ →
        let other : Prop := atFloor x = false ∧ rtWorld (nth 0 x.rstack 0) ≠ x.mode.world
        (other ∨ rtWorld r ≠ x.mode.world → Raises (.rput w) s b w (exc 6 (intW 0) 0xF6)) ∧
        (¬other → rtWorld r = x.mode.world → 64 ≤ x.rstack.length → Raises (.rput w) s b w (exc 8 (intW 0) 0xF6)) ∧
        (¬other → rtWorld r = x.mode.world → x.rstack.length < 64 →
          ∃ t, exec (.rput w) s = .next t ∧ OnlyWheel b t w ∧ RetiredAs x (getWheel t w) 1 ∧
            (getWheel t w).rstack = r :: x.rstack ∧ shDepth (getWheel t w) = shDepth x + 1 ∧
            spadRead t w (shBase x + shDepth x) = some ⟨.ret, r⟩ ∧ (getWheel t w).sd = x.sd - 1))))

/-- R196, R248, R490, R491: PSTORE writes one instruction word of the mill's slice or of a pinned store, and no copy that a
wheel already holds; a word above 14 bits or a failed line raises its exception. A program-store word is written by a line
write: it begins with its retained record, the slice switches the line, and at its completion the slice answers the new word
and the PSTORE retires; without VPS it stands still. R305 to R308: FCALL enters the service of
FENTRY, noting the caller in FEXIT, and FRET takes it back. -/
def Obligations.ProgramStoreAndFastCalls : Prop :=
  (∀ (s b : State) (w : WheelId) (v c : W32), begun s w 0xF7 [] = some b → Room b w 2 0 →
    (getWheel b w).mode.level = true → top b w 0 = ⟨.code, c⟩ → top b w 1 = ⟨.int, v⟩ →
    (Target b w c → 0x4000 ≤ v.toNat → Raises (.pstore w) s b w (exc 2 ⟨.int, v⟩ 0xF7)) ∧
    (Target b w c → v.toNat < 0x4000 → cRegion c = 0 → badLine b (millOf w) (lineOf c) = true →
      Raises (.pstore w) s b w (exc 14 (intW (lineOf c)) 0xF7)) ∧
    (Target b w c → v.toNat < 0x4000 → cRegion c = 0 → badLine b (millOf w) (lineOf c) = false →
      ∃ t, exec (.pstore w) s = .next t ∧
        Waits (modMill (pstoreBegin b (millOf w) (lineOf c) w false) (millOf w) fun m => { m with switched := false }) t w
          (.pstore (cOff c) (BitVec.ofNat 14 v.toNat) false)) ∧
    (Target b w c → v.toNat < 0x4000 → cRegion c ≠ 0 →
      ∃ t, exec (.pstore w) s = .next t ∧ RetiredAs (getWheel b w) (getWheel t w) 1 ∧
        ∀ u o, ramGet 0 (getWheel t u).pinned o =
          if u = pinHost w (cRegion c) ∧ o = cOff c then BitVec.ofNat 14 v.toNat else ramGet 0 (getWheel b u).pinned o)) ∧
  (∀ (s : State) (w : WheelId) (o : Nat) (v : BitVec 14) (k : Bool), (getWheel s w).stall = .pstore o v k →
    (running s = false ∨ s.rst.vps = false → exec (.pstore w) s = .next s) ∧
    (running s = true → s.rst.vps = true →
      (k = false → exec (.pstore w) s = .next (modMill (modWheel s w fun x => { x with stall := .pstore o v true }) (millOf w)
        fun m => { m with switched := true })) ∧
      (k = true → (getWheel s w).draining = false → 2 ≤ depth (getWheel s w) → depth (getWheel s w) ≤ 32 →
        ∃ t, exec (.pstore w) s = .next t ∧ RetiredAs (getWheel s w) (getWheel t w) 1 ∧ (getWheel t w).stall = .none ∧
          depth (getWheel t w) = depth (getWheel s w) - 2 ∧
          (∀ m a, tget 0 (getMill t m).slice a =
            if m = millOf w ∧ a = o then v else tget 0 (getMill s m).slice a) ∧
          retVal t (0x700 + millOf w) = retVal s (0x700 + millOf w) / 2 * 2 ∧
          (getWheel t w).fetch.line = (getWheel s w).fetch.line ∧ (getWheel t w).fetch.btb = (getWheel s w).fetch.btb ∧
          ((getWheel s w).fetch.preWant = none → (getWheel t w).fetch = (getWheel s w).fetch) ∧
          ∀ u, u ≠ w.val → getWheel t u = getWheel s u))) ∧
  (∀ (s b : State) (w : WheelId) (x : Wheel), x = getWheel b w → x.mode.guard = false → x.pend = [] →
    (∀ d : W64, begun s w 0xF8 [] = some b → d = (if x.mode.world then b.fentS else b.fentC) →
      (bitOf d 20 = false ∨ x.mode.level = false ∧ bitOf d 24 = false ∨ x.mode.world = false ∧ feWorld d = true →
        Raises (.fcall w) s b w (exc 6 (intW 0) 0xF8)) ∧
      (bitOf d 20 = true → x.mode.level = true ∨ bitOf d 24 = true → x.mode.world = true ∨ feWorld d = false →
        ((fexitOf x (feWorld d)).valid = true → Raises (.fcall w) s b w (exc 8 (intW 0) 0xF8)) ∧
        ((fexitOf x (feWorld d)).valid = false →
          (x.sd < feNarg d → Raises (.fcall w) s b w (exc 9 (intW 0) 0xF8)) ∧
          (feNarg d ≤ x.sd → feRegion d < 2 → (feRegion d = 1 → feOffset d ≤ 0xFFF) →
            ∃ t, exec (.fcall w) s = .next t ∧ OnlyWheel b t w ∧
              (getWheel t w).pc = mkCode (feRegion d) (millOf w) (feOffset d) ∧
              (getWheel t w).mode = { world := feWorld d, level := true, tchk := bitOf d 22, compat := bitOf d 23 } ∧
              (getWheel t w).floor = x.rstack.length ∧ (getWheel t w).sd = x.sd ∧
              (∀ i, winRd (getWheel t w) i = winRd x i) ∧ (getWheel t w).spad = x.spad ∧
              fexitOf (getWheel t w) (feWorld d) =
                ⟨true, (codeAdd x.pc 1).setWidth 24, x.mode, x.sd - feNarg d, feNres d, x.floor⟩)))) ∧
    (∀ f, begun s w 0xF9 [] = some b → x.mode.level = true → f = fexitOf x x.mode.world →
      (f.valid = false → Raises (.fret w) s b w (exc 6 (intW 0) 0xF9)) ∧
      (f.valid = true → x.sd ≠ f.floor + f.nres → Raises (.fret w) s b w (exc 2 (intW 0) 0xF9)) ∧
      (f.valid = true → x.sd = f.floor + f.nres → x.rstack.length ≠ x.floor →
        Raises (.fret w) s b w (exc 7 (intW 0) 0xF9)) ∧
      (f.valid = true → x.sd = f.floor + f.nres → x.rstack.length = x.floor → f.mode.guard = false →
        ∃ t, exec (.fret w) s = .next t ∧ OnlyWheel b t w ∧ (getWheel t w).pc = f.ret.setWidth 32 ∧
          (getWheel t w).mode = f.mode ∧ (getWheel t w).floor = f.rfl ∧ (getWheel t w).sd = x.sd ∧
          (fexitOf (getWheel t w) x.mode.world).valid = false ∧ ∀ i, winRd (getWheel t w) i = winRd x i)))

/-- R178, R199: a word that the opcode map leaves undefined raises exception 1. R253 to R266: so does a custom opcode
whose entry is not enabled, and one whose entry's microword adds NOS and TOS and ends pushes their sum. -/
def Obligations.UndefinedAndCustom : Prop :=
  ∀ (s b : State) (w : WheelId),
    (∀ u : BitVec 14, opLen u.toNat = none → begun s w u.toNat [] = some b →
      Raises (.undefinedOpcode w u) s b w (exc 1 (intW 0) u.toNat)) ∧
    ∀ (f : BitVec 11) (d : W64), begun s w (0x3800 + f.toNat) [] = some b →
      d = tget 0 (getMill b (millOf w)).cdt (f.toNat / 64) →
      (cdtEn d = false → Raises (.customOpcode w f) s b w (exc 1 (intW 0) (0x3800 + f.toNat))) ∧
      (cdtEn d = true → csOn b (millOf w) = true →
        (cdtFmax d < f.toNat % 64 → Raises (.customOpcode w f) s b w (exc 2 (intW 0) (0x3800 + f.toNat))) ∧
        (f.toNat % 64 ≤ cdtFmax d → bitOf d 34 = true → (getWheel b w).mode.level = false →
          Raises (.customOpcode w f) s b w (exc 6 (intW 0) (0x3800 + f.toNat))) ∧
        (f.toNat % 64 ≤ cdtFmax d → bitOf d 34 = false → bitOf d 35 = false → cdtPop d = 2 → cdtPush d = 1 →
          cdtCls d 0 = 0 → cdtCls d 1 = 0 →
          tget 0 (getMill b (millOf w)).cstore (0x1000 + cdtEntry d) =
            BitVec.ofNat 112 (0x2000 + 3 * 2 ^ 33 + 2 * 2 ^ 41 + 2 ^ 45 + 6 * 2 ^ 52) →
          ∀ x y, top b w 1 = ⟨.int, x⟩ → top b w 0 = ⟨.int, y⟩ → Room b w 2 1 →
            ∃ t, exec (.customOpcode w f) s = .next t ∧ Pushed (takeFree b) t w 2 1 [⟨.int, x + y⟩]))

/-- R296 to R299: an exception whose entry passes its checks enters the handler of its descriptor: the window moves as
ENTER 0 moves it, the record holds the resume address, MODE, WIN, STK, CAUSE and INFO, and MODE, SD, the floor, the
busy flag and the active record become the handler's. R298, R299: where the words of the saved state stand. -/
def Obligations.ExceptionEntry : Prop :=
  (∀ (s : State) (w : WheelId) (x y : Wheel) (k : Taken) (r : DRef) (d g : W64), x = getWheel (settle s w) w →
    wheelLive (settle s w) w = true → x.halted = false → x.stall = .none → x.parked = false → x.faultParked = false →
    x.mode.guard = false → choose (settle s w) x = some (k, y) → r = ⟨k.num, k.world⟩ → d = descr (settle s w) r →
    g = segEnt (settle s w) (dWorld d) (dStack d) → x.sd ≤ 32 → x.rf ≤ x.vb →
    dValid d = true → (k.cls = 0 → isBusy y r = false) → dRegion d < 2 → fld d 40 24 = 0 → dOffset d ≤ regionEnd (dRegion d) →
    sgSpace g = 1 → sgRd g = true → sgWr g = true → sgPtr g = true → 0x17 ≤ sgLimit g → sgBase g + 0x17 ≤ 0x5FFF →
    x.vb + 32 + x.sd + 64 ≤ 4608 →
    ∃ t z, exec (.exceptionEntry w) s = .next t ∧ z = getWheel t w ∧
      z.pc = mkCode (dRegion d) (millOf w) (dOffset d) ∧
      z.mode = { world := dWorld d, level := dLevel d, tchk := dTchk d, compat := dCompat d } ∧ z.pend = [] ∧
      z.vb = x.vb + 32 + x.sd ∧ z.sd = 0 ∧ (∀ i, i < 32 → winRd z i = emptyW) ∧
      z.active = some r ∧ z.floor = x.rstack.length ∧ z.rstack = x.rstack ∧ z.blk = {} ∧ z.rpt = {} ∧ z.frm = x.frm ∧
      (∀ i, i < 24 → spadRead t w (sgBase g + i) =
        some (nth emptyW (recordOf y false (causeWord k.num k.cls 0 r) k.info k.info2 0) i)) ∧
      (∀ v, x.rf ≤ v → v < z.rf → spadRead t w (0x6000 + v) = some (tget emptyW x.regs (v % 512))) ∧
      (∀ a, a < 0x6000 → (a < sgBase g ∨ sgBase g + 0x17 < a) → spadRead t w a = spadRead s w a) ∧
      t.mp = s.mp ∧ t.sails = s.sails ∧ ∀ u, u ≠ w.val → getWheel t u = getWheel s u) ∧
  (∀ (x : Wheel) (c gact : Nat) (i1 i2 : TWord) (l : List TWord),
    (l = recordOf x false c i1 i2 gact → l.length = 24 ∧ nth emptyW l 0 = ⟨.code, x.pc⟩ ∧
      nth emptyW l 4 = intW c ∧ nth emptyW l 5 = i1 ∧ nth emptyW l 6 = i2 ∧ nth emptyW l 20 = intW gact ∧
      (x.vb < 0x2000 → x.sd ≤ 32 → x.floor ≤ 64 → rf l 2 0 13 = x.vb ∧ rf l 2 13 6 = x.sd ∧ rf l 2 19 7 = x.floor) ∧
      (x.rstack.length ≤ 64 → x.csd ≤ 64 → x.ssd ≤ 64 → x.frm < 16 →
        rf l 3 0 7 = x.rstack.length ∧ rf l 3 7 7 = x.csd ∧ rf l 3 14 7 = x.ssd ∧ rf l 3 21 4 = x.frm ∧ recParked l = false) ∧
      (x.pend = [] → recModeOf l = { x.mode with guard := false } ∧ recPend l = []) ∧
      (∀ r : DRef, x.active = some r → r.idx < 64 → recPrev l = some r) ∧ (x.active = none → recPrev l = none) ∧
      (blkActive x = true → (nth emptyW l 8).val = x.blk.ctl ∧ nth emptyW l 9 = x.blk.src ∧ nth emptyW l 10 = x.blk.dst ∧
        (nth emptyW l 11).val = x.blk.rem ∧ (nth emptyW l 12).val = x.blk.done ∧ nth emptyW l 13 = x.blk.x) ∧
      (rptActive x = true → (nth emptyW l 17).val = x.rpt.ctl ∧ nth emptyW l 18 = ⟨.code, x.rpt.start⟩ ∧
        (nth emptyW l 19).val = x.rpt.cnt)) ∧
    (l = recordOf x true c i1 i2 gact → recParked l = true ∧ nth emptyW l 0 = intW 0 ∧ nth emptyW l 1 = intW 0 ∧
      nth emptyW l 2 = intW 0))

/-- R294, R312, R98, R99: what a wheel takes at a boundary. Its own fault goes first; then asynchronous faults 18, 17 and 12
below priority 8, where exception 18 of a wake that is still pending waits for the parked wheel; then the pending event of
the highest priority above the current one. The guard handler takes only its own fault. R296, R309, R310, R314: an entry
whose check fails escalates to the guard handler, whose record goes to retained memory with GACT 1; a fault of the guard
handler is a lock-up, which stops the wheel and raises its reset source. -/
def Obligations.ExceptionChoice : Prop :=
  (∀ (s : State) (x : Wheel),
    (∀ e, x.fault = some e → ∃ k, choose s x = some (k, { x with fault := none }) ∧ k.num = e.num ∧ k.cls = 0 ∧
      k.info = e.info ∧ k.info2 = e.info2 ∧ (e.num ≠ 12 → x.faultParked = false → k.world = x.mode.world)) ∧
    (x.fault = none →
      (x.mode.guard = true → choose s x = none) ∧
      (x.mode.guard = false → x.fresh = false →
        (∀ key c p l, x.exc18 = (key, c, p) :: l → x.parked = true ∨ p = false → curPri s x < 8 → isBusy x ⟨18, false⟩ = false →
          ∃ k, choose s x = some (k, { x with exc18 := l }) ∧ k.num = 18 ∧ k.cls = 1 ∧ k.world = false ∧
            k.info = ⟨.int, key⟩ ∧ k.info2 = ⟨.int, c⟩) ∧
        ((∀ q ∈ x.exc18, x.parked = false ∧ q.2.2 = true) → x.exc17 = true → curPri s x < 8 → isBusy x ⟨17, true⟩ = false →
          ∃ k, choose s x = some (k, { x with exc17 := false }) ∧ k.num = 17 ∧ k.cls = 1 ∧ k.world = true) ∧
        (∀ a v l, (∀ q ∈ x.exc18, x.parked = false ∧ q.2.2 = true) → x.exc17 = false → x.exc12 = (a, v) :: l → curPri s x < 8 → isBusy x ⟨12, true⟩ = false →
          (x.mode.world = true → ∃ k, choose s x = some (k, { x with exc12 := l }) ∧ k.num = 12 ∧ k.cls = 1 ∧ k.info = a)) ∧
        ((∀ q ∈ x.exc18, x.parked = false ∧ q.2.2 = true) → x.exc17 = false → x.exc12 = [] →
          (∀ k y, choose s x = some (k, y) → k.cls = 2 ∧ 32 ≤ k.num ∧ k.num ≤ 48 ∧
            (tget none x.events k.num).isSome = true ∧ isBusy x ⟨k.num, evWorld x k.num⟩ = false ∧
            curPri s x < dPri (descr s ⟨k.num, evWorld x k.num⟩) ∧
            ∀ e, 32 ≤ e → e ≤ 48 → (tget none x.events e).isSome = true → isBusy x ⟨e, evWorld x e⟩ = false →
              dPri (descr s ⟨e, evWorld x e⟩) < dPri (descr s ⟨k.num, evWorld x k.num⟩) ∨ k.num ≤ e ∨
              dPri (descr s ⟨e, evWorld x e⟩) ≤ curPri s x) ∧
          (choose s x = none → ∀ e, 32 ≤ e → e ≤ 48 → (tget none x.events e).isSome = true →
            isBusy x ⟨e, evWorld x e⟩ = true ∨ dPri (descr s ⟨e, evWorld x e⟩) ≤ curPri s x))))) ∧
  (∀ (s : State) (w : WheelId) (x : Wheel) (e : Exc), x = getWheel (settle s w) w → wheelLive (settle s w) w = true →
    x.halted = false → x.stall = .none → x.fault = some e →
    (x.mode.guard = false → x.parked = false → x.faultParked = false → e.num ≠ 12 → ∀ r : DRef, r = ⟨e.num, x.mode.world⟩ →
      dValid (descr (settle s w) r) = false →
      ∃ t z, exec (.exceptionEntry w) s = .next t ∧ z = getWheel t w ∧ z.mode.guard = true ∧ z.mode.level = true ∧
        z.mode.world = x.mode.world ∧ z.mode.tchk = false ∧ z.mode.compat = false ∧ z.pend = [] ∧ z.gsd = 0 ∧
        z.pc = mkCode 2 (millOf w) 0 ∧ z.floor = x.rstack.length ∧ z.active = x.active ∧ z.busyC = x.busyC ∧
        z.fault = none ∧ (∀ i, i < 32 → winRd z i = emptyW) ∧ z.regs = x.regs ∧ z.spad.cells = x.spad.cells ∧
        retRead t (0x18 * w + 4) = some (intW (causeWord e.num 3 1 r)) ∧ retRead t (0x18 * w + 5) = some e.info ∧
        retRead t (0x18 * w + 6) = some e.info2 ∧ retRead t (0x18 * w + 20) = some (intW 1) ∧
        retRead t (0x18 * w) = some ⟨.code, x.pc⟩) ∧
    (x.mode.guard = true →
      ∃ t z, exec (.exceptionEntry w) s = .next t ∧ z = getWheel t w ∧ z.lockup = true ∧ z.fault = none ∧
        (∃ q ∈ t.rst.reqs, q.src = 9) ∧ canIssue t w = false))

/-- R300, R301: RTE from a record of a parked wheel parks the wheel again, with the record's frame register; from any other
record that passes it restores the window, the mode with its pending changes, the block and repeat
registers, the frame register and the floor, frees the descriptor and goes to the resume address; the checks of orders
1 to 5 raise their exception and restore nothing. -/
def Obligations.ReturnFromException : Prop :=
  ∀ (s b : State) (w : WheelId) (x : Wheel), begun s w 0xF0 [] = some b → x = getWheel b w → x.mode.guard = false →
    x.mode.level = true →
    (x.active = none → x.pend = [] → Raises (.rte w) s b w (exc 6 (intW 0) 0xF0)) ∧
    (x.active = none → x.pend ≠ [] → Raises (.rte w) s b w (exc 2 (intW 0) 0xF0)) ∧
    ∀ (r : DRef) (d g : W64) (l : List TWord), x.active = some r → d = descr b r → g = segEnt b (dWorld d) (dStack d) →
      sgBase g + 0x17 ≤ 0x7FFF → l.length = 24 → (∀ i, i < 24 → spadRead b w (sgBase g + i) = some (nth emptyW l i)) →
      (∀ i, i < 24 → tget .ok x.spad.ecc (sgBase g + i) = .ok) → x.pend = [] →
      (x.mode.world ≠ dWorld d → Raises (.rte w) s b w (exc 6 (intW 0) 0xF0)) ∧
      (x.mode.world = dWorld d →
        ((fexitOf x x.mode.world).valid = true → Raises (.rte w) s b w (exc 2 (intW 0) 0xF0)) ∧
        ((fexitOf x x.mode.world).valid = false →
          (x.vb ≠ rf l 2 0 13 + 32 + rf l 2 13 6 → Raises (.rte w) s b w (exc 2 (intW 0) 0xF0)) ∧
          (x.vb = rf l 2 0 13 + 32 + rf l 2 13 6 →
            (rf l 3 0 7 ≠ x.rstack.length ∨ rf l 3 7 7 ≠ x.csd ∨ rf l 3 14 7 ≠ x.ssd →
              Raises (.rte w) s b w (exc 7 (intW 0) 0xF0)) ∧
            (rf l 3 0 7 = x.rstack.length → rf l 3 7 7 = x.csd → rf l 3 14 7 = x.ssd →
              recMalformed x w l false = false → recForbidden d l = false → recParked l = false → x.rf ≤ x.vb →
              ∃ t y, exec (.rte w) s = .next t ∧ y = getWheel t w ∧ y.pc = (nth emptyW l 0).val ∧
                y.mode = recModeOf l ∧ y.pend = recPend l ∧ y.vb = rf l 2 0 13 ∧ y.sd = rf l 2 13 6 ∧
                y.floor = rf l 2 19 7 ∧ y.frm = rf l 3 21 4 ∧ y.active = recPrev l ∧ isBusy y r = false ∧
                y.rstack = x.rstack ∧ y.blk.ctl = (nth emptyW l 8).val ∧ y.blk.src = nth emptyW l 9 ∧
                y.blk.dst = nth emptyW l 10 ∧ y.blk.rem = (nth emptyW l 11).val ∧ y.blk.x = nth emptyW l 13 ∧
                y.rpt.ctl = (nth emptyW l 17).val ∧ y.rpt.start = (nth emptyW l 18).val ∧
                y.rpt.cnt = (nth emptyW l 19).val ∧ y.rf = min x.rf y.vb ∧
                (∀ v, y.vb ≤ v → v < x.rf → tget emptyW y.regs (v % 512) = (spadRead b w (0x6000 + v)).getD poisonW) ∧
                (∀ v, x.rf ≤ v → v < y.vb + 96 → tget emptyW y.regs (v % 512) = tget emptyW x.regs (v % 512)) ∧
                ∀ a, spadRead t w a = spadRead b w a) ∧
            (rf l 3 0 7 = x.rstack.length → rf l 3 7 7 = x.csd → rf l 3 14 7 = x.ssd →
              recMalformed x w l false = false → recForbidden d l = false → recParked l = true → x.run = none → x.ffNow = [] →
              (∀ e, (getWake b w e).pend = false) →
              ∃ t y, exec (.rte w) s = .next t ∧ y = getWheel t w ∧ y.parked = true ∧ y.frm = rf l 3 21 4 ∧ y.mode = {} ∧
                y.sd = 0 ∧ y.vb = 0 ∧ y.rstack = [] ∧ y.active = recPrev l ∧ isBusy y r = false ∧
                ∀ a, spadRead t w a = spadRead b w a))))

/-- R53 to R55, R119, R120, R467: a leat word updates its leat's record and wakes the entries bound to it: each gets the
word in its latch stage, tagged SAMPLE or POISON. A word with CAL = 1 wakes none. A cluster in reset takes no word
(R479). Where the step of a command is not enabled, that the command changes nothing is the model's choice (log 13). -/
def Obligations.LeatWords : Prop :=
  ∀ (s : State) (n : Fin 256) (d : W32), running s = true →
    (leatHeld s n = true → exec (.leatWord n d) s = .next s) ∧
    ∀ gap : Bool, gap = ((getLeat s n).seen && fld d 20 8 != ((getLeat s n).seq.toNat + 1) % 256) → leatHeld s n = false →
      (bitOf d 18 = true → s.readback = none ∨ s.rbRetry = true →
        ∃ t, exec (.leatWord n d) s = .next t ∧ (getLeat t n).seq.toNat = fld d 20 8 ∧
          (getLeat t n).last.toNat = fld d 0 16 ∧ t.order = s.order ∧
          (∀ w e, getWake t w e = getWake s w e) ∧ t = { s with leats := t.leats, wheels := t.wheels }) ∧
      (bitOf d 18 = false →
        ∃ t, exec (.leatWord n d) s = .next t ∧ t = { s with leats := t.leats, wheels := t.wheels, order := s.order + 1 } ∧
          (getLeat t n).seq.toNat = fld d 20 8 ∧ (getLeat t n).last.toNat = fld d 0 16 ∧ (getLeat t n).seen = true ∧
          (getLeat t n).failseen = ((getLeat s n).failseen || bitOf d 16) ∧
          (getLeat t n).ovrseen = ((getLeat s n).ovrseen || bitOf d 17) ∧
          (getLeat t n).lost = (getLeat s n).lost ∧
          (getLeat t n).seqerr = (if gap then min 255 ((getLeat s n).seqerr + 1) else (getLeat s n).seqerr) ∧
          (∀ m, m ≠ n.val → getLeat t m = getLeat s m) ∧
          ∀ (w : WheelId) (e : Fin 16), getWake t w e = { getWake s w e with
            latch := if (getWake s w e).en ∧ (getWake s w e).src = false ∧ (getWake s w e).idx = n.val
              then (getWake s w e).latch ++ [(⟨if bitOf d 16 then .poison else .sample, d % 0x10000000⟩, s.order)]
              else (getWake s w e).latch })

/-- R93, R134: the wake cycle of a boundary takes the staged feed-forward values whose deadline has come: they are the frame's
values at once where no instruction issues in that cycle, and from the second instruction on where the wake starts a run.
R82, R83, R86, R105: an occurrence that reaches an entry is counted; the one that completes a group of DIV + 1 sets
PEND with its word, and one that finds PEND set replaces the word, keeps the earlier wake, and is counted LOST on its
leat. An entry whose mode pair does not admit it drops the wake. R83, R87, R543: a wake of a parked wheel that has no
other pending entry is dispatched at once: the run begins with the state of R87 at the entry point, or the wheel holds
the exception of R543 for the entry point's word. -/
def Obligations.WakesAndDispatch : Prop :=
  (∀ (s : State) (w : WheelId) (e : Fin 16) (n : WakeEnt) (v : TWord) (o : Nat) (l : List (TWord × Nat)),
    running s = true → millRuns s (millOf w) = true → n = getWake s w e → n.latch = (v, o) :: l →
    (∀ p ∈ (getWheel s w).ffDue, p.occ ≠ o) →
    (n.en = false → ∃ t, exec (.wake w e) s = .next t ∧ OnlyWheel s t w ∧ getWake t w e = { n with latch := l }) ∧
    (n.en = true →
      (n.cnt < n.div →
        ∃ t, exec (.wake w e) s = .next t ∧ OnlyWheel s t w ∧ getWake t w e = { n with latch := l, cnt := n.cnt + 1 } ∧
          getWheel t w = { getWheel s w with wakes := (getWheel t w).wakes }) ∧
      (n.div ≤ n.cnt → pairOk s w n = false →
        ∃ t, exec (.wake w e) s = .next t ∧ OnlyWheel s t w ∧ getWake t w e = { n with latch := l, cnt := 0 } ∧
          getWheel t w = { getWheel s w with wakes := (getWheel t w).wakes }) ∧
      (n.div ≤ n.cnt → pairOk s w n = true →
        (n.pend = false → canDispatch s w = false →
          ∃ t, exec (.wake w e) s = .next t ∧ OnlyWheel s t w ∧
            getWake t w e = { n with latch := l, cnt := 0, pend := true, word := v, stamp := o, wakeAt := s.ring_time,
                                     expired := false, taken := [] } ∧
            (∀ i, i ≠ e.val → getWake t w i = getWake s w i) ∧
            getWheel t w = { getWheel s w with wakes := (getWheel t w).wakes }) ∧
        (n.pend = true →
          ∃ t, exec (.wake w e) s = .next t ∧ getWake t w e = { n with latch := l, cnt := 0, word := v } ∧
            (∀ i, i ≠ e.val → getWake t w i = getWake s w i) ∧
            (n.src = false → n.idx < 256 →
              (getLeat t n.idx).lost = min 255 ((getLeat s n.idx).lost + 1) ∧ ∀ m, m ≠ n.idx → getLeat t m = getLeat s m) ∧
            (n.src = true ∨ 256 ≤ n.idx → t.leats = s.leats) ∧
            (bitOf (getWheel s w).evcfg 1 = true → (tget none (getWheel t w).events 33).isSome = true) ∧
            t = { s with wheels := t.wheels, leats := t.leats } ∧
            ∀ u, u ≠ w.val → getWheel t u = getWheel s u)))) ∧
  (∀ (s : State) (w : WheelId) (e : Fin 16) (n : WakeEnt) (v : TWord) (o : Nat) (l : List (TWord × Nat)) (a : Nat),
    running s = true → millRuns s (millOf w) = true → n = getWake s w e → n.latch = (v, o) :: l → n.en = true →
    n.div ≤ n.cnt → pairOk s w n = true → n.pend = false → n.frame < 16 → canDispatch s w = true →
    (∀ i, (getWake s w i).pend = false) → (∀ q ∈ (getWheel s w).exc18, q.2.2 = false) → (getMill s (millOf w)).trace.en = false →
    a = frameAddr n.frame (if n.dir then 6 else 5) → tget .ok (getWheel s w).spad.ecc a = .ok →
    (∀ p ∈ (getWheel s w).ffDue, p.occ ≠ o) →
    ∃ t x, exec (.wake w e) s = .next t ∧ x = getWheel t w ∧
      t = { s with wheels := t.wheels, frames := t.frames, mills := t.mills } ∧ (∀ m, getMill t m = getMill s m) ∧
      (∀ u, u ≠ w.val → getWheel t u = getWheel s u) ∧ (getWake t w e).pend = false ∧ (getWake t w e).latch = l ∧
      x.parked = false ∧ x.mode = {} ∧ x.vb = 0 ∧ x.rstack = [] ∧ x.csd = 0 ∧ x.ssd = 0 ∧ x.frm = n.frame ∧ x.pend = [] ∧
      x.spad = (getWheel s w).spad ∧ x.pinned = (getWheel s w).pinned ∧
      (∃ r, x.run = some r ∧ r.entry = e.val ∧ r.frame = n.frame ∧ r.dir = n.dir ∧ r.wakeAt = s.ring_time ∧
        r.expired = false ∧ r.written = [] ∧ r.taken = []) ∧
      (∀ i, i < 32 → winRd x i = tget emptyW (getWheel s w).regs i) ∧
      ∀ p, p = spadWord s w a →
        (p.tag = .code → Target s w p.val → cRegion p.val < 2 →
          x.fault = none ∧ x.pc = p.val ∧ x.sd = 1 ∧ winRd x 32 = v) ∧
        (p.tag ≠ .code → x.sd = 0 ∧ x.faultParked = true ∧
          x.fault = some ⟨3, intW (tagCode p.tag + 0x30), intW (n.frame + 16 * e)⟩) ∧
        (p.tag = .code → cMill p.val ≠ millOf w → x.sd = 0 ∧ x.faultParked = true ∧
          x.fault = some ⟨4, p, intW (n.frame + 16 * e)⟩)) ∧
  (∀ (s : State) (w : WheelId) (e : Fin 16) (n : WakeEnt) (v : TWord) (o : Nat) (l : List (TWord × Nat)) (p : FfDue),
    running s = true → millRuns s (millOf w) = true → n = getWake s w e → n.latch = (v, o) :: l → n.en = true →
    n.div ≤ n.cnt → pairOk s w n = true → n.pend = false → (getWheel s w).ffNow = [] →
    ((getWheel s w).ffDue.find? fun q => q.occ == o) = some p →
    (canDispatch s w = false → (getWheel s w).fresh = false →
      ∃ t, exec (.wake w e) s = .next t ∧ (getWake t w e).pend = true ∧ (getWheel t w).ffDue = (getWheel s w).ffDue.erase p ∧
        ∀ k r, k < 64 → tget none (getWheel s w).staged k = some r → fsTb s w (k / 4) = p.tb →
          (r.it.deadline ≤ p.now → fw t w (k / 4) (60 + k % 4) = r.val ∧ tget none (getWheel t w).staged k = none ∧
            tget none (getWheel t w).applied k = some (keyOf r.it)) ∧
          (p.now < r.it.deadline → fw t w (k / 4) (60 + k % 4) = fw s w (k / 4) (60 + k % 4) ∧
            tget none (getWheel t w).staged k = some r)) ∧
    (canDispatch s w = true → (∀ i, (getWake s w i).pend = false) → (∀ q ∈ (getWheel s w).exc18, q.2.2 = false) →
      n.frame < 16 → ∀ a c, a = frameAddr n.frame (if n.dir then 6 else 5) → spadRead s w a = some ⟨.code, c⟩ →
      Target s w c → cRegion c < 2 →
      ∃ t, exec (.wake w e) s = .next t ∧ (getWheel t w).parked = false ∧ (getWheel t w).pc = c ∧ (getWheel t w).fresh = true ∧
        (∀ b, spadRead t w b = spadRead s w b) ∧
        ∀ k r, k < 64 → tget none (getWheel s w).staged k = some r → fsTb s w (k / 4) = p.tb → r.it.deadline ≤ p.now →
          (k, r.val) ∈ (getWheel t w).ffNow ∧ tget none (getWheel t w).staged k = none))

/-- R60, R84, R461: a period boundary keeps its index and time, raises event 34 for an index that skips at the wheels
whose sails follow the timebase, clears the tripped weirs that follow it, and enters the latch stage of every armed
entry bound to it. Here no frame, feedback snapshot or drive-select change is due at it. R93, R95, R108: what a
boundary does to a frame of its timebase: staged values whose deadline has come leave the staging in its wake cycle, which is
that of the wakes it gives the wheel, and at once where it gives none (log 92, the model's choice); a stopping frame that
does not run stops, its entries disarmed, its sails safe and its staged values discarded; a started frame's entries are
armed; a pending dwell begins, also for the run in progress (R110), and a dwell counts
down. Where the step of a command is not enabled, that the command changes nothing is the model's choice (log 13). -/
def Obligations.Boundaries : Prop :=
  (∀ (s : State) (t : Fin 8) (i : BitVec 16),
    (domHeld s (42 + t) = true → exec (.periodBoundary t i) s = .next s) ∧
    ∀ skip : Bool, skip = ((getTb s t).seen && i != (getTb s t).idx + 1) →
      running s = true → domHeld s (42 + t) = false → tbFrames s t = [] → mirroring s = false →
      s.twin.hand = none → s.twin.takeAt = 0 → s.twin.yieldAt = 0 → s.rst.drvrel = true →
      (∀ n : Fin 8, fld (getFb s n).cfg 4 3 = t.val → bitOf (getFb s n).cfg 7 = false) →
      ∃ u, exec (.periodBoundary t i) s = .next u ∧ getTb u t = ⟨i, true, s.ring_time.ns⟩ ∧
        (∀ k, k ≠ t.val → getTb u k = getTb s k) ∧
        (∀ (w : WheelId) (e : Fin 16), getWake u w e = { getWake s w e with
          latch := if (getWake s w e).en ∧ (getWake s w e).src = true ∧ (getWake s w e).idx = t.val
            then (getWake s w e).latch ++ [(intW (i.toNat + 0x10000 * t), s.order)] else (getWake s w e).latch }) ∧
        (skip = false → ∀ w, (getWheel u w).events = (getWheel s w).events) ∧
        (skip = true → ∀ n, n < 192 → (getSail s n).tb = t.val → (getSail s n).owned = true →
          bitOf (getWheel s (getSail s n).owner).evcfg 2 = true →
          (tget none (getWheel u (getSail s n).owner).events 34).isSome = true) ∧
        (∀ w, w < 96 → getWeir u w = { getWeir s w with clr := (getWeir s w).clr || (hasWeir s w &&
          bitOf (getWeir s w).cfg 12 && (getWeir s w).codeok && (getWeir s w).lat && fld (getWeir s w).cfg 13 3 == t.val) }) ∧
        u.sails = s.sails ∧ u.mp = s.mp ∧ u.leats = s.leats ∧ u.frames = s.frames ∧ u.sluices = s.sluices) ∧
  (∀ (s : State) (b : Fin 8) (i : BitVec 16) (f k : Nat) (w : WheelId) (d : FrameDef),
    running s = true → domHeld s (42 + b) = false → f < 512 → getFrame s f = some d → d.wheel = w.val → k = d.slot → k < 16 →
    tbFrames s b = [f] → d.moveTo = none → mirroring s = false → s.twin.hand = none → s.twin.takeAt = 0 → s.twin.yieldAt = 0 →
    (∀ e ∈ frameWakes d, e < 16) →
    ∃ u, exec (.periodBoundary b i) s = .next u ∧
      (∀ j v, j < 4 → d.stop = false ∨ fsState s w k ≠ 1 → tget none (getWheel s w).staged (4 * k + j) = some v →
        (getWheel s w).ffNow = [] → (getWheel s w).ffDue = [] →
        (∀ n : Fin 8, fld (getFb s n).cfg 4 3 = b.val → bitOf (getFb s n).cfg 7 = false) →
        ((∀ q ∈ (getWheel u w).wakes, ∀ x ∈ q.2.latch, x.2 ≠ s.order) →
          (v.it.deadline ≤ s.ring_time.ns → tget none (getWheel u w).staged (4 * k + j) = none ∧
            ((getWheel s w).fresh = false → fw u w k (60 + j) = v.val) ∧
            ((getWheel s w).fresh = true → (getWheel s w).fault = none → fw u w k (60 + j) = fw s w k (60 + j) ∧
              (4 * k + j, v.val) ∈ (getWheel u w).ffNow)) ∧
          (s.ring_time.ns < v.it.deadline →
            fw u w k (60 + j) = fw s w k (60 + j) ∧ tget none (getWheel u w).staged (4 * k + j) = some v)) ∧
        ((∃ q ∈ (getWheel u w).wakes, ∃ x ∈ q.2.latch, x.2 = s.order) →
          fw u w k (60 + j) = fw s w k (60 + j) ∧ tget none (getWheel u w).staged (4 * k + j) = some v ∧
          ∃ p ∈ (getWheel u w).ffDue, p.tb = b.val ∧ p.now = s.ring_time.ns ∧ p.occ = s.order)) ∧
      (∀ j, j < 4 → d.stop = true → fsState s w k = 1 → tget none (getWheel u w).staged (4 * k + j) = none) ∧
      (d.stop = true → fsState s w k = 1 → runOf s d = false →
        fsState u w k = 0 ∧ (∀ e ∈ frameWakes d, (getWake u w e).en = false ∧ (getWake u w e).pend = false) ∧
        (∀ j ∈ frameSails s w k, tbHeld s j = false →
          (getSail u j).out = safeWord (getSail s j).safe ∧ (getSail u j).safeact = true) ∧
        ∀ j, j ∉ frameSails s w k → getSail u j = getSail s j) ∧
      (d.stop = false → d.arm = true → ∀ e ∈ frameWakes d, (getWake u w e).en = true ∧ (getWake u w e).cnt = 0 ∧
        (getWake u w e).pend = false) ∧
      (d.stop = false → d.arm = false → fsPair s w k = false →
        fstat u w k = fstat s w k ∧ u.sails = s.sails ∧ ∀ e, (getWake u w e).en = (getWake s w e).en) ∧
      (d.stop = false → fsPair s w k = true → fsState s w k ≠ 0 →
        (fsX s w k = 3 → fsX u w k = 2 ∧ fld (fstat u w k) 6 8 = fld (fw s w k 10).val 0 8 ∧
          (runOf s d = true → runCut (getWheel u w) = true) ∧
          ∀ j ∈ frameSails s w k, tbHeld s j = false → (getSail u j).out = safeWord (getSail s j).safe) ∧
        (fsX s w k = 2 → 0 < fld (fstat s w k) 6 8 → fsX u w k = 2 ∧ u.sails = s.sails ∧
          fld (fstat u w k) 6 8 = fld (fstat s w k) 6 8 - 1)))

/-- R97, R98, R108, R539: at the end of a dwell the pair takes the other direction in RUN with XOUT 0, and its boundary
wakes that direction's entries. A run or a pending wake whose count exceeds DEADLINE expires: MISSCNT counts it, its
sails not yet written take their overrun policy, and exception 18 is raised. R92, R95, R237, R239, R241: a parked
wheel with an empty latch stage applies its oldest hopper write, and that of LOOP_STOP makes the frame's next boundary the
one at which it stops (log 112, the model's reading); a wheel's older read returns its line to the prefetch
register, or to the line register and the branch-target buffer, unless its check fails. Where the step of a command is
not enabled, that the command changes nothing is the model's choice (log 13). -/
def Obligations.FlipsAndExpiry : Prop :=
  (∀ (s : State) (w : WheelId), running s = true →
    (∀ (k : Fin 16), fsPair s w k = true → fsState s w k ≠ 0 → fsX s w k = 2 → fld (fstat s w k) 6 8 = 0 →
      (∀ p ∈ (getWheel s w).ffNow, p.1 < 64) →
      ∃ t, exec (.modePairFlip w k) s = .next t ∧ fsDir t w k = !fsDir s w k ∧ fsX t w k = 0 ∧
        fsState t w k = fsState s w k ∧ fw t w k 11 = ⟨.q31, 0⟩ ∧
        (∀ a, a ≠ frameAddr k 0 → a ≠ frameAddr k 11 → (∀ m j, m < 16 → j < 4 → a ≠ frameAddr m (60 + j)) →
          spadWord t w a = spadWord s w a) ∧
        (canDispatch s w = false → ∀ e : Fin 16, (getWake s w e).en = true → (getWake s w e).frame = k.val → (getWake s w e).dir = !fsDir s w k →
          (getWake s w e).src = true → (getWake s w e).idx = fsTb s w k →
          (getWake t w e).pend = true ∧ (getWake t w e).cnt = 0 ∧
          (getWake t w e).word = intW ((getTb s (fsTb s w k)).idx.toNat + fsTb s w k * 0x10000)) ∧
        (canDispatch s w = false → ∀ e : Fin 16, (getWake s w e).frame ≠ k.val → getWake t w e = getWake s w e) ∧
        t.sails = s.sails ∧ ∀ u, u ≠ w.val → getWheel t u = getWheel s u) ∧
    (∀ (k : Fin 16), fsPair s w k = false ∨ fsState s w k = 0 ∨ fsX s w k ≠ 2 ∨ fld (fstat s w k) 6 8 ≠ 0 →
      exec (.modePairFlip w k) s = .next s) ∧
    ((getWheel s w).halted = true → ∀ p c, exec (.deadlineExpiry w p c) s = .next s) ∧
    ((getWheel s w).halted = false → ∀ c : W32,
      (∀ r, (getWheel s w).run = some r → r.expired = false → r.frame < 16 →
        (c.toNat ≤ deadlineOf s w r.frame → exec (.deadlineExpiry w none c) s = .next s) ∧
        (deadlineOf s w r.frame < c.toNat →
          ∃ t q, exec (.deadlineExpiry w none c) s = .next t ∧ (getWheel t w).run = some q ∧ q.expired = true ∧
            q.entry = r.entry ∧ q.frame = r.frame ∧
            fld (fstat t w r.frame) 17 8 = min 255 (fld (fstat s w r.frame) 17 8 + 1) ∧
            (getWheel t w).exc18 = (getWheel s w).exc18 ++ [((intW (r.frame + 16 * r.entry)).val, c, false)] ∧
            (∀ j, j ∈ q.taken ↔ j ∈ r.taken ∨ (j ∈ activeSails s w r.frame ∧ ownsSail s w j = true ∧ j ∉ r.written)) ∧
            (∀ j ∈ activeSails s w r.frame, ownsSail s w j = true → j ∉ r.written →
              (getSail t j).ovrcnt = min 255 ((getSail s j).ovrcnt + 1) ∧
              (getSail t j).out = (if (getSail s j).ovrpol && !tbHeld s j then safeWord (getSail s j).safe
                else (getSail s j).out)) ∧
            ∀ j, j ∉ activeSails s w r.frame ∨ ownsSail s w j = false ∨ j ∈ r.written → getSail t j = getSail s j)) ∧
      (∀ e : Fin 16, (getWake s w e).pend = true → (getWake s w e).expired = false → (getWake s w e).frame < 16 →
        deadlineOf s w (getWake s w e).frame < c.toNat →
        ∃ t, exec (.deadlineExpiry w (some e) c) s = .next t ∧ (getWake t w e).expired = true ∧
          (getWake t w e).pend = true ∧ (getWheel t w).run = (getWheel s w).run ∧
          (getWheel t w).exc18 = (getWheel s w).exc18 ++ [((intW ((getWake s w e).frame + 16 * e)).val, c, true)]))) ∧
  (∀ (s : State) (w : WheelId),
    (∀ (a : FrameAct) (l : List FrameAct), (getWheel s w).acts = a :: l →
      (canApply s w = false → exec (.hopperFrameWrite w) s = .next s) ∧
      (canApply s w = true →
        (∀ k i v h n, a = .word k i v h n →
          ∃ t, exec (.hopperFrameWrite w) s = .next t ∧ (getWheel t w).acts = l ∧ fw t w k i = v ∧
            (∀ c, c ≠ frameAddr k i → spadRead t w c = spadRead s w c) ∧ (getSlot t h n).st = (getSlot s h n).st ∧
            (∀ u, u ≠ w.val → getWheel t u = getWheel s u) ∧ t = { s with wheels := t.wheels, hopC := t.hopC, hopS := t.hopS }) ∧
        (∀ f h n d, a = .stop f h n → getFrame s f = some d →
          ∃ t, exec (.hopperFrameWrite w) s = .next t ∧ (getWheel t w).acts = l ∧ getFrame t f = some { d with stop := true } ∧
            (∀ g, g ≠ f → getFrame t g = getFrame s g) ∧ (∀ c, spadRead t w c = spadRead s w c)) ∧
        (∀ k f h n d, a = .start k f h n → getFrame s f = some d → d.wheel = w.val → d.slot < 16 →
          fsState s w d.slot ≠ 0 ∨ linesBad s d (millOf w) = true →
          ∃ t, exec (.hopperFrameWrite w) s = .next t ∧ (getWheel t w).acts = l ∧ getFrame t f = some d ∧
            t.sails = s.sails ∧ ∀ c, spadRead t w c = spadRead s w c) ∧
        (∀ k f h n d, a = .start k f h n → getFrame s f = some d → d.wheel = w.val → d.slot < 16 → fsState s w d.slot = 0 →
          linesBad s d (millOf w) = false →
          ∃ t, exec (.hopperFrameWrite w) s = .next t ∧ (getWheel t w).acts = l ∧ fsState t w d.slot = 1 ∧
            getFrame t f = some { d with arm := true, stop := false } ∧
            (fsPair s w d.slot = true → fsDir t w d.slot = false ∧ fsX t w d.slot = 0 ∧ fw t w d.slot 11 = ⟨.q31, 0⟩) ∧
            (∀ j ∈ frameSails s w d.slot, getSail t j = { getSail s j with owned := true, owner := w.val }) ∧
            (∀ j, j ∉ frameSails s w d.slot → getSail t j = getSail s j) ∧
            ∀ e ∈ frameWakes d, e < 16 → ∀ v, v = fw s w d.slot (if (getWake s w e).dir then 6 else 5) →
              v.tag = .code → cRegion v.val = 0 →
              tget none (getWheel t w).fetch.entry e = some (lineCopy s (millOf w) (lineOf v.val))) ∧
        (∀ h n, a = .done h n → pktNotify s h n = false → (getSlot s h n).clamps = [] →
          ∃ t, exec (.hopperFrameWrite w) s = .next t ∧ (getWheel t w).acts = l ∧
            Answered s t h n 0 0 [BitVec.ofNat 64 (nth 0 (getSlot s h n).aux 0)] []))) ∧
    (wheelLive s w = true →
      (∀ j, (getWheel s w).fetch.preWant = some j →
        ∃ t, exec (.fetchLineReturn w) s = .next t ∧ OnlyWheel s t w ∧
          getWheel t w = { getWheel s w with fetch := { (getWheel s w).fetch with
            preWant := none, pre := if badLine s (millOf w) j then none else some (lineCopy s (millOf w) j) } }) ∧
      ((getWheel s w).fetch.preWant = none → (getWheel s w).fetch.want = none → exec (.fetchLineReturn w) s = .next s) ∧
      (∀ j, (getWheel s w).fetch.preWant = none → (getWheel s w).fetch.want = some (j, none) → badLine s (millOf w) j = false →
        ∃ t x, exec (.fetchLineReturn w) s = .next t ∧ OnlyWheel s t w ∧ x = (getWheel t w).fetch ∧ x.want = none ∧
          x.line = some (lineCopy s (millOf w) j) ∧ x.pre = none ∧ x.btb = (getWheel s w).fetch.btb ∧
          getWheel t w = { getWheel s w with fetch := x }) ∧
      (∀ j c g, (getWheel s w).fetch.preWant = none → (getWheel s w).fetch.want = some (j, some (c, g)) →
        (badLine s (millOf w) j = false →
          ∃ t x, exec (.fetchLineReturn w) s = .next t ∧ OnlyWheel s t w ∧ x = (getWheel t w).fetch ∧ x.want = none ∧
            x.line = some (lineCopy s (millOf w) j) ∧ x.pre = none ∧
            tget none x.btb (cOff c % 64) = some ⟨c, g, lineCopy s (millOf w) j⟩ ∧
            (∀ i, i ≠ cOff c % 64 → tget none x.btb i = tget none (getWheel s w).fetch.btb i) ∧
            getWheel t w = { getWheel s w with fetch := x }) ∧
        (badLine s (millOf w) j = true → canIssue s w = true →
          ∃ t x, exec (.fetchLineReturn w) s = .next t ∧ OnlyWheel s t w ∧ (getWheel t w).fault = some x ∧ x.num = 14 ∧
            x.info = intW j ∧ (getWheel t w).pc = (getWheel s w).pc ∧ (getWheel t w).fetch.line = (getWheel s w).fetch.line ∧
            (getWheel t w).fetch.btb = (getWheel s w).fetch.btb) ∧
        (badLine s (millOf w) j = true → canIssue s w = false → exec (.fetchLineReturn w) s = .next s))))

/-- R6, R115 to R117: the tailrace serves a queue of the part whose head record's ring has room: the record takes position
WR + P and leaves the queue. A full ring keeps the queue, shows FULL and raises event 35. Drained records are written to their
ring where no wheel asks for the bank (R40), and WR counts them. R322, R329 to R332: a corrected word is written back, an uncorrectable one becomes POISON
and is logged, and a pinned word stays; the scrubber finds the error of the word at its pointer and moves on; the
steal register is served, and the next requester's request in round-robin order enters it. No other word of the memories changes. Where the step of a
command is not enabled, that the command changes nothing is the model's choice (log 13). -/
def Obligations.MemoryServices : Prop :=
  (∀ s : State, running s = true → (∀ a, getEcc s .millpond a = .ok ∧ getEcc s .spare a = .ok) →
    (∀ (q i : Nat) (r : TellRec) (l : List TellRec) (a z wr rd : TWord) (g : W64) (n : Nat), s.tail.drain = [] → i < 8 →
      q = (s.tail.rr + i) % nWheels s → tellQueue s q = r :: l →
      (∀ k, k < 8 → k ≠ i → tellQueue s ((s.tail.rr + k) % nWheels s) = []) →
      mpOn s r.desc = true → mpRead s (r.desc % 0x400000) = some a → mpRead s ((r.desc + 1) % 0x400000) = some z →
      mpRead s ((r.desc + 2) % 0x400000) = some wr → mpRead s ((r.desc + 3) % 0x400000) = some rd →
      a.tag = .addr → g = segEnt s r.world (aSel a.val) → sgSpace g = 2 → sgWr g = true → (sgUser g = true ∨ r.user = false) →
      n < 13 → fld z.val 0 17 = 16 * 2 ^ n → aOff a.val + 4 * (16 * 2 ^ n) - 1 ≤ sgLimit g →
      ((wr.val - rd.val).toNat < 16 * 2 ^ n →
        ∃ t, exec .tailraceServe s = .next t ∧ t = { s with tail := t.tail } ∧ tellQueue t q = l ∧
          (∀ u, u ≠ q → tellQueue t u = tellQueue s u) ∧ t.tail.rr = (s.tail.rr + 8) % nWheels s ∧
          t.tail.drain = [⟨r, r.desc, wr.val, (sgBase g + aOff a.val) % 0x400000, 16 * 2 ^ n⟩]) ∧
      (16 * 2 ^ n ≤ (wr.val - rd.val).toNat → mpOn s ((r.desc + 1) % 0x400000) = true →
        ∃ t, exec .tailraceServe s = .next t ∧ tellQueue t q = r :: l ∧ t.tail.drain = [] ∧
          mpRead t ((r.desc + 1) % 0x400000) = some { z with val := z.val ||| 0x80000000 } ∧
          (q ∉ s.tail.told → bitOf (getWheel s q).evcfg 3 = true → (tget none (getWheel t q).events 35).isSome = true))) ∧
    (∀ d : DrainRec, s.tail.drain = [d] → d.trec.words.length = 4 → d.base + 4 * (d.pos.toNat % d.size) + 4 ≤ 0x400000 →
      d.ring + 4 ≤ 0x400000 → (d.ring + 4 ≤ d.base ∨ d.base + 4 * d.size ≤ d.ring) → 0 < d.size →
      (∀ q, tellQueue s q = []) → (∀ a, mpOn s a = true) →
      (drainFree s d = false → ∃ t, exec .tailraceServe s = .next t ∧ t.tail.drain = [d] ∧ t.mp = s.mp ∧ t.spareRam = s.spareRam) ∧
      ((∀ b, bankAskers s b = []) →
      ∃ t, exec .tailraceServe s = .next t ∧ t.tail.drain = [] ∧ mpRead t (d.ring + 2) = some ⟨.int, d.pos + 1⟩ ∧
        (∀ i, i < 4 → mpRead t (d.base + 4 * (d.pos.toNat % d.size) + i) = d.trec.words[i]?) ∧
        ∀ a, a < 0x400000 → a ≠ d.ring + 2 →
          (a < d.base + 4 * (d.pos.toNat % d.size) ∨ d.base + 4 * (d.pos.toNat % d.size) + 4 ≤ a) → mpRead t a = mpRead s a)) ∧
    ∀ (w : WheelId) (r : TellRec), (getWheel s w).stall = .tellFull r → (getWheel s w).draining = false →
      (4 ≤ (tellQueue s w).length → exec (.tellAccept w) s = .next s) ∧
      ((tellQueue s w).length < 4 →
        ∃ t, exec (.tellAccept w) s = .next t ∧ (getWheel t w).stall = .none ∧
          tellQueue t w = tellQueue s w ++ [{ r with words := r.words.take 2 ++
            [intW (s.ring_time.ns.toNat % 0x100000000), intW (s.ring_time.ns.toNat / 0x100000000)] }] ∧
          (∀ u, u ≠ w.val → tellQueue t u = tellQueue s u) ∧ depth (getWheel t w) = depth (getWheel s w) - 1 ∧
          (getWheel t w).tellSeq = (getWheel s w).tellSeq + 1 ∧ RetiredAs (getWheel s w) (getWheel t w) 1 ∧
          t = { s with tail := t.tail, wheels := t.wheels } ∧ ∀ u, u ≠ w.val → getWheel t u = getWheel s u)) ∧
  (∀ (s : State) (m : MemSel) (a : BitVec 22),
    (getEcc s m a.toNat = .ceSeen → memOn s m a.toNat = true →
      ∃ t, exec (.eccWriteback m a) s = .next t ∧ getEcc t m a.toNat = .ok ∧
        (∀ b, b ≠ a.toNat → getEcc t m b = getEcc s m b) ∧ (∀ w b, spadWord t w b = spadWord s w b) ∧
        (∀ w, (getWheel t w).pinned.cells = (getWheel s w).pinned.cells) ∧ t.mp.cells = s.mp.cells ∧
        t.retained.cells = s.retained.cells ∧ t.mem = s.mem) ∧
    (getEcc s m a.toNat ≠ .ceSeen → exec (.eccWriteback m a) s = .next s) ∧
    (getEcc s m a.toNat = .ueSeen → memOn s m a.toNat = true →
      (∀ w, m = .pinned w → exec (.poisonRewrite m a) s = .next s) ∧
      ((∀ w, m ≠ .pinned w) →
        ∃ t u, exec (.poisonRewrite m a) s = .next t ∧
          (s.mem.ueLog.contains (m, a.toNat) = true → t = logEntry u 4 (ueSrc m) (ueWheel m) (ueWheel m / 4) a.toNat ∧
            u.mem.ueLog = s.mem.ueLog.erase (m, a.toNat)) ∧
          (s.mem.ueLog.contains (m, a.toNat) = false → t = u) ∧
          getEcc u m a.toNat = .ok ∧ (∀ w, m = .spad w → spadRead u w a.toNat = some poisonW ∧
            ∀ v b, v ≠ w.val ∨ b ≠ a.toNat → spadRead u v b = spadRead s v b) ∧
          (m = .millpond → ramRead emptyW u.mp a.toNat = some poisonW ∧
            ∀ b, b ≠ a.toNat → ramRead emptyW u.mp b = ramRead emptyW s.mp b) ∧
          (m = .retained → retRead u a.toNat = some poisonW) ∧ (m = .backup → tget 0 u.rst.bkup a.toNat = 0))) ∧
    (bitOf s.mem.cfg 0 = false → exec (.scrubVisit m) s = .next s) ∧
    (running s = true → bitOf s.mem.cfg 0 = true → scrubFree s m = true → m ≠ .millpond →
      ∃ t p, exec (.scrubVisit m) s = .next t ∧ p = tget 0 s.mem.scrub (scrubKey m) ∧
        tget 0 t.mem.scrub (scrubKey m) = (p + 1) % scrubSize m ∧
        (getEcc s m p = .ce → getEcc t m p = .ceSeen ∧ t.mem.cecnt = min 0xFFFF (s.mem.cecnt + 1)) ∧
        (getEcc s m p = .ue → getEcc t m p = .ueSeen ∧ t.mem.uecnt = min 0xFF (s.mem.uecnt + 1) ∧ t.mem.uesrc = ueSrc m ∧
          t.mem.ueaddr = p ∧ t.mem.ueLog = s.mem.ueLog ++ [(m, p)]) ∧
        (∀ b, b ≠ p → getEcc t m b = getEcc s m b) ∧ (∀ w b, spadWord t w b = spadWord s w b) ∧ t.mp.cells = s.mp.cells) ∧
    ∀ (w : WheelId) (q : StealReq) (l : List StealReq), running s = true → spadOn s w = true →
      (getWheel s w).steal = some q → (getWheel s w).stealQ = l → (getWheel s w).tdestDue = [] →
      ∃ t, exec (.stealService w) s = .next t ∧ (l = [] → (getWheel t w).steal = none ∧ (getWheel t w).stealQ = []) ∧
        (∀ r ∈ l, (∀ x ∈ l, x ≠ r → (stealOf r + 2 - stealOf q) % 3 < (stealOf x + 2 - stealOf q) % 3) →
          (getWheel t w).steal = some r ∧ (getWheel t w).stealQ = l.erase r) ∧
        (∀ k, q = .tdest k → k < 16 →
          tget emptyW (getWheel t w).tdest k = (spadRead s w (frameAddr k 7)).getD poisonW) ∧
        (∀ k f d, q = .mirror k → frameAt s w k = some f → getFrame s f = some d → d.wheel = w.val → d.slot = k →
          frameDriven s d = true → fsState s w k = 1 → (∀ r, (getWheel s w).run = some r → r.frame ≠ k) →
          t.twin.stateQ = queueState s.twin.stateQ (stateRec s f d)) ∧
        (∀ i, q = .debug (.readSpad i) → t.dbgData = some (.word ((spadRead s w i.toNat).getD poisonW))) ∧
        (∀ i x, q = .debug (.writeSpad i x) → spadRead t w i.toNat = if isRsv x.tag then spadRead s w i.toNat else some x) ∧
        (∀ i x, q = .debug (.writePin i x) → ramRead 0 (getWheel t w).pinned i.toNat = some x))

/-- R70 to R76: the host port answers beat by beat: millpond payload and tags word by word, tags Ch and Dh refused with
ERR; ERR and no effect outside CAPS while a reset is in progress, also for the beats that a reset cuts off; the store
windows are read-only; RINGTIME latches its fraction. -/
def Obligations.HostPort : Prop :=
  ∀ (s : State) (a : BitVec 26) (v : W64) (k : Nat), k = a.toNat / 8 * 2 →
    ((portLive s = false ∨ bitOf s.capsId 0 = false) → (a.toNat < 0x1600000 ∨ 0x1600100 ≤ a.toNat) →
      exec (.hostPortRead a ⟨0, none⟩) s = .next { s with hpResp := ⟨false, [0]⟩ } ∧
      ∀ be, exec (.hostPortWrite a ⟨[(v, be)], none⟩) s = .next { s with hpResp := ⟨false, []⟩ }) ∧
    exec (.hostPortRead 0x1600000 ⟨1, none⟩) s = .next { s with hpResp := ⟨true, [s.capsId, s.capsUnits]⟩ } ∧
    (∀ l cut, l = [] ∨ 8 < l.length → exec (.hostPortWrite a ⟨l, cut⟩) s = .refused .illFormed) ∧
    (∀ more cut, ∃ t, exec (.hostPortRead a ⟨more, cut⟩) s = .next t ∧ t.hpResp.data.length = more.val + 1) ∧
    (∀ l cut, l ≠ [] → l.length ≤ 8 → ∃ t, exec (.hostPortWrite a ⟨l, cut⟩) s = .next t ∧ t.hpResp.data = []) ∧
    (resetComing s = true →
      (∀ more : Fin 8, exec (.hostPortRead a ⟨more, some 0⟩) s =
        .next { s with hpResp := ⟨false, List.replicate (more + 1) 0⟩ }) ∧
      (∀ l, l ≠ [] → l.length ≤ 8 → exec (.hostPortWrite a ⟨l, some 0⟩) s = .next { s with hpResp := ⟨false, []⟩ }) ∧
      ∀ x y, ∃ t, exec (.hostPortWrite a ⟨[x], none⟩) s = .next t ∧
        (resetComing t = true → exec (.hostPortWrite a ⟨[x, y], some 1⟩) s = .next { t with hpResp := ⟨false, []⟩ })) ∧
    (portLive s = true → bitOf s.capsId 0 = true →
      exec (.hostPortRead 0x1700028 ⟨0, none⟩) s = .next { s with hpResp := ⟨true, [mbstatReg s]⟩ }) ∧
    (running s = true → bitOf s.capsId 0 = true →
      exec .ringtimeRead s = .next { s with ringfrac := s.ring_time.frac, hpResp := ⟨true, [s.ring_time.ns]⟩ } ∧
      (a.toNat < 0x1000000 → mpOn s k = true → ∀ x y, mpRead s k = some x → mpRead s (k + 1) = some y →
        (getEcc s (mpSel s k).1 (mpSel s k).2 = .ok → getEcc s (mpSel s (k + 1)).1 (mpSel s (k + 1)).2 = .ok →
          ∃ d : W64, exec (.hostPortRead a ⟨0, none⟩) s = .next { s with hpResp := ⟨true, [d]⟩ } ∧
            d.toNat = x.val.toNat + y.val.toNat * 2 ^ 32) ∧
        ∃ t, exec (.hostPortWrite a ⟨[(v, 0xFF)], none⟩) s = .next t ∧ t.hpResp = ⟨true, []⟩ ∧
          mpRead t k = some ⟨x.tag, v.setWidth 32⟩ ∧ mpRead t (k + 1) = some ⟨y.tag, (v >>> 32).setWidth 32⟩ ∧
          (∀ b, b < 0x400000 → b ≠ k → b ≠ k + 1 → mpRead t b = mpRead s b) ∧ ∀ w, getWheel t w = getWheel s w) ∧
      (∀ b : BitVec 26, b.toNat = 0x1000000 + a.toNat / 8 * 8 → b.toNat < 0x1200000 → mpOn s (a.toNat / 8 * 16) = true →
        (isRsv (tagOf (fld v 0 4)) = true ∨ isRsv (tagOf (fld v 4 4)) = true →
          exec (.hostPortWrite b ⟨[(v, 1)], none⟩) s = .next { s with hpResp := ⟨false, []⟩ }) ∧
        (isRsv (tagOf (fld v 0 4)) = false → isRsv (tagOf (fld v 4 4)) = false →
          ∀ x y, mpRead s (a.toNat / 8 * 16) = some x → mpRead s (a.toNat / 8 * 16 + 1) = some y →
            ∃ t, exec (.hostPortWrite b ⟨[(v, 1)], none⟩) s = .next t ∧ t.hpResp = ⟨true, []⟩ ∧
              mpRead t (a.toNat / 8 * 16) = some { x with tag := tagOf (fld v 0 4) } ∧
              mpRead t (a.toNat / 8 * 16 + 1) = some { y with tag := tagOf (fld v 4 4) })) ∧
      (0x2000000 ≤ a.toNat → a.toNat < 0x2900000 → ∀ be,
        exec (.hostPortWrite a ⟨[(v, be)], none⟩) s = .next { s with hpResp := ⟨false, []⟩ }) ∧
      (0x2B00000 ≤ a.toNat → exec (.hostPortRead a ⟨0, none⟩) s = .next { s with hpResp := ⟨true, [0]⟩ } ∧ ∀ be,
        exec (.hostPortWrite a ⟨[(v, be)], none⟩) s = .next { s with hpResp := ⟨true, []⟩ }) ∧
      (0x1800000 ≤ a.toNat → ∀ w, w = (a.toNat - 0x1800000) / 0x20000 → w < nWheels s → w < 64 →
        (getWheel s w).halted = false → exec (.hostPortRead a ⟨0, none⟩) s = .next { s with hpResp := ⟨false, [0]⟩ } ∧ ∀ be,
          exec (.hostPortWrite a ⟨[(v, be)], none⟩) s = .next { s with hpResp := ⟨false, []⟩ }))

/-- R28: MILLCFG.STANDBY takes a written value, unless it is above 10h, names an absent mill or one with loops, or
OCCUPIED is 1. -/
def Obligations.StandbyWrite : Prop :=
  ∀ (s : State) (v : W64) (n : Nat), running s = true → n = fld v 0 5 → bitOf v 9 = false →
    ((16 < n ∨ (n < 16 ∧ nMills s ≤ n) ∨ (n < 16 ∧ ∃ f < 512, ∃ d, getFrame s f = some d ∧ millOf d.wheel = n) ∨
        s.occupied = true) → exec (.millcfgWrite v 0xFF) s = .next { s with millcfgErr := true }) ∧
    ((n = 16 ∨ (n < nMills s ∧ n < 16 ∧ ∀ f < 512, ∀ d, getFrame s f = some d → millOf d.wheel ≠ n)) → s.occupied = false →
      exec (.millcfgWrite v 0xFF) s = .next { s with standby := n })

/-- R32: a write that changes FREQ or PSTATE is refused while HASLOOPS is 1, and so is one that sets FREQ to Dh to Fh or
PSTATE to 11b; on a refused write both fields keep their values and ERR is set; any other such write is accepted. A
write that leaves FREQ and PSTATE unchanged is always accepted. Where the step of a command is not enabled, that the
command changes nothing is the model's choice (log 13). -/
def Obligations.MillctlRefusals : Prop :=
  ∀ (s : State) (m : MillId) (v : W64) (f p : Nat), running s = true → m.val < nMills s → f = fld v 0 4 → p = fld v 4 2 →
    bitOf v 15 = false →
    (f = (getMill s m).freq → p = (getMill s m).pstate → exec (.millctlWrite m v 0xFF) s = .next s) ∧
    (f ≠ (getMill s m).freq ∨ p ≠ (getMill s m).pstate →
      (hasLoops s m = true ∨ 12 < f ∨ p = 3 → ∃ t, exec (.millctlWrite m v 0xFF) s = .next t ∧
        t = { s with mills := t.mills } ∧ getMill t m = { getMill s m with err := true } ∧
        ∀ k, k ≠ m.val → getMill t k = getMill s k) ∧
      (hasLoops s m = false → f ≤ 12 → p ≠ 3 → ∃ t, exec (.millctlWrite m v 0xFF) s = .next t ∧ (getMill t m).freq = f ∧
        (getMill t m).pstate = p ∧ (getMill t m).err = (getMill s m).err))

/-- R119, R333, R339, R353, R454, R460, R464, R500, R100: a clear command clears its counters and nothing else of the
complex. R33, R36, R101, R278, R340: an accepted change of FREQ or PSTATE stops the mill's clock until it locks, PSTATE OFF
empties its control store, and a mill that has been OFF is cleared as it locks, in the memories whose own field is ON (that
the others keep their words is the model's choice, log 19). A safe word with EDGE 11b is refused. Where the step of a command is not enabled,
that the command changes nothing is the model's choice (log 13). -/
def Obligations.RegisterCommands : Prop :=
  (∀ s : State, running s = true →
    (∀ n : Fin 192, tbHeld s n = false → ∃ t, exec (.sailcfgCntclr n) s = .next t ∧ t = { s with sails := t.sails } ∧
      getSail t n = { getSail s n with ovrcnt := 0, latecnt := 0 } ∧ ∀ m, m ≠ n.val → getSail t m = getSail s m) ∧
    (∀ n : Fin 256, leatHeld s n = false → ∃ t, exec (.leatcfgCntclr n) s = .next t ∧ t = { s with leats := t.leats } ∧
      getLeat t n = { getLeat s n with seqerr := 0, lost := 0 } ∧ ∀ m, m ≠ n.val → getLeat t m = getLeat s m) ∧
    exec .memerrCntclr s = .next { s with mem := { s.mem with cecnt := 0, uecnt := 0, uesrc := 0, ueMark := 0 } } ∧
    exec .mempwrstCntclr s = .next { s with mem := { s.mem with drop := 0 } } ∧
    (∀ k : Fin 4, hasLane s k = true → laneHeld s k = false → ((getLane s k).en = true ∧ (getLane s k).st ≠ .off ∧ (getLane s k).txen = ((getLane s k).st != .retrain)) ∨
        ((getLane s k).en = false ∧ ((getLane s k).st = .off ∨ (getLane s k).st = .retrain) ∧ (getLane s k).txen = false ∧
          (getLane s k).rq = []) →
      ∃ t, exec (.lanectlCntclr k) s = .next t ∧ t = { s with lanes := t.lanes } ∧
        getLane t k = { getLane s k with corr := 0, uncorr := 0, good := 0, crcerr := 0, seqerr := 0 } ∧
        ∀ m, m ≠ k.val → getLane t m = getLane s m) ∧
    (∀ n : Fin 8, fbHeld s n = false → ∃ t, exec (.fbstCntclr n) s = .next t ∧ t = { s with fbs := t.fbs } ∧
      getFb t n = { getFb s n with coinc := 0 } ∧ ∀ m, m ≠ n.val → getFb t m = getFb s m) ∧
    (∀ w : Fin 96, (hasWeir s w = false → exec (.weirstCntclr w) s = .next s) ∧
      (hasWeir s w = true → ∃ t, exec (.weirstCntclr w) s = .next t ∧ t = { s with weirs := t.weirs } ∧
        getWeir t w = { getWeir s w with tripcnt := 0 } ∧ ∀ m, m ≠ w.val → getWeir t m = getWeir s m)) ∧
    (∀ g : Fin 24, ∃ t, exec (.sluiceCntclr g) s = .next t ∧ t = { s with sluices := t.sluices } ∧
      getSluice t g = { getSluice s g with tripcnt := 0, cause := 0, causev := false } ∧
      ∀ m, m ≠ g.val → getSluice t m = getSluice s m) ∧
    ∀ d : Fin 64, hasDomain s d = true → ∃ t, exec (.clkmonCntclr d) s = .next t ∧
      t = { s with rst := { s.rst with clk := t.rst.clk } } ∧ getClk t d = { getClk s d with failcnt := 0 } ∧
      ∀ m, m ≠ d.val → getClk t m = getClk s m) ∧
  (∀ s : State, running s = true →
    (∀ (m : MillId) (v : W64) (f p : Nat), m.val < nMills s → f = fld v 0 4 → p = fld v 4 2 → bitOf v 15 = false →
      f ≠ (getMill s m).freq ∨ p ≠ (getMill s m).pstate → hasLoops s m = false → f ≤ 12 → p ≠ 3 →
      (∀ w, (getWheel s w).sbuf = []) →
      ∃ t, exec (.millctlWrite m v 0xFF) s = .next t ∧ (getMill t m).freq = f ∧ (getMill t m).pstate = p ∧
        (getMill t m).lock = false ∧ (getMill t m).offSeen = ((getMill s m).offSeen || p == 2) ∧
        (getClk t m).stable = false ∧ (getClk t m).gated = true ∧ (∀ k, k ≠ m.val → getMill t k = getMill s k) ∧
        (p = 2 → fld s.mem.cspwr (2 * m) 2 ≠ 1 → (getMill t m).cstore = [] ∧ (getMill t m).cdt = [] ∧ (getMill t m).mcId = 0) ∧
        t.mp = s.mp ∧ t.sails = s.sails) ∧
    (∀ m : MillId, (getMill s m).pstate = 0 → (getMill s m).lock = false →
      ∃ t, exec (.millClockLock m) s = .next t ∧ (getMill t m).lock = true ∧ (getMill t m).offSeen = false ∧
        (getClk t m).stable = true ∧ (getClk t m).gated = false ∧
        ((getMill s m).offSeen = false → ∀ w, getWheel t w = getWheel s w) ∧
        ((getMill s m).offSeen = true →
          (fld s.mem.cspwr (2 * m) 2 = 0 → (getMill t m).cstore = [] ∧ (getMill t m).cdt = []) ∧
          ∀ w, millOf w = m.val → (getWheel t w).regs = [] ∧ (getWheel t w).parked = true ∧
            (getWheel t w).spad = (if spField s w = 0 then {} else (getWheel s w).spad) ∧
            (getWheel t w).pinned = (if pinField s w = 0 then {} else (getWheel s w).pinned))) ∧
    ∀ (n : Fin 192) (v : W64), tbHeld s n = false →
      ∃ t, exec (.sailsafeWrite n v 0xFF) s = .next t ∧ t = { s with sails := t.sails } ∧
        (∀ k, k ≠ n.val → getSail t k = getSail s k) ∧
        getSail t n = if fld v 26 2 = 3 then { getSail s n with err := true } else { getSail s n with safe := v.setWidth 32 })

/-- R327, R340, R341: a memory power write whose change is not allowed sets its ERR bit and changes no field; an allowed
one shows the new state and begins the transition, whose end clears a memory that returns from OFF. R334 to R337:
SUBSTITUTE, RESTORE and ABORT act in their states and set ERR in others; a copy that ends switches the bank's offsets
to the other bank, so that every offset of the millpond reads as before, where the words below PROG were copied. Where the step of a command is not enabled,
that the command changes nothing is the model's choice (log 13). -/
def Obligations.MemoryPower : Prop :=
  (∀ s : State, running s = true →
    (∀ (b n : Nat) (v : W64), b < 16 → 0 < n → n < 4 → fld s.mem.bankpwr (2 * b) 2 = 0 → v = setFld s.mem.bankpwr (2 * b) 2 n →
      (n = 3 ∨ s.mem.trans ≠ [] ∨ (bankCovered s b = true ∧ bankIsolated s b = false) →
        ∃ t, exec (.memPowerWrite .bank v 0xFF) s = .next t ∧ t = { s with mem := { s.mem with errs := s.mem.errs ||| 1 } }) ∧
      (n < 3 → s.mem.trans = [] → bankCovered s b = false → s.spare.st = .idle →
        exec (.memPowerWrite .bank v 0xFF) s =
          .next { s with mem := { s.mem with bankpwr := v, trans := [⟨.bank, b, 0, n⟩] } })) ∧
    (∀ (w n : Nat) (v : W64), w < 32 → 0 < n → n < 4 → fld s.mem.sppwr0 (2 * w) 2 = 0 → v = setFld s.mem.sppwr0 (2 * w) 2 n →
      (n = 3 ∨ s.mem.trans ≠ [] ∨ (getWheel s w).parked = false →
        ∃ t, exec (.memPowerWrite .sp0 v 0xFF) s = .next t ∧ t = { s with mem := { s.mem with errs := s.mem.errs ||| 2 } }) ∧
      (n < 3 → s.mem.trans = [] → (getWheel s w).parked = true → (∀ f d, getFrame s f = some d → d.wheel ≠ w) →
        fld (getWheel s w).evcfg 0 32 = 0 →
        exec (.memPowerWrite .sp0 v 0xFF) s =
          .next { s with mem := { s.mem with sppwr0 := v, trans := [⟨.sp0, w, 0, n⟩] } })) ∧
    (∀ (x : PwrTrans) (l : List PwrTrans), s.mem.trans = x :: l →
      ∃ t, exec .memPowerTransitionDone s = .next t ∧ t.mem.trans = l ∧
        (x.old ≠ 2 → t = { s with mem := { s.mem with trans := l } }) ∧
        (x.old = 2 → x.new < 2 →
          (x.reg = .bank → x.idx < 16 → (∀ a, mpBank a = x.idx → a < 0x400000 → ramRead emptyW t.mp a = some emptyW) ∧
            ∀ a, mpBank a ≠ x.idx → ramRead emptyW t.mp a = ramRead emptyW s.mp a) ∧
          (x.reg = .sp0 → (getWheel t x.idx).spad = {} ∧ ∀ w, w ≠ x.idx → getWheel t w = getWheel s w) ∧
          (x.reg = .pin1 → (getWheel t (32 + x.idx)).pinned = {} ∧ ∀ w, w ≠ 32 + x.idx → getWheel t w = getWheel s w) ∧
          (x.reg = .cs → (getMill t x.idx).cstore = [] ∧ (getMill t x.idx).cdt = [] ∧ (getMill t x.idx).mcId = 0))) ∧
    (s.mem.trans = [] → exec .memPowerTransitionDone s = .next s)) ∧
  (∀ (s : State), running s = true → s.miller.rebuild = false →
    (∀ b : BitVec 4, (s.spare.st ≠ .idle → exec (.substitute b) s = .next { s with spare := { s.spare with err := true } }) ∧
      (s.spare.st = .idle → bankOn s b.toNat = false →
        exec (.substitute b) s = .next { s with spare := { s.spare with bank := b.toNat, err := true } }) ∧
      (s.spare.st = .idle → bankOn s b.toNat = true →
        ∃ t, exec (.substitute b) s = .next t ∧ t.spare = { s.spare with bank := b.toNat, prog := 0, st := .copyin } ∧
          fld t.mem.bankpwr 32 2 = 0 ∧ (fld s.mem.bankpwr 32 2 ≠ 0 → pwrMoves t .bank 16 = true) ∧
          t.mp = s.mp ∧ t.spareRam = s.spareRam)) ∧
    (s.spare.st ≠ .subst → exec .restore s = .next { s with spare := { s.spare with err := true } }) ∧
    (s.spare.st = .subst → bankOn s s.spare.bank = true →
      ∃ t, exec .restore s = .next t ∧ t.spare = { s.spare with prog := 0, isol := false, st := .copyback } ∧ t.mp = s.mp) ∧
    (∃ t, exec .spareAbort s = .next t ∧ t.mp = s.mp ∧ t.spareRam = s.spareRam ∧ t.spare = match s.spare.st with
      | .copyin => { s.spare with st := .idle }
      | .copyback => { s.spare with st := .subst, isol := true }
      | _ => { s.spare with err := true }) ∧
    (bankOn s 16 = true → bankOn s s.spare.bank = true → s.mem.trans = [] → s.spare.bank < 16 →
      (∀ a, tget .ok s.mp.ecc a = .ok) → (∀ a, tget .ok s.spareRam.ecc a = .ok) → tabWf emptyW s.spareRam.cells = true →
      (∀ p ∈ s.mp.cells, p.1 < 0x400000) → (∀ p ∈ s.spareRam.cells, p.1 < 0x40000) →
      (∀ j, j < s.spare.prog → j < 0x40000 → ramRead emptyW s.mp (s.spare.bank * 0x40000 + j) = ramRead emptyW s.spareRam j) →
      (s.spare.st = .copyin ∨ s.spare.st = .copyback →
        ∃ t, exec .spareCopyDone s = .next t ∧ (∀ a, a < 0x400000 → mpRead t a = mpRead s a) ∧ t.spare.done = true ∧
          (s.spare.st = .copyin → t.spare.st = .subst ∧ t.spare.isol = true) ∧ (s.spare.st = .copyback → t.spare.st = .idle)) ∧
      (s.spare.st = .idle ∨ s.spare.st = .subst → exec .spareCopyDone s = .next s)))

/-- R15, R65, R350, R352, R353, R354, R383: TWINCFG and the lanes' control and lock states. A refused write sets ERR and
changes nothing else, also at a lane that the part has not; an uncorrectable block sends the hunt on to the next of the 85
offsets, the eighth good block in a row brings a lane UP, and the fourth uncorrectable codeword in a row takes it out.
R363, R393: what a lane sends in its next slot; the fifth frame completes a block, whose coded words go out. A millrace lane: a due CONTROL message at most once in 8 slots, then
TIME, then DUTY before STATE in at most 7 slots of 8, then IDLE. A ring lane: INTENT, TIME, MEMBER, PUBLISH, IDLE.
Where the step of a command is not enabled, that the command changes nothing is the model's choice (log 13). -/
def Obligations.LanesAndFrameSlots : Prop :=
  (∀ s : State, running s = true →
    (∀ (v : W64) (bad : Bool), v.toNat < 2 ^ 62 → s.twin.cfg.toNat < 2 ^ 62 → s.twin.role ≠ .held →
      bad = ((s.twin.role != .simplex && (fld v 0 24 != fld s.twin.cfg 0 24 || fld v 61 1 != fld s.twin.cfg 61 1)) ||
        fld v 40 4 == 0 || decide (fld v 44 8 < 0x19) || decide (fld v 52 8 < 0x19) || decide (fld v 52 8 < fld v 44 8)) →
      exec (.twincfgWrite v 0xFF) s =
        .next { s with twin := if bad then { s.twin with err := true } else { s.twin with cfg := v } }) ∧
    ∀ k : Fin 4, hasLane s k = true → laneHeld s k = false → ∀ x, x = getLane s k →
      (∀ only : Bool, only = (decide (k.val < 2) && laneUp s k && !laneUp s (1 - k) && s.twin.role != .simplex) →
        (only = true → ∃ t, exec (.lanectlWrite k false) s = .next t ∧ t = { s with lanes := t.lanes } ∧
          getLane t k = { x with err := true } ∧ exec (.laneRetrain k) s = .next t) ∧
        (only = false → ∃ t, exec (.lanectlWrite k false) s = .next t ∧ (getLane t k).en = false ∧
          (getLane t k).txen = false ∧ (getLane t k).st = (if x.st = .retrain then .retrain else .off)) ∧
        (only = false → ∃ t, exec (.laneRetrain k) s = .next t ∧ (getLane t k).st = .retrain ∧ (getLane t k).txen = false ∧
          (getLane t k).en = x.en)) ∧
      (∃ t, exec (.lanectlWrite k true) s = .next t ∧ (getLane t k).en = true ∧ (getLane t k).txen = (x.st != .retrain) ∧
        (getLane t k).st = (if x.st = .off then (if x.rxlock then .hunt else .waitlock) else x.st)) ∧
      (x.st = .retrain → ∃ t, exec (.retrainEnd k) s = .next t ∧ (getLane t k).txen = x.en ∧ t = { s with lanes := t.lanes } ∧
        (getLane t k).st = (if x.rxlock then .hunt else .waitlock)) ∧
      (∀ b : Bool, ∃ t, exec (.laneRxlockChange k b) s = .next t ∧ (getLane t k).rxlock = b ∧ (getLane t k).st = match x.st with
        | .waitlock => if b then .hunt else .waitlock
        | .hunt => if b then .hunt else .waitlock
        | .up => if b then .up else .waitlock
        | c => c) ∧
      ∀ (p : BitVec 7) (f : BitVec 128) (ws : List (BitVec 128)) (r : BitVec 58) (m n : CodewordIn),
        receiveBlock x.dscr (f :: ws) = (r, m, n) →
        rxHeld s k = false →
        (x.blkpos ≠ p.toNat → exec (.laneBlockReceive k p f ws) s = .next s) ∧ (x.blkpos = p.toNat →
        (x.st = .hunt → x.hunt = 7 → x.lastBlk = some (m.blkcnt - 1) → blockGood m n = true →
          ∃ t, exec (.laneBlockReceive k p f ws) s = .next t ∧ (getLane t k).st = .up ∧ (getLane t k).blkpos = p.toNat ∧
            (k.val < 2 → s.twin.joinAt = none → s.twin.peerLost = false → ∀ w : WheelId,
              bitOf (tget 0 s.evroute 42) w = true → bitOf (getWheel s w).evcfg 10 = true →
              (tget none (getWheel t w).events 42).isSome = true)) ∧
        (x.st = .hunt → m.ok = false ∨ n.ok = false → ∃ t, exec (.laneBlockReceive k p f ws) s = .next t ∧
          t = { s with lanes := t.lanes } ∧
          getLane t k = { x with blkpos := (x.blkpos + 1) % 85, hunt := 0, lastBlk := none, dscr := r }) ∧
        (x.st = .hunt → m.ok = true → n.ok = true → blockGood m n = false → ∃ t, exec (.laneBlockReceive k p f ws) s = .next t ∧
          t = { s with lanes := t.lanes } ∧ getLane t k = { x with hunt := 0, lastBlk := none, dscr := r }) ∧
        (x.st = .up → m.ok = true → n.ok = false → 3 ≤ x.bad →
          ∃ t, exec (.laneBlockReceive k p f ws) s = .next t ∧ (getLane t k).st = .up ∧ (getLane t k).bad = 1 ∧
            (getLane t k).uncorr = min 0xFFFF (x.uncorr + 1)) ∧
        (x.st = .up → m.ok = false → 3 ≤ x.bad →
          ∃ t, exec (.laneBlockReceive k p f ws) s = .next t ∧ (getLane t k).st = .hunt ∧
            (getLane t k).uncorr = min 0xFFFF (x.uncorr + 1)) ∧
        (x.st ≠ .hunt → x.st ≠ .up → exec (.laneBlockReceive k p f ws) s = .next { s with lanes := tset {} s.lanes k x }))) ∧
  (∀ (s : State) (k : Fin 4), running s = true → laneHeld s k = false → hasLane s k = false →
    ∃ t, exec (.laneRetrain k) s = .next t ∧ t = { s with lanes := t.lanes } ∧ getLane t k = { getLane s k with err := true } ∧
      ∀ en, exec (.lanectlWrite k en) s = .next t) ∧
  (∀ (s : State), running s = true →
    (∀ k : Fin 4, ∀ x, x = getLane s k → hasLane s k = true → txHeld s k = false →
      (s.twin.joinAt = none ∨ s.twin.copyQ = []) →
      (x.txen = false → exec (.frameSlotFill k) s = .next s) ∧
      (x.txen = true → ∃ t p, exec (.frameSlotFill k) s = .next t ∧ (getLane t k).tx = some (x.txSeq, p) ∧
        (getLane t k).txSeq = x.txSeq + 1 ∧ (∀ j, j ≠ k.val → getLane t j = getLane s j) ∧
        (x.blk.length = 1024 → (getLane t k).blk = [] ∧ (getLane t k).blkcnt = x.blkcnt + 1 ∧
          ∃ b : List Byte, b.length = 256 ∧ (getLane t k).txd = (blockWords x.scr x.blkcnt ((x.blk ++ b).map (·.toNat))).2) ∧
        (x.blk.length + 256 < 1280 → (getLane t k).blk.length = x.blk.length + 256 ∧ (getLane t k).txd = x.txd) ∧
        (k.val < 2 → laneUp s k = false → p = .idle) ∧
        (k.val < 2 → laneUp s k = true →
          (∀ m l, s.twin.due = m :: l → 7 ≤ x.ctlGap → p = .control m.1 s.twin.ackNext m.2 ∧ t.twin.due = l ∧
            (getLane t k).ctlGap = 0) ∧
          (s.twin.due = [] ∨ x.ctlGap < 7 → t.twin.due = s.twin.due ∧
            (x.timeDue = true → (∃ a b, p = .time (stampCut s.ring_time) a b ∧ ∀ q, x.lastT = some q → (a, b) = q) ∧
              (getLane t k).timeDue = false) ∧
            (x.timeDue = false → x.mirRun < 7 →
              (s.twin.dutyQ ≠ [] → p = .duty (s.twin.dutyQ.take 30) ∧ t.twin.dutyQ = s.twin.dutyQ.drop 30) ∧
              (s.twin.dutyQ = [] → s.twin.stateQ ≠ [] → p = .state (s.twin.stateQ.take 2) ∧
                t.twin.stateQ = s.twin.stateQ.drop 2) ∧
              (s.twin.dutyQ = [] → s.twin.stateQ = [] → s.twin.copyQ = [] → p = .idle)) ∧
            (x.timeDue = false → 7 ≤ x.mirRun → p = .idle ∧ t.twin = s.twin))) ∧
        (2 ≤ k.val →
          (∀ y, x.rq.find? isIntentTx = some y → p = y ∧ (getLane t k).rq = x.rq.eraseP isIntentTx) ∧
          (x.rq.find? isIntentTx = none →
            (x.timeDue = true → ∃ a b, p = .time (stampCut s.ring_time) a b) ∧
            (x.timeDue = false →
              (∀ y, x.rq.find? isMemberTx = some y → p = y) ∧
              (x.rq.find? isMemberTx = none → (∀ y, x.rq.find? isPublishTx = some y → p = y) ∧
                (x.rq.find? isPublishTx = none → p = .idle ∧ (getLane t k).rq = x.rq))))))) ∧
    (∃ t, exec .timeFrameSend s = .next t ∧ t = { s with lanes := t.lanes } ∧
      ∀ k : Fin 4, getLane t k = { getLane s k with timeDue := (getLane s k).timeDue || (decide (k.val < 2) && laneUp s k) }) ∧
    (hasRing s = true → ∃ t, exec .ringTimeFrameSend s = .next t ∧ t = { s with lanes := t.lanes } ∧
      ∀ k : Fin 4, getLane t k = { getLane s k with timeDue := (getLane s k).timeDue || (decide (2 ≤ k.val) && laneUp s k) }))

/-- R356, R358, R359, R361, R367, R368, R371, R372, R376: the race frames. A frame that fails its checks only counts
CRCERR. The header of any other feeds the heartbeat and drive-select logic; a DUTY record is compared with the
tracker's own word; a newer STATE record is staged; a TIME frame measures the offset; a COPY record waits for the
newcomer. -/
def Obligations.RaceFrames : Prop :=
  ∀ (s : State) (k : Bool) (h : RaceHdr) (L : Nat), L = raceLane k → running s = true → hasLane s L = true → laneUp s L = true →
    (h.good = false → s.twin.joinAt = none → ∀ (d : List DutyRec) (a b : RingStamp) (r q : StateRec) (x : CopyExt), ∃ t,
      t = { s with lanes := t.lanes } ∧ getLane t L = { getLane s L with crcerr := min 0xFFFF ((getLane s L).crcerr + 1) } ∧
      (∀ j, j ≠ L → getLane t j = getLane s j) ∧
      ∀ i ∈ [Instr.idleFrame k h, .dutyFrame k h d, .stateFrame k h r q, .timeFrame k h a b a b, .copyFrame k h r x],
        exec i s = .next t) ∧
    (h.good = true → s.twin.joinAt = none → s.twin.peerLost = false →
      (∃ t, exec (.idleFrame k h) s = .next t ∧ t = { s with lanes := t.lanes, twin := t.twin } ∧
        (getLane t L).good = ((getLane s L).good + 1) % 2 ^ 32 ∧ (getLane t L).rxSeq = some h.seq ∧
        (∀ p, (getLane s L).rxSeq = some p → (getLane t L).seqerr =
          if h.seq = p + 1 then (getLane s L).seqerr else min 0xFFFF ((getLane s L).seqerr + 1)) ∧
        t.twin.peerDsel = h.dsel ∧ t.twin.peerTrack = h.track ∧ t.twin.peerRole = h.role ∧
        (∀ g, g < 24 → bitOf t.twin.takeAt g = (bitOf s.twin.takeAt g || (tracks s g && !bitOf h.dsel g))) ∧
        (h.hbok = false → t.twin.peerHb = s.twin.peerHb ∧ t.twin.miss = s.twin.miss) ∧
        (h.hbok = true → ∀ p, s.twin.peerHb = some p → s.twin.miss < 3 →
          (0 < (h.hb - p).toNat ∧ (h.hb - p).toNat ≤ 127 → t.twin.peerHb = some h.hb ∧ t.twin.miss = 0 ∧ t.twin.peerhb = true) ∧
          (h.hb = p ∨ 127 < (h.hb - p).toNat → t.twin.peerHb = some p ∧ t.twin.miss = s.twin.miss))) ∧
      (∀ (r o : DutyRec) (n : W64) (j : Nat) (x : Bool), j = r.sail.toNat → j < 192 → tracks s (j / 8) = true →
        tget [] s.twin.ownDuty j = [(o, n)] → o.pidx = r.pidx → (s.ring_time.ns - n).toNat ≤ 2000 →
        x = (fld o.word 26 6 != fld r.word 26 6 || o.safe != r.safe ||
          decide (divThr s * 4096 < ((fld o.word 0 24 : Int) - fld r.word 0 24).natAbs)) →
        (x = true → tget 0 s.twin.cnt j + 1 < divPers s) →
        ∃ t, exec (.dutyFrame k h [r]) s = .next t ∧ tget 0 t.twin.cnt j = (if x then tget 0 s.twin.cnt j + 1 else 0) ∧
          (∀ i, i ≠ j → tget 0 t.twin.cnt i = tget 0 s.twin.cnt i) ∧ t.sails = s.sails ∧ t.wheels = s.wheels) ∧
      (∀ (r q : StateRec) (d : FrameDef), r.valid = true → q.valid = false → mirroring s = true →
        (getFrame s r.frame.toNat = none → ∃ t, exec (.stateFrame k h r q) s = .next t ∧ t.twin.trackBad = true ∧
          t.frames = s.frames) ∧
        (getFrame s r.frame.toNat = some d → frameDriven s d = false → fsState s d.wheel d.slot = 1 →
          (∀ p, d.stagedRec = some p → newer16 r.runcount p.runcount = true) →
          (∀ p, d.stagedRec = none → d.appliedRun = some p → newer16 r.runcount p = true) →
          ∃ t, exec (.stateFrame k h r q) s = .next t ∧ getFrame t r.frame.toNat = some { d with stagedRec := some r } ∧
            t.wheels = s.wheels)) ∧
      (∀ (t1 t2 t3 t4 : RingStamp) (d : Int), d = timeOffset t1 t2 t3 (stampCut t4) →
        ∃ t, exec (.timeFrame k h t1 t2 t3 t4) s = .next t ∧ t.twin.talign = decide (d.natAbs ≤ 2 * 65536) ∧
          (getLane t L).lastT = some (t1, stampCut t4) ∧ (steersTwin s = false → t.ring_time = s.ring_time) ∧
          (steersTwin s = true → 1000 * 65536 < d.natAbs →
            t.ring_time = ofStamp (stampInt s.ring_time + d) ∧ t.ring.stepped = true))) ∧
    ∀ (r : StateRec) (x : CopyExt) (d : FrameDef) (n : Nat), h.good = true → s.twin.peerLost = false →
      s.twin.joinAt = some (n, 4, true) → r.valid = true → getFrame s r.frame.toNat = some d →
      ∃ t, exec (.copyFrame k h r x) s = .next t ∧
        getFrame t r.frame.toNat = some { d with stagedRec := some r, stagedExt := some x }

/-- R360, R375, R376, R378, R381: the CONTROL messages of a joined pair. Each message not yet acted on is acknowledged and
acted on once; ACKONLY only takes its ACK. R376, R377: the steps of a join. A HELLO that differs ends it with its JERR and
the own HELLO still goes out; the newcomer acknowledges COPYDONE when every COPY record has been applied, and becomes
follower once the driver's headers show it as leader (log 99); a step that times out, a message without ACK and a
divergence result without answer end their procedures. Where the step of a command is not enabled, that the command
changes nothing is the model's choice (log 13), and so is that an acted-on CSEQ is remembered over 64 numbers (log 114). -/
def Obligations.ControlMessages : Prop :=
  (∀ (s : State) (k : Bool) (h : RaceHdr) (c : CtlHdr), Heard s k h c →
    (∀ g, ∃ t, exec (.join k h c g) s = .next t ∧ Acked s t c ∧ t.twin.peerDrives = g ∧ t.twin.role = s.twin.role ∧
      t.twin.out = (if c.ack = 0xFFFF then s.twin.out else s.twin.out.filter (·.1 != c.ack))) ∧
    (∀ g i, ∃ t, exec (.handover k h c g i) s = .next t ∧ Acked s t c ∧ t.twin.hand = some (g, true, i)) ∧
    (∀ g, ∃ t, exec (.leave k h c g) s = .next t ∧ Acked s t c ∧ t.twin.role = .simplex ∧ t.twin.hand = none ∧
      t.twin.dutyQ = [] ∧ t.twin.stateQ = [] ∧ (s.rst.drvrel = true → t.twin.drvsel = BitVec.allOnes 24)) ∧
    (∀ b, ∃ t, exec (.hello k h c b) s = .next t ∧ Acked s t c ∧ t.twin.role = s.twin.role ∧ t.twin.drvsel = s.twin.drvsel) ∧
    (∀ n, ∃ t, exec (.copydone k h c n) s = .next t ∧ t.twin.copyDue = some (c.cseq, n) ∧ t.twin.due = []) ∧
    (∀ f j p, (s.twin.chk ≠ none → ∃ t, exec (.divcheck k h c f j p) s = .next t ∧ Acked s t c ∧
        t.twin.dMerged = min 0xFF (s.twin.dMerged + 1) ∧ t.twin.chk = s.twin.chk) ∧
      (s.twin.chk = none → getFrame s f.toNat = none → ∃ t, exec (.divcheck k h c f j p) s = .next t ∧ Acked s t c ∧
        t.twin.dMerged = 0 ∧ t.twin.chk = some ⟨f, j, true, none, none⟩) ∧
      (s.twin.chk = none → ∀ d, getFrame s f.toNat = some d →
        ∃ t, exec (.divcheck k h c f j p) s = .next t ∧ Acked s t c ∧ t.twin.divflag = true ∧ t.twin.dFrame = f ∧
          t.twin.dMerged = 0 ∧ t.twin.dSail = j ∧ t.twin.dOwn = selfCheck s d ∧ t.twin.chk = some ⟨f, j, true, some (selfCheck s d), none⟩ ∧
          ∃ n, (n, CtlMsg.divresult (selfCheck s d)) ∈ t.twin.out)) ∧
    (∀ (b a : BitVec 6) (f : BitVec 9) (j : BitVec 8) (drv dr tr : Bool), s.twin.chk = some ⟨f, j, drv, some a, none⟩ →
      dr = (if drv then a != 0 else b != 0) → tr = (if drv then b != 0 else a != 0) →
      ∃ t, exec (.divresult k h c b) s = .next t ∧ Acked s t c ∧ t.twin.dPeer = b ∧ t.twin.chk = none ∧
        t.twin.dOutcome = (if dr && !tr then 1 else if !dr && tr then 2 else 3) ∧
        t.twin.yieldAt = (if drv && dr && !tr then s.twin.yieldAt ||| (1#24 <<< (j.toNat / 8)) else s.twin.yieldAt)) ∧
    (s.twin.chk = none → ∀ b, ∃ t, exec (.divresult k h c b) s = .next t ∧ Acked s t c ∧ t.twin.chk = none ∧
      t.twin.dPeer = s.twin.dPeer ∧ t.twin.yieldAt = s.twin.yieldAt) ∧
    (∃ t, exec (.ackonly k h c) s = .next t ∧ t.twin.due = [] ∧ t.twin.rxCseq = s.twin.rxCseq ∧
      t.twin.rxDone = s.twin.rxDone ∧
      t.twin.out = if c.ack = 0xFFFF then s.twin.out else s.twin.out.filter (·.1 != c.ack)) ∧
    (∀ l, ∃ t, exec (.intentcopy k h c l) s = .next t ∧ Acked s t c ∧ t.wheels = ((l.take 7).foldl stageIntent s).wheels ∧
      t.ring = ((l.take 7).foldl stageIntent s).ring) ∧
    ∀ e : CtlHdr, (e.cseq ∈ s.twin.rxDone ∨
        ∃ p, s.twin.rxCseq = some p ∧ newer16 e.cseq p = false ∧ 64 ≤ (p - e.cseq).toNat) →
      ∀ g i, ∃ t, exec (.handover k h e g i) s = .next t ∧ t.twin.hand = s.twin.hand ∧ t.twin.ackNext = e.cseq ∧
        t.twin.rxDone = s.twin.rxDone) ∧
  (∀ (s : State), running s = true →
    (∀ (k : Bool) (h : RaceHdr) (c : CtlHdr) (b : HelloBody) (n j : Nat) (newc : Bool), hasLane s (raceLane k) = true →
      laneUp s (raceLane k) = true → h.good = true → s.twin.peerLost = false → s.twin.joinAt = some (n, 3, newc) →
      s.twin.peerHello = none → s.twin.rxCseq = none → s.twin.rxDone = [] → s.twin.copyDue = none →
      helloDiff (ownHello s) b = some j →
      ∃ t r, exec (.hello k h c b) s = .next t ∧ t.twin.joinAt = none ∧ t.twin.jerr = j ∧ (getSlot t .c n).reply = some r ∧
        r.status = 2 ∧ r.detail = j ∧ t.twin.ackNext = c.cseq ∧
        (∀ m ∈ s.twin.out, m.2 = .hello → (m.1 ≠ c.ack ∨ c.ack = 0xFFFF) → m ∈ t.twin.out) ∧
        t.twin.role = (if newc && fld s.twin.cfg 0 24 != 0 then .held else .simplex)) ∧
    (∀ (k : Bool) (h : RaceHdr) (c : CtlHdr) (m n : Nat), hasLane s (raceLane k) = true → laneUp s (raceLane k) = true →
      h.good = true → s.twin.peerLost = false → s.twin.joinAt = some (n, 4, true) → s.twin.rxCseq = none →
      s.twin.rxDone = [] → s.twin.copyDue = none → s.twin.due = [] →
      (m ≤ s.twin.copied → ∃ t, exec (.copydone k h c m) s = .next t ∧ Acked s t c ∧ t.twin.copyDue = none ∧
        (h.role = 1 → t.twin.role = .follower ∧ t.twin.newcomer = true) ∧
        (h.role ≠ 1 → t.twin.role = s.twin.role ∧ t.twin.joinAt = some (n, 5, true))) ∧
      (s.twin.copied < m → ∃ t, exec (.copydone k h c m) s = .next t ∧ t.twin.copyDue = some (c.cseq, m) ∧ t.twin.due = [] ∧
        t.twin.role = s.twin.role)) ∧
    (∀ n st newc, s.twin.joinAt = some (n, st, newc) →
      (st = 1 ∨ st = 2 → ∃ t r, exec .twinJoinStepTimeout s = .next t ∧ t.twin.joinAt = none ∧ t.twin.jerr = st ∧
        (getSlot t .c n).reply = some r ∧ r.status = 8 ∧ r.detail = st) ∧
      (2 < st → exec .twinJoinStepTimeout s = .next s)) ∧
    (∃ t, exec .controlRepeat s = .next t ∧ t = { s with twin := { s.twin with due := t.twin.due } } ∧
      (∀ m ∈ s.twin.due, m ∈ t.twin.due) ∧ ∀ m, m ∈ t.twin.due ↔ m ∈ s.twin.due ∨ m ∈ s.twin.out) ∧
    (s.twin.out = [] → exec .controlTimeout s = .next s) ∧
    (∀ m l, s.twin.out = m :: l → s.twin.leaveAt = none →
      ((∃ g i, m.2 = .handover g i) → ∃ t, exec .controlTimeout s = .next t ∧ t.twin.out = l ∧ t.twin.hand = none) ∧
      ((∃ b, m.2 = .divresult b) ∨ (∃ g, m.2 = .leave g) ∨ (∃ f j p, m.2 = .divcheck f j p) ∨ m.2 = .ackonly → ∃ t, exec .controlTimeout s = .next t ∧ t.twin.out = l ∧
        t.twin.role = s.twin.role ∧ m ∉ t.twin.due) ∧
      (∀ n st newc, s.twin.joinAt = some (n, st, newc) → m.2 = .hello ∨ (∃ g, m.2 = .join g) ∨ (∃ x, m.2 = .copydone x) ∨
          (∃ x, m.2 = .intentcopy x) →
        (st = 6 → ∃ t, exec .controlTimeout s = .next t ∧ t.twin.joinAt = s.twin.joinAt ∧ t.twin.out = l ∧
          t.twin.role = s.twin.role) ∧
        (st ≠ 6 → ∃ t r, exec .controlTimeout s = .next t ∧ t.twin.joinAt = none ∧ t.twin.out = [] ∧
          (getSlot t .c n).reply = some r ∧ r.status = 8 ∧
          ((∃ x, m.2 = .copydone x) ∨ (∃ x, m.2 = .intentcopy x) → t.twin.jerr = 7 ∧ r.detail = 7)))) ∧
    (∀ q : DivChk, ∀ dr tr : Bool, s.twin.chk = some q → (∀ o, o = (if q.driver then q.own else q.peer) →
      dr = decide (o ≠ some 0)) → (∀ o, o = (if q.driver then q.peer else q.own) → tr = decide (o ≠ some 0)) →
      ∃ t, exec .divresultTimeout s = .next t ∧ t.twin.chk = none ∧
        t.twin.dOutcome = if dr && !tr then 1 else if !dr && tr then 2 else 3))

/-- R364, R365, R367, R370, R371: the heartbeat, a miss and the third one that declares the peer lost; a driven frame's
record is queued after its run, and a staged record is written whole while its wheel is parked. Where the step of a
command is not enabled, that the command changes nothing is the model's choice (log 13), and so is that a requester of the
steal register with a request in it makes no other (log 94). -/
def Obligations.HeartbeatsAndMirror : Prop :=
  ∀ (s : State), running s = true →
    (bitOf s.twin.cfg 60 = false → s.twin.hbStopped = false →
      exec .heartbeatEmit s = .next { s with twin := { s.twin with hb := BitVec.ofNat 8 (s.ring_time.ns.toNat / 40) } }) ∧
    (bitOf s.twin.cfg 60 = true ∨ s.twin.hbStopped = true → exec .heartbeatEmit s = .next s) ∧
    (watches s = false ∨ hbReceived s = true → exec .heartbeatMissed s = .next s) ∧
    (watches s = true → hbReceived s = false → s.twin.joinAt = none → s.twin.leaveAt = none →
      ∃ t, exec .heartbeatMissed s = .next t ∧ t.twin.miss = min 0xFF (s.twin.miss + 1) ∧ t.twin.peerhb = false ∧
        (∀ w : WheelId, bitOf (tget 0 s.evroute 43) w = true → bitOf (getWheel s w).evcfg 11 = true →
          (tget none (getWheel t w).events 43).isSome = true) ∧
        (s.twin.miss ≠ 2 ∨ s.twin.peerLost = true → t.twin.role = s.twin.role ∧ t.twin.peerLost = s.twin.peerLost) ∧
        (s.twin.miss = 2 → s.twin.peerLost = false → t.twin.peerLost = true ∧ t.twin.role = .leader ∧ t.twin.out = [] ∧
          t.twin.takeAt = s.twin.cfg.setWidth 24 &&& ~~~ s.twin.drvsel) ∧ t.twin.drvsel = s.twin.drvsel) ∧
    ∀ (w : WheelId) (k : Fin 16) (f : Nat) (d : FrameDef), frameAt s w k = some f → getFrame s f = some d → d.wheel = w.val →
      d.slot = k.val → spadOn s w = true →
      (∀ q, (getWheel s w).steal = some q →
        exec (.mirrorStateCapture w k) s = .next (modWheel s w fun x =>
          if stealHeld x (stealOf (.mirror k)) then x else { x with stealQ := x.stealQ ++ [.mirror k] })) ∧
      (frameDriven s d = true → fsState s w k = 1 → inRunOf s w k = false → (getWheel s w).steal = none → (∀ q ∈ s.twin.stateQ, q.frame.toNat ≠ f % 512) →
        (∀ i, getEcc s (.spad w) (frameAddr k i) = .ok) →
        ∃ t r, exec (.mirrorStateCapture w k) s = .next t ∧ t = { s with twin := { s.twin with stateQ := s.twin.stateQ ++ [r] } } ∧
          r.frame.toNat = f % 512 ∧ r.valid = true ∧ r.runcount = d.runs ∧ r.wakeNs = d.lastWake ∧ r.words.length = 22 ∧
          (∀ i, i < 20 → r.words[i]? = some (fw s w k (12 + i))) ∧ r.words[20]? = some (fw s w k 0) ∧
          r.words[21]? = some (fw s w k 11)) ∧
      (inRunOf s w k = true → (getWheel s w).steal = none → exec (.mirrorStateCapture w k) s = .next s) ∧
      (d.stagedRec = none ∨ (getWheel s w).parked = false → exec (.mirrorStateApply w k) s = .next s) ∧
      ∀ r, d.stagedRec = some r → d.stagedExt = none → r.words.length = 22 → (getWheel s w).parked = true → noWake s w = true →
        d.moveTo = none → fsState s w k = 1 → s.twin.joinAt = none →
        (∀ q, d.appliedRun = some q → newer16 r.runcount q = false →
          ∃ t, exec (.mirrorStateApply w k) s = .next t ∧ t = { s with frames := t.frames } ∧
            getFrame t f = some { d with stagedRec := none }) ∧
        ((∀ q, d.appliedRun = some q → newer16 r.runcount q = true) →
          ∃ t, exec (.mirrorStateApply w k) s = .next t ∧
            getFrame t f = some { d with stagedRec := none, appliedRun := some r.runcount, appliedAt := s.ring_time.ns } ∧
            (∀ i, i < 20 → some (fw t w k (12 + i)) = r.words[i]?) ∧ some (fw t w k 0) = r.words[20]? ∧
            some (fw t w k 11) = r.words[21]? ∧
            (∀ a, (∀ i, i < 64 → a ≠ frameAddr k i) → spadRead t w a = spadRead s w a) ∧
            (∀ i, 32 ≤ i → i < 64 → fw t w k i = fw s w k i) ∧ t.sails = s.sails ∧
            ∀ u, u ≠ w.val → getWheel t u = getWheel s u)

/-- R112, R356, R388, R392, R401, R406, R412: the ring's frames. A bad one counts CRCERR, one on the wrong lane WIRE; a
newer publication posts the four ring leats of its member, a newer intent is counted and staged, and both go on with
HOP one higher. R391, R395 to R401: membership, steering and publications. A newer MEMBER frame makes its member
present; 250 µs of silence end it, and where a link end of the segment is down no member is aligned; a joined member sends
its own; a TIME frame from the timekeeper's side steps or slews ring time, its rate is steered (log 98), and TALIGN holds
once the steering has been locked for 2 ms; a joined member publishes to both lanes and to its own leats; a lost
publication counts and raises event 46 once, and posts POISON each microsecond. How long a hop count of one lane stands is
the model's choice (log 97). Where the step of a command is not enabled, that the command changes nothing is the model's choice (log 13). -/
def Obligations.RingFrames : Prop :=
  (∀ (s : State) (k : Bool) (h : RingHdr) (L o : Nat), L = ringLane k → o = h.origin.toNat → running s = true → hasRing s = true →
    laneUp s L = true →
    (∀ (i : Intent) (p : W64) (q : BitVec 8) (v : List (BitVec 16)) (f : BitVec 4) (a b : RingStamp) (c : W64) (x y z : Bool)
        (e g : BitVec 5) (m : W32) (l : List Instr),
      l = [.ringIdleFrame k h, .ringIntentFrame k h i, .ringPublishFrame k h p q v f, .ringTimeFrame k h a b a b,
        .ringMemberFrame k h c x y z e g q m] →
      (h.good = false → ∃ t, t = { s with lanes := t.lanes } ∧ (∀ c ∈ l, exec c s = .next t) ∧
        getLane t L = { getLane s L with crcerr := min 0xFFFF ((getLane s L).crcerr + 1) }) ∧
      (h.good = true → h.lane = k → ∃ t, t = { s with lanes := t.lanes, ring := { s.ring with wire := min 0xFF (s.ring.wire + 1) } } ∧
        (∀ c ∈ l, exec c s = .next t) ∧ (getLane t L).good = ((getLane s L).good + 1) % 2 ^ 32)) ∧
    (h.good = true → h.lane = !k → ∀ (own : Bool), own = (ringNamed s && o == ringMember s) →
      (∃ t, exec (.ringIdleFrame k h) s = .next t ∧ t = { s with lanes := t.lanes } ∧ (getLane t L).rxSeq = some h.seq) ∧
      (∀ (p : W64) (q : BitVec 8) (v : List (BitVec 16)) (f : BitVec 4),
        (∀ a, (getMem s o).pacc = some a → (q = a ∨ 128 ≤ (q - a).toNat) →
          ∃ t, exec (.ringPublishFrame k h p q v f) s = .next t ∧ t = { s with lanes := t.lanes }) ∧
        ((∀ a, (getMem s o).pacc = some a → q ≠ a ∧ (q - a).toNat < 128) → v.length = 4 →
          ∃ t, exec (.ringPublishFrame k h p q v f) s = .next t ∧ (getMem t o).pseq = q ∧ (getMem t o).pacc = some q ∧
            (getMem t o).lastns.toNat = s.ring_time.ns.toNat % 2 ^ 32 ∧
            (∀ a, (getMem s o).pacc = some a → (getMem t o).gaps =
              if q = a + 1 then (getMem s o).gaps else min 0xFF ((getMem s o).gaps + 1)) ∧
            (∀ i, i ≠ o → getMem t i = getMem s i) ∧
            (∀ (w : WheelId) (e : Fin 16) (j : Nat), j < 4 → (getWake s w e).en = true → (getWake s w e).src = false →
              (getWake s w e).idx = 256 + 4 * o + j → (getWake t w e).latch = (getWake s w e).latch ++
                [(⟨if bitOf f j then .poison else .sample, BitVec.ofNat 32 ((nth 0 v j).toNat + 0x10000 * b2n (bitOf f j) +
                  0x100000 * q.toNat)⟩, s.order + j)]) ∧
            (getLane t (ringLane (!k))).rq = (getLane s (ringLane (!k))).rq ++
              (if own || h.hop.toNat == 31 || !(getLane s (ringLane (!k))).txen then []
               else [.publish o p q v f (h.hop.toNat + 1)]))) ∧
      (∀ i : Intent,
        (∀ a, (getMem s o).iseq = some a → (i.iseq = a ∨ 0x8000 ≤ (i.iseq - a).toNat) →
          ∃ t, exec (.ringIntentFrame k h i) s = .next t ∧ t = { s with lanes := t.lanes }) ∧
        ((∀ a, (getMem s o).iseq = some a → i.iseq ≠ a ∧ (i.iseq - a).toNat < 0x8000) →
          ∃ t, exec (.ringIntentFrame k h i) s = .next t ∧ (getMem t o).iseq = some i.iseq ∧
            t.ring.intents = (s.ring.intents + 1) % 2 ^ 32 ∧
            (getLane t (ringLane (!k))).rq = (getLane s (ringLane (!k))).rq ++
              (if own || h.hop.toNat == 31 || !(getLane s (ringLane (!k))).txen then []
               else [.intent { i with origin := h.origin } (h.hop.toNat + 1)]) ∧
            (ringJoined s = false → t.wheels = s.wheels) ∧
            (ringJoined s = true → ∀ (b : W64) (d : FrameDef) (j m : Nat), s.ring.bind = [b] → bitOf b 19 = true →
              fld b 0 8 = i.set.toNat → getFrame s (fld b 8 9) = some d → j = fld b 17 2 → m = 4 * d.slot + j →
              fsState s d.wheel d.slot = 1 →
              (keyNew (getWheel s d.wheel) m { i with origin := h.origin } = true →
                tget none (getWheel t d.wheel).staged m = some ⟨qWord (if bitOf d.ffq16 j then .q16 else .q31)
                  (isS (fw s d.wheel d.slot (60 + j)).tag) (nearest (i.mag.toInt * ((b >>> 32).setWidth 32).toInt) 31),
                  { i with origin := h.origin }⟩ ∧ t.ring.disc = s.ring.disc) ∧
              (keyNew (getWheel s d.wheel) m { i with origin := h.origin } = false → t.wheels = s.wheels ∧
                t.ring.disc = min 0xFFFF (s.ring.disc + 1))))))) ∧
  (∀ (s : State), running s = true → hasRing s = true →
    (∀ (k : Bool) (h : RingHdr) (o : Nat) (c : W64) (x y z : Bool) (e g : BitVec 5) (q : BitVec 8) (m : W32),
      o = h.origin.toNat → laneUp s (ringLane k) = true → h.good = true → h.lane = !k →
      (ringJoined s = true → ringJoining s = false → o = ringMember s → ∃ t,
        exec (.ringMemberFrame k h c x y z e g q m) s = .next t ∧ t = { s with lanes := t.lanes }) ∧
      (ringJoining s = true → o = ringMember s → ∀ n, s.ring.joinAt = some n → ∃ t r,
        exec (.ringMemberFrame k h c x y z e g q m) s = .next t ∧ t.ring.joinAt = none ∧ t.ring.cfg = 0 ∧
        (getSlot t .c n).reply = some r ∧ r.status = 2 ∧ r.detail = 2) ∧
      (ringJoined s = true → ringJoining s = false → o ≠ ringMember s →
        (∀ a, (getMem s o).mseq = some a → q ≠ a ∧ (q - a).toNat < 128) →
        ∃ t, exec (.ringMemberFrame k h c x y z e g q m) s = .next t ∧ (getMem t o).mseq = some q ∧ (getMem t o).tkok = x ∧
          (getMem t o).up2 = y ∧ (getMem t o).up3 = z ∧ (getMem t o).known = true ∧ (getMem t o).sees = m ∧
          (if k then (getMem t o).hop3 else (getMem t o).hop2) = some (h.hop.toNat + 1) ∧
          (if k then (getMem t o).hop2 = hopStands s.ring_time.ns (getMem s o).hopAt2 (getMem s o).hop2
            else (getMem t o).hop3 = hopStands s.ring_time.ns (getMem s o).hopAt3 (getMem s o).hop3) ∧
          (∀ i, i < 32 → bitOf t.ring.present i = (bitOf s.ring.present i || i == o)) ∧
          (bitOf s.ring.present o = false → ∀ w : WheelId, bitOf (tget 0 s.evroute 44) w = true →
            bitOf (getWheel s w).evcfg 12 = true → (tget none (getWheel t w).events 44).isSome = true) ∧
          (h.hop.toNat < 31 → (getLane s (ringLane (!k))).txen = true → (getLane t (ringLane (!k))).rq =
            (getLane s (ringLane (!k))).rq ++ [.member o c x y z e.toNat g.toNat q m (h.hop.toNat + 1)])) ∧
      (ringJoined s = true → ringJoining s = false → o ≠ ringMember s → ∀ a, (getMem s o).mseq = some a →
        (q = a → ∃ t, exec (.ringMemberFrame k h c x y z e g q m) s = .next t ∧ t.ring.present = s.ring.present ∧
          getMem t o = noteHop (getMem s o) k (h.hop.toNat + 1) s.ring_time.ns ∧
          (getLane t (ringLane (!k))).rq = (getLane s (ringLane (!k))).rq) ∧
        (q ≠ a → 128 ≤ (q - a).toNat → ∃ t, exec (.ringMemberFrame k h c x y z e g q m) s = .next t ∧
          t = { s with lanes := t.lanes }))) ∧
    (∀ i : Fin 32, (bitOf s.ring.present i = false ∨ (ringJoined s = true ∧ ringMember s = i.val) →
        exec (.memberPresenceExpiry i) s = .next s) ∧
      (bitOf s.ring.present i = true → (ringJoined s = false ∨ ringMember s ≠ i.val) →
        ∃ t, exec (.memberPresenceExpiry i) s = .next t ∧ (getMem t i).hop2 = none ∧ (getMem t i).hop3 = none ∧
          (getMem t i).mseq = (getMem s i).mseq ∧
          (segmentEndsDown t ≠ 0 → ringElect t ≠ none → t.ring.talign = false) ∧
          ∀ j, j < 32 → bitOf t.ring.present j = (bitOf s.ring.present j && j != i.val))) ∧
    (ringJoined s = false → exec .memberFrameSend s = .next s ∧ exec .publishEmit s = .next s) ∧
    (ringJoined s = true →
      (∃ t, exec .memberFrameSend s = .next t ∧ t.ring.mseq = s.ring.mseq + 1 ∧ ∀ L, L = 2 ∨ L = 3 →
        (getLane t L).rq = (getLane s L).rq ++ (if (getLane s L).txen then [.member (ringMember s) s.capsId (ringTkok s)
          (laneUp s 2) (laneUp s 3) s.ring.tkeeper s.ring.tkhops (s.ring.mseq + 1) s.ring.present 0] else [])) ∧
      (∃ t v f, exec .publishEmit s = .next t ∧ v = (List.range 4).map (fun j => (pubValue s j).1) ∧
        (∀ j, j < 4 → bitOf f j = (pubValue s j).2) ∧
        (∀ L, L = 2 ∨ L = 3 → (getLane t L).rq = (getLane s L).rq ++ (if (getLane s L).txen then
          [.publish (ringMember s) (BitVec.ofNat 64 (s.ring_time.ns.toNat / 1000 * 1000))
            (BitVec.ofNat 8 (s.ring_time.ns.toNat / 1000)) v f 0] else [])) ∧
        ∀ (w : WheelId) (e : Fin 16) (j : Nat), j < 4 → (getWake s w e).en = true → (getWake s w e).src = false →
          (getWake s w e).idx = 256 + 4 * ringMember s + j → ∃ x, (getWake t w e).latch = (getWake s w e).latch ++ [x] ∧
            (x.1.tag = .poison ↔ (pubValue s j).2 = true) ∧ fld x.1.val 0 16 = (pubValue s j).1.toNat) ∧
      (∀ i : Fin 32, ringMember s ≠ i.val → (getMem s i).known = true → 2000 ≤ (s.ring_time.ns - (getMem s i).pubAt).toNat →
        ∃ t, exec (.publicationLost i) s = .next t ∧ (getMem t i).silent = true ∧ (getMem t i).pubAt = (getMem s i).pubAt + 1000 ∧
          (getMem t i).lost = (if (getMem s i).silent then (getMem s i).lost else min 0xFF ((getMem s i).lost + 1)) ∧
          (∀ (w : WheelId) (e : Fin 16) (j : Nat), j < 4 → (getWake s w e).en = true → (getWake s w e).src = false →
            (getWake s w e).idx = 256 + 4 * i + j → ∃ x, (getWake t w e).latch = (getWake s w e).latch ++ [x] ∧
              x.1.tag = .poison ∧ fld x.1.val 20 8 = (getMem s i).pseq.toNat) ∧
          ((getMem s i).silent = true → ∀ w, tget none (getWheel t w).events 46 = tget none (getWheel s w).events 46) ∧
          ((getMem s i).silent = false → ∀ w : WheelId, bitOf (tget 0 s.evroute 46) w = true →
            bitOf (getWheel s w).evcfg 14 = true → (tget none (getWheel t w).events 46).isSome = true)) ∧
      ∀ i : Fin 32, (ringMember s = i.val ∨ (getMem s i).known = false ∨ (s.ring_time.ns - (getMem s i).pubAt).toNat < 2000) →
        exec (.publicationLost i) s = .next s) ∧
    (∀ (k : Bool) (h : RingHdr) (a b c d : RingStamp) (x : Int), laneUp s (ringLane k) = true → h.good = true → h.lane = !k →
      x = timeOffset a b c (stampCut d) → s.ring.joinAt = none →
      ∃ t, exec (.ringTimeFrame k h a b c d) s = .next t ∧ (getLane t (ringLane k)).lastT = some (a, stampCut d) ∧
        (ringJoined s = false ∨ s.ring.tkeeper = ringMember s ∨ ringLane k ≠ steerLane s ∨ s.ring.present = 0 →
          t.ring_time = s.ring_time ∧ t.ring = s.ring) ∧
        (ringJoined s = true → s.ring.tkeeper ≠ ringMember s → ringLane k = steerLane s → s.ring.present ≠ 0 →
          t.ring.talign = (ringLocked t && decide (s.ring.tkhops ≤ 16) && !s.ring.parted) ∧
          (2 * 65536 < x.natAbs → t.ring.lockAt = none) ∧
          (x.natAbs ≤ 2 * 65536 → t.ring.lockAt = some (s.ring.lockAt.getD t.ring_time.ns)) ∧
          t.ring.rate = max (-ratePpm) (min ratePpm (Config.steerRate s.ring.rate x)) ∧
          (20 * 65536 < x.natAbs → t.ring_time = ofStamp (stampInt s.ring_time + x) ∧ t.ring.stepped = true) ∧
          (x.natAbs ≤ 20 * 65536 → t.ring.stepped = s.ring.stepped ∧ t.ring_time = if x ≠ 0 ∧ mayStep s = true
            then ofStamp (stampInt s.ring_time + max (-65536) (min 65536 x)) else s.ring_time))) ∧
    (∀ n, s.ring.joinAt = some n → ∃ t r, exec .ringJoinTimeout s = .next t ∧ t.ring.joinAt = none ∧ t.ring.cfg = 0 ∧
      t.ring.bind = [] ∧ (getSlot t .c n).reply = some r ∧ r.status = 8 ∧ r.detail = 0) ∧
    (s.ring.joinAt = none → exec .ringJoinTimeout s = .next s))

/-- R415, R416, R417, R422: a doorbell queues a FREE slot, behind the packets already queued; a release of a DONE slot
clears its cells, its reply and its completeness record; the slot is FREE once that has finished. Every other doorbell
or release changes nothing but HOPSTAT.ERR. R421, R422, R429, R524: the engine starts the oldest queued packet unless
it has to wait, and checks it in order: cell 0 incomplete, an opcode undefined or not accepted here, NCELLS out of
range or a cell incomplete, an opcode not served in FALLBACK; a packet that passes is RUNNING. Where the step of a
command is not enabled, that the command changes nothing is the model's choice (log 13). -/
def Obligations.HopperPackets : Prop :=
  (∀ (s : State) (h : HopId) (n : SlotId), running s = true →
    ((getSlot s h n).st ≠ .free → exec (.hopperDoorbell h n) s = .next (modHop s h fun x => { x with err := true })) ∧
    ((getSlot s h n).st = .free → pktOp s h n ≠ 0x7F →
      ∃ t, exec (.hopperDoorbell h n) s = .next t ∧ (getSlot t h n).st = .queued ∧
        (getSlot t h n).cells = (getSlot s h n).cells ∧ (getHop t h).queue = (getHop s h).queue ++ [n.val] ∧
        (getHop t h).err = (getHop s h).err ∧ (∀ m, m ≠ n.val → getSlot t h m = getSlot s h m) ∧
        t = { s with hopC := t.hopC, hopS := t.hopS }) ∧
    ((getSlot s h n).st ≠ .done → exec (.hopperRelease h n) s = .next (modHop s h fun x => { x with err := true })) ∧
    ((getSlot s h n).st = .done → ∃ t, exec (.hopperRelease h n) s = .next t ∧ getSlot t h n = { st := .clearing } ∧
      (getHop t h).donecnt = (getHop s h).donecnt ∧ (∀ m, m ≠ n.val → getSlot t h m = getSlot s h m) ∧
      t = { s with hopC := t.hopC, hopS := t.hopS }) ∧
    ((getSlot s h n).st = .clearing → ∃ t, exec (.hopperSlotCleared h n) s = .next t ∧ getSlot t h n = {} ∧
      (∀ m, m ≠ n.val → getSlot t h m = getSlot s h m) ∧ t = { s with hopC := t.hopC, hopS := t.hopS }) ∧
    ((getSlot s h n).st ≠ .clearing → exec (.hopperSlotCleared h n) s = .next s)) ∧
  (∀ (s : State) (h : HopId), running s = true →
    ((getHop s h).queue = [] → exec (.hopperPacketStart h) s = .next s) ∧
    ∀ (n : Nat) (l : List Nat) (c : Nat), (getHop s h).queue = n :: l → c = pktCells s h n →
      (cellDone s h n 0 = true → isBg s h n = true → 4 ≤ bgRunning s h → exec (.hopperPacketStart h) s = .next s) ∧
      ((∃ k ∈ runningSlots s h, isBg s h k = false) → exec (.hopperPacketStart h) s = .next s) ∧
      ((∀ k ∈ runningSlots s h, isBg s h k = true) → ((getHop s h).fallback = true → runningSlots s h = []) →
        bgRunning s h < 4 → ∃ t, exec (.hopperPacketStart h) s = .next t ∧
          (cellDone s h n 0 = false → Answered s t h n 5 0 [] []) ∧
          (cellDone s h n 0 = true → (∀ i, cmdInfo (pktOp s h n) = some i → accepts h i = false) → Answered s t h n 4 0 [] []) ∧
          ∀ i, cellDone s h n 0 = true → cmdInfo (pktOp s h n) = some i → accepts h i = true →
            (c = 0 ∨ i.cells < c → Answered s t h n 5 (0x100 + c) [] []) ∧
            (0 < c → c ≤ i.cells →
              (∀ k, k < c → cellDone s h n k = false → (∀ j, j < k → cellDone s h n j = true) → Answered s t h n 5 k [] []) ∧
              ((∀ j, j < c → cellDone s h n j = true) → pktOp s h n ≠ 0x23 →
                ((getHop s h).fallback = true → pktOp s h n ∉ [0x01, 0x02, 0x32, 0x60, 0x61, 0x70, 0x71, 0x7F] →
                  Answered s t h n 2 2 [] []) ∧
                ((getHop s h).fallback = false ∨ pktOp s h n ∈ [0x01, 0x02, 0x32, 0x60, 0x61, 0x70, 0x71, 0x7F] →
                  (getSlot t h n).st = .running ∧ (getSlot t h n).phase = 0 ∧ (getSlot t h n).clamps = [] ∧
                  (getSlot t h n).cells = (getSlot s h n).cells ∧ (getHop t h).queue = l.filter (· != n) ∧
                  (∀ m, m ≠ n → getSlot t h m = getSlot s h m) ∧ t = { s with hopC := t.hopC, hopS := t.hopS })))))

/-- R430, R448, R476, R507: what the reading commands return. PING with HOPKICK also kicks the watchdog. R424, R449: ABORT
finds the packet with its TAG. With none it completes with 07h; a queued packet leaves the queue and completes with
08h; a running one is stopped, and ABORT does not wait for it. R424, R523: a command's timeout stops it with 08h where
it has changed nothing and with 09h where it has, but not past a commit point; an immediate command has none. The
Miller's take-over of a hopper sets FALLBACK and ends its commands with 08h. Where the step of a command is not
enabled, that the command changes nothing is the model's choice (log 13). -/
def Obligations.HopperQueriesAndStops : Prop :=
  (∀ (s : State) (h : HopId) (n : SlotId), (getSlot s h n).clamps = [] →
    (starting s h n 0x01 = true → ∃ t, exec (.ping h n) s = .next t ∧
      Answered s t h n 0 0 [s.capsId, s.ring_time.ns, hopstat s h] [] ∧
      t.rst.wdCnt = if s.rst.wdHop then 0 else s.rst.wdCnt) ∧
    (starting s h n 0x02 = true → ∃ t, exec (.queryCaps h n) s = .next t ∧
      Answered s t h n 0 0 [s.capsId, s.capsUnits, millcfgReg s, serialOf s] []) ∧
    (starting s h n 0x71 = true → (carried s h n 0 = false ∨ (fieldOr s h n 0 0).toNat < 3) →
      ∃ t, exec (.sensorRead h n) s = .next t ∧ Answered s t h n 0 0 (sensorList s (fieldOr s h n 0 0).toNat) []) ∧
    (starting s h n 0x70 = true → s.miller.rebuild = false → ∀ (q c k : Nat) (l : List Nat),
      logKept s = k :: l → carried s h n 0 = true → carried s h n 1 = true → (fieldOr s h n 0 0).toNat = q →
      (fieldOr s h n 1 0).toNat = c → k ≤ q → q < 0x100000000 → 0 < c → c ≤ 62 →
      ∃ t r, exec (.logRead h n) s = .next t ∧ Answered s t h n 0 0 r [] ∧
        ∀ e es, ((k :: l).filter fun q' => q ≤ q').take c = e :: es →
          nth 0 r 0 = BitVec.ofNat 64 e ∧ nth 0 r 1 = BitVec.ofNat 64 (es.length + 1) ∧
          nth 0 r 2 = BitVec.ofNat 64 (retVal s 0x720 - 1) ∧
          ∀ i j, i ≤ es.length → j < 4 → ∀ w, logFind s (nth e (e :: es) i) = some w → w.length = 4 →
            (∀ q' ∈ e :: es, ∀ w', logFind s q' = some w' → w'.length = 4) →
            nth 0 r (3 + 4 * i + j) = BitVec.ofNat 64 (nth 0 w j))) ∧
  (∀ (s : State) (h : HopId) (n : SlotId), starting s h n 0x7F = true → (getSlot s h n).clamps = [] → carried s h n 0 = true →
    fieldOr s h n 0 0 &&& 0xFFFF = fieldOr s h n 0 0 → ∀ T : BitVec 16, T = (fieldOr s h n 0 0).setWidth 16 →
    (tagTarget s h n T = none → ∃ t, exec (.abort h n) s = .next t ∧ Answered s t h n 7 0 [] []) ∧
    ∀ k, tagTarget s h n T = some k → k ≠ n.val ∧ pktTag s h k = T ∧ ∃ t, exec (.abort h n) s = .next t ∧
      ((getSlot s h k).st = .queued ∨ ((getSlot s h k).st = .running ∧ ((getSlot s h k).phase = 0 ∧ pktOp s h k ≠ 0x30 ∨
          pktOp s h k ∈ [0x10, 0x11, 0x20, 0x21, 0x23, 0x24])) →
        ∃ r, (getSlot t h n).st = .done ∧ (getSlot t h n).reply = some r ∧ r.status = 0 ∧ r.results = [BitVec.ofNat 64 k] ∧
          ((getSlot s h k).st = .queued → (getSlot t h k).st = .done ∧ k ∉ (getHop t h).queue ∧
            (getHop t h).donecnt = ((getHop s h).donecnt + 2) % 0x100000000 ∧
            ∃ q, (getSlot t h k).reply = some q ∧ q.status = 8 ∧ q.detail = (if pktOp s h k = 0x30 then 8 else 0) ∧
              (pktOp s h k = 0x30 → t.twin.jerr = 8) ∧ q.results = [] ∧ q.clamps = []) ∧
          ((getSlot s h k).st = .running → (getSlot s h k).phase = 0 → pktOp s h k ≠ 0x30 →
            (getSlot t h k).st = .done ∧ ∃ q, (getSlot t h k).reply = some q ∧ q.status = 8))) ∧
  (∀ (s : State) (h : HopId) (n : SlotId) (x : Slot), running s = true → x = getSlot s h n →
    (isBg s h n = false → exec (.hopperCommandTimeout h n) s = .next s) ∧
    (x.st = .running → x.clamps = [] →
      (isBg s h n = true → x.phase = 0 → pktOp s h n ≠ 0x30 →
        ∃ t, exec (.hopperCommandTimeout h n) s = .next t ∧ Answered s t h n 8 0 [] []) ∧
      (x.phase = 1 → pktOp s h n = 0x10 ∨ pktOp s h n = 0x11 → x.committed = true →
        exec (.hopperCommandTimeout h n) s = .next s) ∧
      (x.phase = 1 → pktOp s h n = 0x10 ∨ pktOp s h n = 0x11 → x.committed = false →
        ∃ t, exec (.hopperCommandTimeout h n) s = .next t ∧ Answered s t h n 8 0 [] []) ∧
      (x.phase = 1 → pktOp s h n = 0x20 →
        ∃ t, exec (.hopperCommandTimeout h n) s = .next t ∧ Answered s t h n (if x.changed then 9 else 8) 0 [] []) ∧
      (x.phase = 1 → pktOp s h n = 0x21 → ∃ t, exec (.hopperCommandTimeout h n) s = .next t ∧
        Answered s t h n (if x.changed then 9 else 8) 0 [BitVec.ofNat 64 (nth 0 x.aux 0)] [] ∧
        ∀ w k f, w < 64 → FrameAct.start k f h n ∉ (getWheel t w).acts) ∧
      (x.phase = 1 → pktOp s h n = 0x22 → ∃ t, exec (.hopperCommandTimeout h n) s = .next t ∧
        (getSlot t h n).st = .done ∧ (∀ f ∈ x.aux, ∀ d, getFrame t f = some d → d.stop = false) ∧
        ∀ w f, w < 64 → FrameAct.stop f h n ∉ (getWheel t w).acts)) ∧
    ((getHop s h).fallback = true → exec (.hopperFallback h) s = .next s) ∧
    ((getHop s h).fallback = false → ∃ t, exec (.hopperFallback h) s = .next t ∧ (getHop t h).fallback = true ∧
      (runningSlots s h = [] → ∃ u, t = logEntry u 0xB (match h with | .c => 0 | .s => 1) 0 0 ((hopstat u h).toNat % 0x100000000) ∧
        u = modHop s h fun y => { y with fallback := true }) ∧
      (runningSlots s h = [n.val] → pktOp s h n ∈ [0x12, 0x20, 0x24, 0x60, 0x61] →
        (getSlot t h n).st = .done ∧ (getSlot t h n).holds = [] ∧
        ∃ r, (getSlot t h n).reply = some r ∧ r.status = 8) ∧
      (runningSlots s h = [n.val] → pktOp s h n = 0x10 ∨ pktOp s h n = 0x11 → x.phase ≠ 0 → x.committed = true →
        (getSlot t h n).st = .running)))

/-- R379: TWIN_STATUS returns TWINSTAT, TWINTAKE, TWINDIV and the four lane registers of lanes 0 and 1. Beside its own
completion, with the event that its packet's NOTIFY asks for, it changes nothing. -/
def Obligations.TwinStatusReports : Prop :=
  ∀ (s : State) (h : HopId) (n : SlotId), starting s h n 0x32 = true → (getSlot s h n).clamps = [] →
    ∃ t, exec (.twinStatus h n) s = .next t ∧
      Answered s t h n 0 0 ([twinstat s, s.twin.take, twindiv s] ++ laneRegs s 0 ++ laneRegs s 1) [] ∧
      t = { s with hopC := t.hopC, hopS := t.hopS, wheels := t.wheels } ∧
      (pktNotify s h n = false → t.wheels = s.wheels) ∧
      (∀ w, getWheel t w = { getWheel s w with events := (getWheel t w).events }) ∧
      ∀ k m, k ≠ h → getSlot t k m = getSlot s k m ∧ (getHop t k).queue = (getHop s k).queue

/-- R274 to R277, R431, R514 to R517: LOAD_MICROCODE and LOAD_IMAGE are refused for an image out of range, an absent or
held mill, or a started loop; an image that fails a check is answered with 06h and the order of the check; a good one
passes the commit point, is written, and leaves its identity in the records of its mills. -/
def Obligations.Images : Prop :=
  ∀ (s : State) (h : HopId) (n : SlotId),
    (∀ c, c = Instr.loadMicrocode h n ∧ starting s h n 0x11 = true ∨ c = Instr.loadImage h n ∧ starting s h n 0x10 = true →
      (imageRange s h n = false → ∃ t, exec c s = .next t ∧ Answered s t h n 7 1 [] []) ∧
      (imageRange s h n = true → (∃ m ∈ cmdMills s h n, nMills s ≤ m) → ∃ t, exec c s = .next t ∧ Answered s t h n 7 2 [] []) ∧
      (imageRange s h n = true → (∀ m ∈ cmdMills s h n, m < nMills s) →
        ((∃ m ∈ cmdMills s h n, heldMill s m = true) → ∃ t, exec c s = .next t ∧ Answered s t h n 2 1 [] []) ∧
        ((∀ m ∈ cmdMills s h n, heldMill s m = false) → anyStarted s (cmdMills s h n) = true →
          ∃ t, exec c s = .next t ∧ Answered s t h n 2 2 [] []) ∧
        ((∀ m ∈ cmdMills s h n, heldMill s m = false) → anyStarted s (cmdMills s h n) = false →
          ∃ t, exec c s = .next t ∧ (getSlot t h n).st = .running ∧ (getSlot t h n).phase = 1 ∧
            (getSlot t h n).holds = (cmdMills s h n).map Obj.mill ∧ (∀ m, (getMill t m).cstore = (getMill s m).cstore)))) ∧
    (∀ b, b = auxBytes s h n 0 → (getSlot s h n).clamps = [] →
      (inPhase s h n 0x11 1 = true → (∀ st o, mcCheck s b = some (st, o) →
          ∃ t, exec (.loadMicrocode h n) s = .next t ∧ Answered s t h n st o [imageId b, BitVec.ofNat 64 (mcKeyOf b)] [] ∧
            ∀ m, getMill t m = getMill s m) ∧
        (mcCheck s b = none → ∃ t, exec (.loadMicrocode h n) s = .next t ∧ (getSlot t h n).phase = 2 ∧
          (getSlot t h n).committed = true ∧ (∀ m ∈ cmdMills s h n, (getMill t m).cdt = []) ∧
          ∀ m, m ∉ cmdMills s h n → getMill t m = getMill s m)) ∧
      (inPhase s h n 0x11 2 = true →
        ∃ t, exec (.loadMicrocode h n) s = .next t ∧ Answered s t h n 0 0 [imageId b, BitVec.ofNat 64 (mcKeyOf b)] [] ∧
          (∀ m, m ∉ cmdMills s h n → getMill t m = getMill s m) ∧
          ∀ m ∈ cmdMills s h n, (getMill t m).mcId = imageId b ∧ (getMill t m).mcKey = mcKeyOf b ∧
            (getMill t m).mcDigest = sha384 b ∧ (getMill t m).mcCount = ((getMill s m).mcCount + 1) % 0x100000000 ∧
            (∀ i, i < 32 → tget 0 (getMill t m).cdt i = BitVec.ofNat 64 (ile b (192 + 16 * mcWords b + 8 * i) 8)) ∧
            ∀ i, tget 0 (getMill t m).cstore (0x1000 + mcBase b + i) =
              if i < mcWords b then BitVec.ofNat 112 (ile b (192 + 16 * i) 14) else 0)) ∧
    (∀ b, b = auxBytes s h n 3 → (getSlot s h n).clamps = [] →
      (inPhase s h n 0x10 1 = true →
        (∀ o, progCheck s b (cmdMills s h n) = some o → ∃ t, exec (.loadImage h n) s = .next t ∧
          Answered s t h n 6 o [imageId b, BitVec.ofNat 64 (ib b 6)] [] ∧ ∀ m, getMill t m = getMill s m) ∧
        (progCheck s b (cmdMills s h n) = none → imageBanks s b = [] →
          ∃ t, exec (.loadImage h n) s = .next t ∧ (getSlot t h n).phase = 2 ∧ (getSlot t h n).committed = true ∧
            (∀ m, getMill t m = if m ∈ cmdMills s h n then { getMill s m with progId := 0 } else getMill s m))) ∧
      (inPhase s h n 0x10 2 = true → nSect b ≤ auxAt s h n 0 →
        ∃ t, exec (.loadImage h n) s = .next t ∧ Answered s t h n 0 0 [imageId b, BitVec.ofNat 64 (ib b 6)] [] ∧
          (∀ m, getMill t m = if m ∈ cmdMills s h n then { getMill s m with progId := imageId b } else getMill s m) ∧
          (selF s h n 3 0 2 = 1 → t.miller.bootA.valid = true ∧ t.miller.bootA.kept = true ∧
            t.miller.bootA.imageId = imageId b ∧ t.miller.bootA.gen = s.miller.bootB.gen + 1 ∧
            t.miller.bootA.digest = sha384 b ∧ t.miller.bootB = s.miller.bootB) ∧
          (selF s h n 3 0 2 = 0 ∨ selF s h n 3 0 2 = 3 → t.miller.bootA = s.miller.bootA ∧ t.miller.bootB = s.miller.bootB)) ∧
      (inPhase s h n 0x10 2 = true → s.rst.vps = true → ∀ k x, k = auxAt s h n 0 → k < nSect b → x = sectAt b k → x.ty ≠ 1 →
        ∃ t, exec (.loadImage h n) s = .next t ∧ auxAt t h n 0 = k + 1 ∧ (getSlot t h n).st = .running ∧
          (∀ i, i < nEntries x →
            (x.ty = 3 → tget 0 (if x.unit = 1 then t.segS else t.segC) (x.tgt + i) = sectEntry b x i) ∧
            (x.ty = 4 → tget 0 (if x.unit = 1 then t.excS else t.excC) (x.tgt + i) = sectEntry b x i) ∧
            (x.ty = 6 → tget 0 t.evroute (x.tgt + i) = sectEntry b x i)) ∧
          (x.ty = 5 → (getWheel t x.unit).evcfg = sectEntry b x 0) ∧
          (x.ty = 7 → (if x.unit = 1 then t.fentS else t.fentC) = sectEntry b x 0))) ∧
    (starting s h n 0x12 = true → (getSlot s h n).clamps = [] →
      (imageRange s h n = false → ∃ t, exec (.verify h n) s = .next t ∧ Answered s t h n 7 1 [] []) ∧
      ∀ b, b = (readImage s (selF s h n 0 0 22) (selF s h n 1 0 32)).2 → imageRange s h n = true →
        (∀ a, mpOn s a = true ∧ getEcc s (mpSel s a).1 (mpSel s a).2 = .ok) → loadClamps s h n 1 false = [] →
        ∃ t, exec (.verify h n) s = .next t ∧ (∀ m, getMill t m = getMill s m) ∧
          (selF s h n 2 0 1 = 1 → Answered s t h n (if (mcCheck s b).isSome then 6 else 0) (((mcCheck s b).map (·.2)).getD 0)
            ([imageId b, BitVec.ofNat 64 (mcKeyOf b)] ++ digestWords (sha384 b)) []) ∧
          (selF s h n 2 0 1 = 0 → Answered s t h n (if (progCheck s b (List.range (nMills s))).isSome then 6 else 0)
            ((progCheck s b (List.range (nMills s))).getD 0)
            ([imageId b, BitVec.ofNat 64 (ib b 6)] ++ digestWords (sha384 b)) []))

/-- R89, R90, R421, R432 to R434: LOOP_DEFINE names the field of a selector that names nothing, or refuses; else, on a
ready and parked wheel, it writes the 64 words of the frame into the lowest free slot, allocates its wake entries, and
takes its sails; OP delete frees them. R95, R435, R544: LOOP_START queues a start to the wheel of each stopped frame
and completes once none is pending; LOOP_STOP queues a stop to the wheel of each started frame (log 112), which marks it to
stop at its boundary, and completes once every named frame is stopped. Both refuse an undefined or held frame; LOOP_START also one in use by an
exception. R436 to R438: LOOP_PARAM_SET queues the words of its mask to the frame's wheel, a feed-forward word of a wrong family as
zero of its own; LOOP_PARAM_GET reads the masked words of a parked wheel's frame, after R0 and the frame's wake
entries. R439 to R441, R544: LOOP_MIGRATE refuses a frame, mill or wheel that does not exist and a standby mill that
is not free; else, with the target wheel ready, the frame is due to move at its boundary and the target mill's store
is matched from the Miller's verified copy; it answers how many moved. Where the step of a command is not enabled, that the command changes nothing is
the model's choice (log 13). -/
def Obligations.LoopCommands : Prop :=
  (∀ (s : State) (h : HopId) (n : SlotId) (f w : Nat), starting s h n 0x20 = true → f = dFrame s h n → w = dWheel s h n →
    (dOp s h n ≠ 2 → nWheels s ≤ w → ∃ t, exec (.loopDefine h n) s = .next t ∧ Answered s t h n 7 0 [] []) ∧
    (dOp s h n ≠ 0 → getFrame s f = none → ∃ t, exec (.loopDefine h n) s = .next t ∧ Answered s t h n 7 0 [] []) ∧
    (∀ i, dSelector s h n = some i → ∃ t, exec (.loopDefine h n) s = .next t ∧ Answered s t h n 7 i [] []) ∧
    (∀ k, dSelector s h n = none → dRefusal s h n = some k →
      ∃ t, exec (.loopDefine h n) s = .next t ∧ Answered s t h n 2 k [] []) ∧
    (dSelector s h n = none → dRefusal s h n = none →
      (dOp s h n = 0 → wheelReady s w = true → canApply s w = true → ∀ k fr v0 v1 e0 e1,
        freeSlot s w = some k → fr = freeWakes s w → v0 = dWake s h n 0 → v1 = dWake s h n 1 →
        e0 = nth 0 fr 0 → e1 = nth 0 fr (b2n (wkEn v0)) →
        ∃ t d, exec (.loopDefine h n) s = .next t ∧ getFrame t f = some d ∧ d.wheel = w ∧ d.slot = k ∧ d.home = none ∧
          Answered s t h n (if dClamps s h n = [] then 0 else 1) 0
            [pk [(0, f), (16, w), (24, k)], pk [(0, if wkEn v0 then e0 else 15), (4, if wkEn v1 then e1 else 15)]]
            (dClamps s h n) ∧
          (∀ i, i < 64 → fw t w k i = nth emptyW (dWords s h n) i) ∧
          (∀ a, (∀ i, i < 64 → a ≠ frameAddr k i) → spadWord t w a = spadWord s w a) ∧
          (∀ e, getWake t w e = if wkEn v1 ∧ e = e1 then dEnt v1 k else if wkEn v0 ∧ e = e0 then dEnt v0 k else getWake s w e) ∧
          (∀ j ∈ dNamed s h n, getSail t j = { getSail s j with owned := true, owner := w }) ∧
          (∀ j, j ∉ dNamed s h n → getSail t j = getSail s j) ∧ (∀ g, g ≠ f → getFrame t g = getFrame s g) ∧ t.mp = s.mp) ∧
      (dOp s h n = 2 → ∀ d, getFrame s f = some d →
        ∃ t, exec (.loopDefine h n) s = .next t ∧ getFrame t f = none ∧
          Answered s t h n (if dClamps s h n = [] then 0 else 1) 0 (defResults f d) (dClamps s h n) ∧
          (∀ e ∈ frameWakes d, getWake t d.wheel e = {}) ∧
          (∀ j ∈ frameSails s d.wheel d.slot, ownsSail s d.wheel j = true →
            getSail t j = { getSail s j with owned := false, owner := 0 }) ∧
          (∀ j, j ∉ frameSails s d.wheel d.slot ∨ ownsSail s d.wheel j = false → getSail t j = getSail s j) ∧
          (∀ g, g ≠ f → getFrame t g = getFrame s g) ∧ ∀ v a, spadWord t v a = spadWord s v a))) ∧
  (∀ (s : State) (h : HopId) (n : SlotId) (l : List Nat), l = maskFrames s h n → (getSlot s h n).clamps = [] →
    (∀ c, c = Instr.loopStart h n ∧ starting s h n 0x21 = true ∨ c = Instr.loopStop h n ∧ starting s h n 0x22 = true →
      (∀ f, f ∈ l → getFrame s f = none → (∀ g ∈ l, g < f → (getFrame s g).isSome = true) →
        ∃ t, exec c s = .next t ∧ Answered s t h n 7 (f / 64) [] []) ∧
      ((∀ f ∈ l, (getFrame s f).isSome = true) → (∃ f ∈ l, held s (.frame f) = true) →
        ∃ t, exec c s = .next t ∧ Answered s t h n 2 1 [] [])) ∧
    ((∀ f ∈ l, (getFrame s f).isSome = true ∧ held s (.frame f) = false) →
      (starting s h n 0x21 = true →
        ((∃ f ∈ l, frameState s f = 2) → ∃ t, exec (.loopStart h n) s = .next t ∧ Answered s t h n 2 2 [] []) ∧
        (∀ f d, l = [f] → getFrame s f = some d → fsState s d.wheel d.slot = 0 →
          ∃ t, exec (.loopStart h n) s = .next t ∧ (getSlot t h n).phase = 1 ∧ (getSlot t h n).holds = [.frame f] ∧
            (getWheel t d.wheel).acts = (getWheel s d.wheel).acts ++ [.start d.slot f h n] ∧
            (∀ w, w ≠ d.wheel → getWheel t w = getWheel s w) ∧ t.frames = s.frames ∧ t.sails = s.sails) ∧
        ((∀ f ∈ l, frameState s f = 1) → actsLeft s (isStartOf h n) = false →
          ∃ t, exec (.loopStart h n) s = .next t ∧ Answered s t h n 0 0 [0] [])) ∧
      (starting s h n 0x22 = true →
        ((∀ f ∈ l, frameState s f = 0) → ∃ t, exec (.loopStop h n) s = .next t ∧ Answered s t h n 0 0 [0] []) ∧
        ((∃ f ∈ l, frameState s f = 1) → ∃ t, exec (.loopStop h n) s = .next t ∧ (getSlot t h n).phase = 1 ∧
          (getSlot t h n).holds = l.map Obj.frame ∧ t.frames = s.frames ∧ t.sails = s.sails ∧
          ∀ w, getWheel t w = { getWheel s w with acts := (getWheel s w).acts ++
            (l.filter fun f => frameState s f == 1 && frameWheel s f == w).map fun f => .stop f h n }))) ∧
    (inPhase s h n 0x21 1 = true →
      (actsLeft s (isStartOf h n) = true → exec (.loopStart h n) s = .next s) ∧
      (actsLeft s (isStartOf h n) = false → ∃ t, exec (.loopStart h n) s = .next t ∧
        Answered s t h n (if auxAt s h n 1 = 0 then 0 else if auxAt s h n 0 = 0 then 6 else 9)
          (if auxAt s h n 1 = 0 then 0 else 0xE) [BitVec.ofNat 64 (auxAt s h n 0)] [])) ∧
    (inPhase s h n 0x22 1 = true →
      ((∃ f ∈ l, frameState s f ≠ 0) → exec (.loopStop h n) s = .next s) ∧
      ((∀ f ∈ l, frameState s f = 0) → ∃ t, exec (.loopStop h n) s = .next t ∧
        Answered s t h n 0 0 [BitVec.ofNat 64 (getSlot s h n).aux.length] []))) ∧
  (∀ (s : State) (h : HopId) (n : SlotId) (f : Nat), f = dFrame s h n → fieldOr s h n 0 0 = BitVec.ofNat 64 f →
    (∀ c, c = Instr.loopParamSet h n ∧ starting s h n 0x23 = true ∨ c = Instr.loopParamGet h n ∧ starting s h n 0x24 = true →
      getFrame s f = none → ∃ t, exec c s = .next t ∧ Answered s t h n 7 0 [] []) ∧
    ∀ d, getFrame s f = some d →
      (starting s h n 0x23 = true → held s (.frame f) = true →
        ∃ t, exec (.loopParamSet h n) s = .next t ∧ Answered s t h n 2 1 [] []) ∧
      (starting s h n 0x23 = true → held s (.frame f) = false → ∀ i v, i < 52 → fieldOr s h n 1 0 = BitVec.ofNat 64 (2 ^ i) →
        v = wordOf (fieldOr s h n 2 0) →
        ∃ t x, exec (.loopParamSet h n) s = .next t ∧ (getSlot t h n).phase = 1 ∧ (getSlot t h n).holds = [.frame f] ∧
          (getWheel t d.wheel).acts = (getWheel s d.wheel).acts ++ [.word d.slot (12 + i) x h n, .done h n] ∧
          (∀ w, w ≠ d.wheel → getWheel t w = getWheel s w) ∧ (∀ w a, spadRead t w a = spadRead s w a) ∧
          (i < 48 → isRsv v.tag = false → x = v) ∧ (i < 48 → isRsv v.tag = true → x = emptyW) ∧
          (48 ≤ i → bitOf d.ffq16 (i - 48) = true → x = if v.tag = .q16 ∨ v.tag = .q16s then v else ⟨.q16, 0⟩) ∧
          (48 ≤ i → bitOf d.ffq16 (i - 48) = false → x = if v.tag = .q31 ∨ v.tag = .q31s then v else ⟨.q31, 0⟩)) ∧
      (starting s h n 0x24 = true → heldForGet s f d = true →
        ∃ t, exec (.loopParamGet h n) s = .next t ∧ Answered s t h n 2 1 [] []) ∧
      (starting s h n 0x24 = true → heldForGet s f d = false →
        (canApply s d.wheel = false → ∃ t, exec (.loopParamGet h n) s = .next t ∧ (getSlot t h n).st = .running ∧
          (getSlot t h n).phase = 1 ∧ ∀ w, getWheel t w = getWheel s w) ∧
        (canApply s d.wheel = true → ∃ t e0 e1, exec (.loopParamGet h n) s = .next t ∧
          e0 = wakeReg s d.wheel ((d.wakes[0]?).bind id) ∧ e1 = wakeReg s d.wheel ((d.wakes[1]?).bind id) ∧
          Answered s t h n 0 0 ([pk [(0, f), (16, d.wheel), (24, d.slot)], e0, e1] ++
            ((List.range 64).filter fun i => bitOf (fieldOr s h n 1 0) i).map fun i => ofWord (readFw s d.wheel d.slot i)) [] ∧
          ∀ w a, spadWord t w a = spadWord s w a))) ∧
  (∀ (s : State) (h : HopId) (n : SlotId),
    (starting s h n 0x25 = true →
      (selF s h n 0 0 2 = 0 → getFrame s (selF s h n 1 0 9) = none →
        ∃ t, exec (.loopMigrate h n) s = .next t ∧ Answered s t h n 7 1 [] []) ∧
      (selF s h n 0 0 2 = 1 → nMills s ≤ selF s h n 1 0 9 →
        ∃ t, exec (.loopMigrate h n) s = .next t ∧ Answered s t h n 7 1 [] []) ∧
      (selF s h n 0 0 2 = 0 → (getFrame s (selF s h n 1 0 9)).isSome = true → nWheels s ≤ selF s h n 2 0 6 →
        ∃ t, exec (.loopMigrate h n) s = .next t ∧ Answered s t h n 7 2 [] []) ∧
      (selF s h n 0 0 2 = 1 → selF s h n 1 0 9 < nMills s → ∀ l, l = migMoves s 1 (selF s h n 1 0 9) (selF s h n 2 0 6) →
        (∀ p ∈ l, held s (.frame p.1) = false) → (∀ m ∈ migMills s 1 (selF s h n 1 0 9) l, heldMill s m = false) →
        16 ≤ s.standby ∨ s.occupied = true ∨ selF s h n 1 0 9 = s.standby →
        ∃ t, exec (.loopMigrate h n) s = .next t ∧ Answered s t h n 3 2 [] [])) ∧
    (∀ f d w a, inPhase s h n 0x25 1 = true → (getSlot s h n).aux = [0, 0, f, w] → getFrame s f = some d → wheelReady s w = true →
      linesBad s d (millOf w) = false → a = millOf d.wheel →
      ∃ t, exec (.loopMigrate h n) s = .next t ∧ (getSlot t h n).phase = 2 ∧
        getFrame t f = some { d with moveTo := some w, moveLines := linesFrom s d (millOf w) } ∧
        (∀ g, g ≠ f → getFrame t g = getFrame s g) ∧ (∀ v, getWheel t v = getWheel s v) ∧
        (storesMatch s a (millOf w) = true → getMill t (millOf w) = getMill s (millOf w)) ∧
        (storesMatch s a (millOf w) = false → (getSlot t h n).changed = true ∧
          ((getMill s a).mcId = 0 → (getMill t (millOf w)).mcId = 0 ∧ (getMill t (millOf w)).cstore = [] ∧
            (getMill t (millOf w)).cdt = []) ∧
          ((getMill s a).mcId ≠ 0 → ∀ b, keptImage s (getMill s a).mcId (getMill s a).mcDigest = some b →
            (getMill t (millOf w)).mcId = imageId b ∧ (getMill t (millOf w)).mcDigest = sha384 b ∧
            (∀ i, i < 32 → tget 0 (getMill t (millOf w)).cdt i = BitVec.ofNat 64 (ile b (192 + 16 * mcWords b + 8 * i) 8)) ∧
            ∀ i, tget 0 (getMill t (millOf w)).cstore (0x1000 + mcBase b + i) =
              if i < mcWords b then BitVec.ofNat 112 (ile b (192 + 16 * i) 14) else 0)) ∧
        ∀ m, m ≠ millOf w → getMill t m = getMill s m) ∧
    (∀ l k left, inPhase s h n 0x25 2 = true → l = migList s h n → k = movedCount s l → left = auxAt s h n 1 →
      (k + left < l.length → exec (.loopMigrate h n) s = .next s) ∧
      (l.length ≤ k + left → (getSlot s h n).clamps = [] → ∃ t, exec (.loopMigrate h n) s = .next t ∧
        Answered s t h n (if left = 0 then 0 else if k = 0 then 6 else 9) (if left = 0 then 0 else 0xE)
          [BitVec.ofNat 64 k, BitVec.ofNat 64 (l.length - k)] [])))

/-- R376 to R378, R442: TWIN_JOIN is refused while the millrace is held, in a joined pair, and with JERR 4 for ROLE 0 in
state held; else the complex is joining and enables lane 0. TWIN_LEAVE is refused outside a joined pair; else it hands
over what it drives, or leaves at once, or waits for the peer. The DETAIL of a refusal in a joined pair is the free
value of log 18. R398, R405, R443, R444: RING_JOIN takes RINGCFG and the binding entries and enables both lanes, and
an entry with a reserved bit set loses VALID; INTENT_POST sends the intent in both directions, with its deadline
within 13 to 200 µs of its emission. -/
def Obligations.LinkCommands : Prop :=
  (∀ (s : State) (n : SlotId),
    (∀ h, starting s h n 0x30 = true →
      (held s .millrace = true → ∃ t, exec (.twinJoin h n) s = .next t ∧ Answered s t h n 2 1 [] []) ∧
      (held s .millrace = false → mirroring s = true → ∃ t d, exec (.twinJoin h n) s = .next t ∧ Answered s t h n 2 d [] [] ∧
        t.twin.jerr = d ∧ t.twin.role = s.twin.role) ∧
      (held s .millrace = false → s.twin.role = .held → selF s h n 0 0 1 = 0 →
        ∃ t, exec (.twinJoin h n) s = .next t ∧ Answered s t h n 2 4 [] [] ∧ t.twin.jerr = 4 ∧ t.twin.role = .held) ∧
      (held s .millrace = false → mirroring s = false → (s.twin.role = .held → selF s h n 0 0 1 = 1) →
        laneUp s 0 = false → laneUp s 1 = false →
        ∃ t, exec (.twinJoin h n) s = .next t ∧ t.twin.role = .joining ∧ t.twin.out = [] ∧ t.twin.peerLost = false ∧
          t.twin.joinAt = some (n.val, 1, selF s h n 0 0 1 == 1) ∧ (getLane t 0).en = true ∧
          (hasRace1 s = true → (getLane t 1).en = true) ∧ (getSlot t h n).st = .running ∧ (getSlot t h n).phase = 1 ∧
          (getSlot t h n).holds = [.millrace] ∧ t.twin.cfg = s.twin.cfg ∧
          (selF s h n 0 0 1 = 0 → t.twin.drvsel = s.twin.drvsel) ∧
          (selF s h n 0 0 1 = 1 → s.rst.drvrel = true → t.twin.drvsel = s.twin.drvsel &&& ~~~ twGroups s))) ∧
    (∀ h, starting s h n 0x31 = true → held s .millrace = true → ∃ t, exec (.twinLeave h n) s = .next t ∧ Answered s t h n 2 1 [] []) ∧
    (∀ h, starting s h n 0x31 = true → held s .millrace = false → mirroring s = false ∨ s.twin.chk.isSome = true →
      ∃ t, exec (.twinLeave h n) s = .next t ∧ Answered s t h n 2 2 [] []) ∧
    (starting s .c n 0x31 = true → held s .millrace = false → mirroring s = true → s.twin.chk = none → s.twin.joinAt = none →
      (fieldOr s .c n 0 0 = 1 → ∃ t, exec (.twinLeave .c n) s = .next t ∧ t.twin = { s.twin with leaveAt := some (n.val, true) } ∧
        (getSlot t .c n).phase = 1 ∧ (getSlot t .c n).holds = [.millrace] ∧ t.wheels = s.wheels) ∧
      (fieldOr s .c n 0 0 = 0 → s.twin.drvsel &&& twGroups s ≠ 0 → ∃ t x i, exec (.twinLeave .c n) s = .next t ∧
        i = (List.range 8).map (fun k => (getTb s k).idx + 2) ∧ x = CtlMsg.handover (s.twin.drvsel &&& twGroups s) i ∧
        t.twin.role = .leaving ∧ t.twin.hand = some (s.twin.drvsel &&& twGroups s, false, i) ∧
        t.twin.out = s.twin.out ++ [(s.twin.cseq, x)] ∧ t.twin.due = s.twin.due ++ [(s.twin.cseq, x)] ∧
        t.twin.cseq = s.twin.cseq + 1 ∧ t.twin.drvsel = s.twin.drvsel ∧ (getSlot t .c n).st = .running) ∧
      (fieldOr s .c n 0 0 = 0 → s.twin.drvsel &&& twGroups s = 0 → ∃ t r, exec (.twinLeave .c n) s = .next t ∧
        t.twin.role = (if fld s.twin.cfg 0 24 = 0 then .simplex else .held) ∧
        t.twin.out = s.twin.out ++ [(s.twin.cseq, .leave (twGroups s))] ∧ t.twin.leaveAt = none ∧
        (getSlot t .c n).st = .done ∧ (getSlot t .c n).reply = some r ∧ r.status = 0))) ∧
  (∀ (s : State) (h : HopId) (n : SlotId),
    (hasRing s = false →
      (starting s h n 0x40 = true → ∃ t, exec (.ringJoin h n) s = .next t ∧ Answered s t h n 7 0 [] []) ∧
      (starting s h n 0x41 = true → ∃ t, exec (.intentPost h n) s = .next t ∧ Answered s t h n 7 0 [] [])) ∧
    (hasRing s = true →
      (starting s h n 0x40 = true → ∀ k, k = min 1024 (selF s h n 2 0 11) →
        (0x400000 < selF s h n 1 0 22 + 2 * k → ∃ t, exec (.ringJoin h n) s = .next t ∧ Answered s t h n 7 1 [] []) ∧
        (selF s h n 1 0 22 + 2 * k ≤ 0x400000 →
          (held s .ring = true → ∃ t, exec (.ringJoin h n) s = .next t ∧ Answered s t h n 2 1 [] []) ∧
          (held s .ring = false → ringJoined s = true → ∃ t, exec (.ringJoin h n) s = .next t ∧ Answered s t h n 2 2 [] []) ∧
          (held s .ring = false → ringJoined s = false → bitOf s.ring.present (selF s h n 0 0 5) = false →
            laneUp s 2 = false → laneUp s 3 = false →
            ∃ t, exec (.ringJoin h n) s = .next t ∧ t.ring.joinAt = some n.val ∧ ringJoined t = false ∧
              fld t.ring.cfg 0 5 = selF s h n 0 0 5 ∧ bitOf t.ring.cfg 6 = (selF s h n 0 6 1 == 1) ∧
              fld t.ring.cfg 8 32 = selF s h n 0 8 32 ∧ fld t.ring.cfg 40 4 = selF s h n 0 40 4 ∧
              (getLane t 2).en = true ∧ (getLane t 3).en = true ∧ (getSlot t h n).phase = 1 ∧
              (getSlot t h n).holds = [.ring] ∧
              ∀ (a : Nat) (x y : TWord) (b : W64), k = 1 → a = selF s h n 1 0 22 → mpOn s a = true → mpOn s (a + 1) = true →
                mpRead s a = some x → mpRead s (a + 1) = some y → b = y.val ++ x.val →
                t.ring.bind = [if bitOf b 19 ∧ fld b 20 12 ≠ 0 then setFld b 19 1 0 else b] ∧
                (getSlot t h n).aux = [b2n (bitOf b 19 && fld b 20 12 != 0)]))) ∧
      (starting s h n 0x41 = true →
        ((ringJoined s = false ∨ ∃ p, s.ring.lastPost = some p ∧ (s.ring_time.ns - p).toNat < 4000) →
          ∃ t, exec (.intentPost h n) s = .next t ∧ Answered s t h n 2 2 [] []) ∧
        ((ringJoined s = true ∧ ∀ p, s.ring.lastPost = some p → 4000 ≤ (s.ring_time.ns - p).toNat) →
          s.ring_time.ns.toNat < 2 ^ 63 →
          ∃ t r i, exec (.intentPost h n) s = .next t ∧ i = Intent.mk
              (BitVec.ofNat 64 (max (s.ring_time.ns.toNat + 13000) (min (s.ring_time.ns.toNat + 200000) (fieldOr s h n 2 0).toNat)))
              s.ring_time.ns (s.ring.iseq + 1) (BitVec.ofNat 8 (selF s h n 0 0 8))
              ((fieldOr s h n 1 0).setWidth 32) (BitVec.ofNat 5 (ringMember s)) ∧
            t.ring.iseq = s.ring.iseq + 1 ∧ t.ring.lastPost = some s.ring_time.ns ∧
            t.ring.intents = (s.ring.intents + 1) % 0x100000000 ∧
            (∀ L, L = 2 ∨ L = 3 → (getLane t L).rq = (getLane s L).rq ++ if (getLane s L).txen then [.intent i 0] else []) ∧
            (getSlot t h n).st = .done ∧ (getSlot t h n).reply = some r ∧
            r.results = [i.iseq.setWidth 64, i.posted, i.deadline, s.ring.present.setWidth 64]))))

/-- R527 to R535: SELFTEST is refused for an absent mill, without a free standby mill, and for a spare bank in use; a mill
that fails is marked, logged, and becomes the standby mill where another stands in for it; a bank that fails keeps its
substitute, and one that passes is restored. R447, R488: RESET_MILL and RESET_WHEEL are refused for an absent or held
target, and without FORCE for a started frame; else the safe words are written, the entries disarmed and the wheels
stopped, and once they have drained the reset is raised. After 100 µs the command ends with 09h, and a guard RESET is
raised. Where the step of a command is not enabled, that the command changes nothing is the model's choice (log 13). -/
def Obligations.ServiceCommands : Prop :=
  (∀ (s : State) (h : HopId) (n : SlotId) (r : TestResult),
    (starting s h n 0x50 = true → ∀ x, x = selF s h n 1 0 4 →
      (selF s h n 0 0 1 = 0 → nMills s ≤ x → ∃ t, exec (.selftest h n r) s = .next t ∧ Answered s t h n 7 1 [] []) ∧
      (selF s h n 0 0 1 = 0 → x < nMills s →
        (heldMill s x = true → ∃ t, exec (.selftest h n r) s = .next t ∧ Answered s t h n 2 1 [] []) ∧
        (heldMill s x = false → (s.standby < 16 → heldMill s s.standby = false) →
          (x = s.standby ∧ s.occupied = true ∨ x ≠ s.standby ∧ noStandby s = true) →
          ∃ t, exec (.selftest h n r) s = .next t ∧ Answered s t h n 3 2 [] [])) ∧
      (selF s h n 0 0 1 = 1 →
        (held s (.bank x) = true ∨ held s .spare = true → ∃ t, exec (.selftest h n r) s = .next t ∧ Answered s t h n 2 1 [] []) ∧
        (held s (.bank x) = false → held s .spare = false →
          (s.spare.st ≠ .idle ∨ bankOn s x = false → ∃ t, exec (.selftest h n r) s = .next t ∧ Answered s t h n 2 2 [] []) ∧
          (s.spare.st = .idle → bankOn s x = true →
            (s.svc.spfail = true → ∃ t, exec (.selftest h n r) s = .next t ∧ Answered s t h n 2 3 [] []) ∧
            (s.svc.spfail = false → bankOn s 16 = true → s.mem.trans = [] → r.marchSpare = false →
              ∃ t, exec (.selftest h n r) s = .next t ∧ t.spare.st = .copyin ∧ t.spare.bank = x ∧ t.svc.brun = true ∧
                t.svc.btgt = x ∧ (getSlot t h n).phase = 12 ∧ (getSlot t h n).holds = [.bank x, .spare] ∧ t.mp = s.mp))))) ∧
    ((getSlot s h n).clamps = [] → ∀ b, b = auxAt s h n 0 → b < 16 →
      (inPhase s h n 0x50 12 = true →
        (s.spare.st ≠ .subst ∨ s.spare.isol = false → exec (.selftest h n r) s = .next s) ∧
        (s.spare.st = .subst → s.spare.isol = true →
          (r.marchBank = true → ∃ t, exec (.selftest h n r) s = .next t ∧ t.spare = s.spare ∧
            (∀ k, k < 16 → bitOf t.svc.bfail k = (bitOf s.svc.bfail k || k == b)) ∧ t.svc.brun = false ∧
            Answered s t h n 0 0 [BitVec.ofNat 64 (0xA + b * 16), r.word.setWidth 64, r.micros] []) ∧
          (r.marchBank = false → bankOn s s.spare.bank = true → ∃ t, exec (.selftest h n r) s = .next t ∧
            t.spare.st = .copyback ∧ (getSlot t h n).phase = 13))) ∧
      (inPhase s h n 0x50 13 = true → s.spare.st = .idle → (getSlot s h n).stop = false →
        ∃ t, exec (.selftest h n r) s = .next t ∧ (∀ k, k < 16 → bitOf t.svc.bfail k = (bitOf s.svc.bfail k && k != b)) ∧
          Answered s t h n 0 0 [BitVec.ofNat 64 (1 + b * 16), 0, r.micros] [])) ∧
    (inPhase s h n 0x50 3 = true → (getSlot s h n).clamps = [] → pktNotify s h n = true → ∀ m st, m < 16 → st < 16 →
      (getSlot s h n).aux = [m, st, 0, 0, 0, 0] →
      (r.logic = true → ∃ t r1, exec (.selftest h n r) s = .next t ∧
        (∀ k, k < 16 → bitOf t.svc.mfail k = (bitOf s.svc.mfail k || k == m)) ∧ t.svc.mrun = false ∧
        t.standby = (if m = st then s.standby else m) ∧ (m ≠ st → t.occupied = false) ∧
        t.svc.testcnt = min 0xFFFF (s.svc.testcnt + 1) ∧
        Answered s t h n 0 0 [BitVec.ofNat 64 (2 + (if m = st then 0x80 else 0x100) + m * 0x10000), r1, r.micros] []) ∧
      (m = st → r = { r with logic := false, regf := false, spad := false, pin := false, cstore := false } →
        ∃ t r1, exec (.selftest h n r) s = .next t ∧
          (∀ k, k < 16 → bitOf t.svc.mfail k = (bitOf s.svc.mfail k && k != m)) ∧ t.standby = s.standby ∧
          (fld s.mem.cspwr (2 * m) 2 = 0 → (getMill t m).cstore = []) ∧
          (∀ w, millOf w = m → w < 64 → (spField s w = 0 → (getWheel t w).spad = {}) ∧
            (pinField s w = 0 → (getWheel t w).pinned = {}) ∧ (getWheel t w).stopped = false) ∧
          Answered s t h n 0 0 [BitVec.ofNat 64 (1 + 0x80 + m * 0x10000), r1, r.micros] []))) ∧
  (∀ (s : State),
    (∀ (h : HopId) (n : SlotId) (x : Nat) (c : Instr) (l : List Nat) (v : Nat) (absent busy : Bool),
      (c = .resetMill h n ∧ starting s h n 0x60 = true ∧ x = selF s h n 0 0 4 ∧ l = millWheels x ∧ v = 1 ∧
          absent = decide (nMills s ≤ x) ∧ busy = heldMill s x) ∨
        (c = .resetWheel h n ∧ starting s h n 0x61 = true ∧ x = selF s h n 0 0 6 ∧ l = [x] ∧ v = 0 ∧
          absent = decide (nWheels s ≤ x) ∧ busy = heldWheel s x) →
      (absent = true → ∃ t, exec c s = .next t ∧ Answered s t h n 7 0 [] []) ∧
      (absent = false → busy = true → ∃ t, exec c s = .next t ∧ Answered s t h n 2 1 [] []) ∧
      (absent = false → busy = false → selF s h n 1 0 1 = 0 → (∃ f ∈ framesOn s l, frameState s f = 1) →
        ∃ t, exec c s = .next t ∧ Answered s t h n 2 2 [] []) ∧
      (absent = false → busy = false → (selF s h n 1 0 1 = 1 ∨ ∀ f ∈ framesOn s l, frameState s f ≠ 1) →
        ∃ t, exec c s = .next t ∧
          (∀ w ∈ l, (getWheel t w).stopped = true) ∧ (∀ w, w ∉ l → (getWheel t w).stopped = (getWheel s w).stopped) ∧
          (∀ j, j < 192 → (∃ w ∈ l, ownsSail s w j = true) → tbHeld s j = false →
            (getSail t j).out = safeWord (getSail s j).safe ∧ (getSail t j).safeact = true) ∧
          (∀ j, (∀ w ∈ l, ownsSail s w j = false) → getSail t j = getSail s j) ∧
          (∀ f d, f ∈ framesOn s l → getFrame s f = some d → ∀ e ∈ frameWakes d, (getWake t d.wheel e).en = false) ∧
          ((∀ w ∈ l, drained (getWheel s w) = true) → (getSlot t h n).st = .done ∧
            ∃ q, t.rst.reqs = s.rst.reqs ++ [q] ∧ q.level = v ∧ q.scope = x) ∧
          ((∃ w ∈ l, drained (getWheel s w) = false) → (getSlot t h n).st = .running ∧ (getSlot t h n).phase = 1 ∧
            t.rst.reqs = s.rst.reqs))) ∧
    (∀ (h : HopId) (n : SlotId), (getSlot s h n).clamps = [] →
      (inPhase s h n 0x61 1 = true → ∀ w, w = selF s h n 0 0 6 →
        (drained (getWheel s w) = false → exec (.resetWheel h n) s = .next s) ∧
        (drained (getWheel s w) = true → ∃ t q, exec (.resetWheel h n) s = .next t ∧ Answered s t h n 0 0 [] [] ∧
          t.rst.reqs = s.rst.reqs ++ [q] ∧ q.level = 0 ∧ q.scope = w) ∧
        ∃ t, exec (.drainBoundExpiry none h n) s = .next t ∧ t.rst = s.rst ∧
          (pktNotify s h n = false → t.wheels = s.wheels) ∧
          Answered s t h n 9 (if (getWheel s w).stall = .none then 3 else 2) [] []) ∧
      (∀ w : WheelId, (running s = false ∨ (getWheel s w).draining = false) → exec (.drainBoundExpiry (some w) h n) s = .next s) ∧
      ∀ w : WheelId, running s = true → (getWheel s w).draining = true → ∃ t q, exec (.drainBoundExpiry (some w) h n) s = .next t ∧
        t.rst.reqs = s.rst.reqs ++ [q] ∧ q.src = 5 ∧ q.level = min 4 (fld s.rst.map 9 3) ∧ (getWheel t w).draining = false ∧
        (q.level = 0 → q.scope = w.val) ∧ (q.level = 1 → q.scope = millOf w) ∧
        ∀ u, u ≠ w.val → getWheel t u = getWheel s u))

/-- R446, R467, R468: CALIBRATE_WEIR is refused for an absent or held weir and for a new code while a group is armed; else
it holds the weir and asks for a readback. A refused request is written again. The last readback restores the code and
completes it with the mean, the extremes, the number and the leat. Where the step of a command is not enabled, that
the command changes nothing is the model's choice (log 13). -/
def Obligations.CalibrateWeir : Prop :=
  ∀ (s : State),
    (∀ (n : SlotId) (w c : Nat), starting s .s n 0x51 = true → w = selF s .s n 0 0 7 → c = fld (getWeir s w).cfg 0 12 →
      (95 < w ∨ hasWeir s w = false → ∃ t, exec (.calibrateWeir .s n) s = .next t ∧ Answered s t .s n 7 0 [] []) ∧
      (w ≤ 95 → hasWeir s w = true → held s (.weir w) = true →
        ∃ t, exec (.calibrateWeir .s n) s = .next t ∧ Answered s t .s n 2 1 [] []) ∧
      (w ≤ 95 → hasWeir s w = true → held s (.weir w) = false →
        (carried s .s n 1 = true → selF s .s n 1 0 12 ≠ c → (∃ g, g < 24 ∧ bitOf (getWeir s w).cfg (16 + g) = true ∧
            (getSluice s g).arm = true) → ∃ t, exec (.calibrateWeir .s n) s = .next t ∧ Answered s t .s n 2 2 [] []) ∧
        (carried s .s n 1 = false → s.calibs = [] → s.readback = none → (getSlot s .s n).stop = false →
          ∀ k, k = max 1 (min 64 (fld (fieldOr s .s n 2 1) 0 7)) →
          ∃ t, exec (.calibrateWeir .s n) s = .next t ∧ t.readback = some (rbWord s w) ∧ t.rbRetry = false ∧
            t.calibs = [⟨w, n, false, k, []⟩] ∧ (getWeir t w).code.toNat = c ∧ (getSlot t .s n).holds = [.weir w] ∧
            (getSlot t .s n).phase = 1) ∧
        (carried s .s n 1 = true → selF s .s n 1 0 12 ≠ c → (∀ g, g < 24 → bitOf (getWeir s w).cfg (16 + g) = true →
            (getSluice s g).arm = false) → s.calibs = [] → s.readback = none →
          ∃ t k, exec (.calibrateWeir .s n) s = .next t ∧ t.readback = none ∧ t.calibs = [⟨w, n, true, k, []⟩] ∧
            (getWeir t w).code.toNat = selF s .s n 1 0 12))) ∧
    (running s = true → s.rbRetry = false → ∀ (c : Calib) (w : Fin 96), s.calibs = [c] → s.readback = none → c.weir = w.val →
      c.settling = true → c.got = [] → 0 < c.count → (getSlot s .s c.slot).stop = false →
      ∃ t, exec (.weirDacSettled w) s = .next t ∧ t.readback = some (rbWord s w) ∧ t.calibs = [{ c with settling := false }] ∧
        t.weirs = s.weirs) ∧
    (s.rbRetry = false → exec .readbackRetry s = .next s) ∧
    (running s = true → s.rbRetry = true → ∀ r, s.readback = some r → (∀ c ∈ s.calibs, (getSlot s .s c.slot).stop = false) →
      exec .readbackRetry s = .next { s with rbRetry := false }) ∧
    ∀ (n : Fin 256) (d r : W32) (c : Calib), running s = true → leatHeld s n = false → s.calibs = [c] →
      s.readback = some r → s.rbRetry = false → rbLeat r = n.val → rbWeir r = c.weir → bitOf d 18 = true →
      c.settling = false → c.got = [] → c.slot < 64 → (getSlot s .s c.slot).clamps = [] → (getSlot s .s c.slot).stop = false →
      (bitOf d 16 = true → 0 < c.count → ∃ t, exec (.leatWord n d) s = .next t ∧ t.readback = some (rbWord s c.weir) ∧
        t.calibs = [c] ∧ t.weirs = s.weirs) ∧
      (bitOf d 16 = false → 1 < c.count → ∃ t, exec (.leatWord n d) s = .next t ∧ t.readback = some (rbWord s c.weir) ∧
        t.calibs = [{ c with got := [d.setWidth 16] }] ∧ t.weirs = s.weirs) ∧
      (bitOf d 16 = false → c.count = 1 → ∃ t v, exec (.leatWord n d) s = .next t ∧ v = (d.setWidth 16).setWidth 64 ∧ t.readback = none ∧
        t.calibs = [] ∧ (getWeir t c.weir).code.toNat = fld (getWeir s c.weir).cfg 0 12 ∧
        Answered s t .s c.slot 0 0 [v, v, v, 1, BitVec.ofNat 64 (fld (getWeir s c.weir).cfg 40 8)] [])

/-- R450 to R452: a count edge moves POS by one, in the direction of FB_B or of the edge itself, and measures SPEED from
its interval; a reversal and a first edge after STILL are estimates; both edges at once coincide; an index edge
accounts a slip whatever EN is (log 49), and corrects POS where CORR and EN are 1; emulation takes POS − P0 (log 50); of an odd CPR, the residue that R451's range leaves out is the
free value of log 30. R454 to R457: a write of a feedback register is refused whole for a
reserved MODE, values out of range, a leat in use, or a change while EN is 1; emulation starts at EN with OUTCNT 0,
and each output step moves OUTCNT one count toward the target. Where the step of a command is not enabled, that the
command changes nothing is the model's choice (log 13). -/
def Obligations.Feedback : Prop :=
  (∀ (s : State) (n : Fin 8) (x : Fb), x = getFb s n → unitsLive s = true → fbHeld s n = false →
    (bitOf x.cfg 0 = false → (∀ a b c d i, exec (.feedbackCountEdge n a b c d i) s = .next s) ∧
      exec (.feedbackStillTimeout n) s = .next s) ∧
    (bitOf x.cfg 0 = true →
      (∀ (a l r d up : Bool) (i : BitVec 24), i ≠ 0 →
        (fld x.cfg 1 2 = 0 ∧ a = true ∧ up = d) ∨ (fld x.cfg 1 2 = 1 ∧ ((a = true ∧ r = false ∧ up = true) ∨
            (a = false ∧ r = true ∧ up = false))) →
        ∃ t y, exec (.feedbackCountEdge n a l r d i) s = .next t ∧ t = { s with fbs := t.fbs, emus := t.emus } ∧
          (∀ m, m ≠ n.val → getFb t m = getFb s m ∧ getEmu t m = getEmu s m) ∧ y = getFb t n ∧
          y.pos = (if up then x.pos + 1 else x.pos - 1) ∧ y.cfg = x.cfg ∧ y.idxpos = x.idxpos ∧ y.slipacc = x.slipacc ∧
          (hasEmu s = true → bitOf (getEmu s n).cfg 0 = true → (getEmu t n).moved = y.pos.toInt - (getEmu s n).p0.toInt) ∧
          (x.still = false → x.dir = up → y.still = false ∧ y.estimate = false ∧ y.dir = up ∧ y.interval = i ∧
            y.speed.toInt = (if up then 1 else -1) * ((fld x.cfg 32 8 * 1000000 / i.toNat : Nat) : Int)) ∧
          (x.still = false → x.dir ≠ up → y.speed = 0 ∧ y.still = false ∧ y.estimate = true ∧ y.dir = up) ∧
          (x.still = true → y.still = false ∧ y.estimate = true ∧ y.dir = up ∧ y.speed.toInt = (if up then 1 else -1) *
            ((fld x.cfg 32 8 * 1000000 / max i.toNat (fld x.cfg 40 16 * fld x.cfg 32 8) : Nat) : Int))) ∧
      (∀ (l d : Bool) (i : BitVec 24), i ≠ 0 → fld x.cfg 1 2 = 1 →
        ∃ t, exec (.feedbackCountEdge n true l true d i) s = .next t ∧ t = { s with fbs := t.fbs } ∧
          getFb t n = { x with coinc := min 0xFF (x.coinc + 1) }) ∧
      (∃ t, exec (.feedbackStillTimeout n) s = .next t ∧ t = { s with fbs := t.fbs } ∧
        getFb t n = if x.still then x else { x with speed := 0, still := true, estimate := false })) ∧
      (x.idxseen = false → ∃ t, exec (.feedbackIndexEdge n) s = .next t ∧ t = { s with fbs := t.fbs } ∧
        getFb t n = { x with idxpos := x.pos, idxref := x.pos, lastdev := 0, idxseen := true }) ∧
      (x.idxseen = true → ∀ (c dev slip : Int), c = fld x.cpr 0 24 → 0 < c →
        (-(c / 2) < dev ∧ dev ≤ c / 2 ∨ c % 2 = 1 ∧ dev = if Config.oddResidueHigh c.toNat then c / 2 + 1 else -(c / 2)) →
        (dev - (x.pos - x.idxref).toInt) % c = 0 → slip = dev - x.lastdev →
        ∃ t y, exec (.feedbackIndexEdge n) s = .next t ∧ y = getFb t n ∧ y.idxpos = x.pos ∧ y.idxref = x.idxref ∧
          (∀ m, m ≠ n.val → getFb t m = getFb s m) ∧
          y.slipacc = (if slip = 0 then x.slipacc else max (-0x7FFF) (min 0x7FFF (x.slipacc + slip))) ∧
          (bitOf x.cfg 3 = false ∨ bitOf x.cfg 0 = false → y.pos = x.pos ∧ y.lastdev = dev) ∧
          (bitOf x.cfg 3 = true → bitOf x.cfg 0 = true → y.pos = x.pos - BitVec.ofInt 32 dev ∧ y.lastdev = 0) ∧
          y.slipfault = (x.slipfault || decide (y.slipacc.natAbs > fld x.cpr 32 16)) ∧
          (slip ≠ 0 → ∀ w : WheelId, bitOf (tget 0 s.evroute 38) w = true → bitOf (getWheel s w).evcfg 6 = true →
            (tget none (getWheel t w).events 38).isSome = true) ∧
          (slip = 0 → y.slipfault = x.slipfault → t.wheels = s.wheels))) ∧
  (∀ (s : State) (n : Fin 8), running s = true → fbHeld s n = false →
    (∀ (v : W64) (x : Fb), x = getFb s n → v &&& 0x00FFFFFF_1FFFFFFF = v → x.cfg &&& 0x00FFFFFF_1FFFFFFF = x.cfg →
      (bitOf v 2 = true ∨ fld v 32 8 < 0x32 ∨ 0xC8 < fld v 32 8 ∨ fld v 40 16 = 0 ∨
        (fld v 8 8 = fld v 16 8 ∧ fld v 8 8 ≠ 0xFF) ∨
        (∃ m, m < 8 ∧ m ≠ n.val ∧ fld v 8 8 ≠ 0xFF ∧ (fld (getFb s m).cfg 8 8 = fld v 8 8 ∨ fld (getFb s m).cfg 16 8 = fld v 8 8)) ∨
        (∃ m, m < 8 ∧ m ≠ n.val ∧ fld v 16 8 ≠ 0xFF ∧ (fld (getFb s m).cfg 8 8 = fld v 16 8 ∨ fld (getFb s m).cfg 16 8 = fld v 16 8)) ∨
        (bitOf x.cfg 0 = true ∧ (fld v 1 2 ≠ fld x.cfg 1 2 ∨ fld v 32 8 ≠ fld x.cfg 32 8 ∨ fld v 4 3 ≠ fld x.cfg 4 3)) →
        ∃ t, exec (.fbcfgWrite n 0 v 0xFF) s = .next t ∧ t = { s with fbs := t.fbs } ∧ getFb t n = { x with err := true } ∧
          ∀ m, m ≠ n.val → getFb t m = getFb s m) ∧
      (fbcfgBad s n x.cfg v = false → ∃ t, exec (.fbcfgWrite n 0 v 0xFF) s = .next t ∧ t = { s with fbs := t.fbs } ∧
        (getFb t n).cfg = v ∧ (getFb t n).pos = x.pos ∧
        (bitOf v 0 = true → bitOf x.cfg 0 = false → (getFb t n).idxseen = false) ∧
        (bitOf v 0 = true → bitOf x.cfg 0 = true → getFb t n = { x with cfg := v }) ∧
        (bitOf v 0 = false → (getFb t n).still = true ∧ (getFb t n).speed = 0) ∧
        ∀ m, m ≠ n.val → getFb t m = getFb s m) ∧
      (∃ t, exec (.fbcfgWrite n 1 v 0xFF) s = .next t ∧ (fld v 0 24 = 0 → getFb t n = { x with err := true }) ∧
        (0 < fld v 0 24 → bitOf x.cfg 0 = false → fld (getFb t n).cpr 0 24 = fld v 0 24 ∧
          fld (getFb t n).cpr 32 16 = fld v 32 16)) ∧
      (bitOf x.cfg 0 = true → ∃ t, exec (.fbcfgWrite n 2 v 0xFF) s = .next t ∧ getFb t n = { x with err := true }) ∧
      (bitOf x.cfg 0 = false → ∃ t, exec (.fbcfgWrite n 2 v 0xFF) s = .next t ∧ getFb t n = { x with pos := v.setWidth 32 })) ∧
    (hasEmu s = false → (∀ v b, exec (.emucfgWrite n v b) s = .next s) ∧ exec (.emuOutputStep n) s = .next s) ∧
    (hasEmu s = true → ∀ x, x = getEmu s n →
      (∀ v : W64, v &&& 0xFFFFFFFF_FFFFFF01 = v → x.cfg &&& 0xFFFFFFFF_FFFFFF01 = x.cfg →
        (bitOf x.cfg 0 = true → bitOf v 0 = false → 0 < fld x.cfg 8 24 → 0 < fld x.cfg 32 24 → 2 ≤ fld x.cfg 56 8 →
          ∃ t, exec (.emucfgWrite n v 1) s = .next t ∧ t = { s with emus := t.emus } ∧
            getEmu t n = { x with cfg := x.cfg - 1 }) ∧
        (fld v 8 24 = 0 ∨ fld v 32 24 = 0 ∨ fld v 56 8 < 2 ∨ bitOf x.cfg 0 = true →
          ∃ t, exec (.emucfgWrite n v 0xFF) s = .next t ∧ t = { s with emus := t.emus } ∧ getEmu t n = { x with err := true }) ∧
        (0 < fld v 8 24 → 0 < fld v 32 24 → 2 ≤ fld v 56 8 → bitOf x.cfg 0 = false → bitOf v 0 = true →
          ∃ t, exec (.emucfgWrite n v 0xFF) s = .next t ∧ t = { s with emus := t.emus } ∧ (getEmu t n).cfg = v ∧
            (getEmu t n).p0 = (getFb s n).pos ∧ (getEmu t n).outcnt = 0 ∧ (getEmu t n).outs = 4)) ∧
      (bitOf x.cfg 0 = false → exec (.emuOutputStep n) s = .next s) ∧
      (bitOf x.cfg 0 = true → ∀ g : Int, g = x.moved * (fld x.cfg 8 24 : Int) / 65536 →
        ∃ t y, exec (.emuOutputStep n) s = .next t ∧ t = { s with emus := t.emus } ∧ y = getEmu t n ∧
          (x.outcnt < g → y.outcnt = x.outcnt + 1) ∧ (g < x.outcnt → y.outcnt = x.outcnt - 1) ∧ (g = x.outcnt → y.outcnt = x.outcnt) ∧
          y.ovf = (x.ovf || decide ((g - x.outcnt).natAbs > 0xFFFF)) ∧
          (bitOf y.outs 0 = (y.outcnt % 4 == 1 || y.outcnt % 4 == 2)) ∧ (bitOf y.outs 1 = (y.outcnt % 4 == 2 || y.outcnt % 4 == 3)))))

/-- R460 to R466: a weir's configuration and its firmware clear, refused while CODEOK is 0 or the weir is calibrated; a
rise of LAT, and a condition that outlives a clear pulse, are counted as trips; a sluice group is armed, rearmed or
disarmed only as R465 gives, and a rise of ST records its cause. Where the step of a command is not enabled, that the
command changes nothing is the model's choice (log 13). -/
def Obligations.WeirsAndSluices : Prop :=
  ∀ (s : State), running s = true →
    (∀ (w : Fin 96) (x : Weir), x = getWeir s w →
      (hasWeir s w = false → (∀ v b, exec (.weircfgWrite w v b) s = .next s) ∧ exec (.weirClear w) s = .next s ∧
        ∀ l p, exec (.weirLatchChange w l p) s = .next s) ∧
      (hasWeir s w = true →
        (∀ v : W64, v.toNat < 2 ^ 48 → x.cfg.toNat < 2 ^ 48 →
          (calibrating s w = true → fld v 0 12 ≠ fld x.cfg 0 12 → ∃ t, exec (.weircfgWrite w v 0xFF) s = .next t ∧
            t = { s with weirs := t.weirs } ∧ getWeir t w = { x with err := true }) ∧
          (calibrating s w = false → ∃ t, exec (.weircfgWrite w v 0xFF) s = .next t ∧ t = { s with weirs := t.weirs } ∧
            getWeir t w = { x with cfg := v, codeok := true, code := BitVec.ofNat 12 (fld v 0 12) } ∧
            ∀ u, u ≠ w.val → getWeir t u = getWeir s u)) ∧
        (∃ t, exec (.weirClear w) s = .next t ∧ t = { s with weirs := t.weirs } ∧
          (x.codeok = false ∨ calibrating s w = true → getWeir t w = { x with err := true }) ∧
          (x.codeok = true → calibrating s w = false → getWeir t w = { x with clr := true }) ∧
          ∀ u, u ≠ w.val → getWeir t u = getWeir s u) ∧
        (unitsLive s = true →
          (∀ p l, p = false ∧ l = true ∧ x.lat = false ∨ p = true ∧ l = true ∧ x.lat = true ∧ x.clr = true →
            ∃ t, exec (.weirLatchChange w l p) s = .next t ∧ (getWeir t w).lat = true ∧
              (getWeir t w).tripcnt = min 0xFF (x.tripcnt + 1) ∧ (p = true → (getWeir t w).clr = false) ∧
              (∀ v : WheelId, bitOf (tget 0 s.evroute 36) v = true → bitOf (getWheel s v).evcfg 4 = true →
                (tget none (getWheel t v).events 36).isSome = true) ∧ t = { s with weirs := t.weirs, wheels := t.wheels }) ∧
          (x.lat = true → ∃ t, exec (.weirLatchChange w false false) s = .next t ∧ t = { s with weirs := t.weirs } ∧
            getWeir t w = { x with lat := false, clr := false }) ∧
          (x.lat = true → exec (.weirLatchChange w true false) s = .next s) ∧
          (x.lat = false → exec (.weirLatchChange w false false) s = .next s)))) ∧
    ∀ (g : Fin 24) (x : Sluice) (hot owned : Bool), x = getSluice s g →
      hot = (List.range 96).any (fun w => hasWeir s w && bitOf (getWeir s w).cfg (16 + g) && (getWeir s w).lat) →
      owned = groupStarted s g →
      (∃ t, exec (.setarm g) s = .next t ∧ t = { s with sluices := t.sluices } ∧ getSluice t g =
        if !x.arm && !hot then { x with arm := true, pulsed := false, st := false } else { x with err := true }) ∧
      (∃ t, exec (.rearm g) s = .next t ∧ t = { s with sluices := t.sluices } ∧ getSluice t g =
        if x.arm && !hot then { x with pulsed := true, st := false } else { x with err := true }) ∧
      (∃ t, exec (.disarm g) s = .next t ∧ t = { s with sluices := t.sluices } ∧ getSluice t g =
        if x.arm && !owned then { x with arm := false, pulsed := false } else { x with err := true }) ∧
      (x.st = true → exec (.sluiceTrip g) s = .next s) ∧
      (unitsLive s = true → x.st = false → ∃ t y, exec (.sluiceTrip g) s = .next t ∧ y = getSluice t g ∧ y.st = true ∧
        y.tripped = true ∧ y.arm = x.arm ∧ y.tripcnt = min 0xFF (x.tripcnt + 1) ∧ y.causev = hot ∧
        (∀ w, w < 96 → hasWeir s w = true → bitOf (getWeir s w).cfg (16 + g) = true → (getWeir s w).lat = true →
          y.cause ≤ w ∧ (getWeir s y.cause).lat = true ∧ bitOf (getWeir s y.cause).cfg (16 + g) = true) ∧
        (∀ v : WheelId, bitOf (tget 0 s.evroute 37) v = true → bitOf (getWheel s v).evcfg 5 = true →
          (tget none (getWheel t v).events 37).isSome = true) ∧ t = { s with sluices := t.sluices, wheels := t.wheels } ∧
        ∀ k, k ≠ g.val → getSluice t k = getSluice s k)

/-- R471 to R478, R494: the reset sources. An input or the watchdog raises its source at its mapped level; RSTREQ and
RSTINST raise the request at the larger of LEVEL and the map, or set ERR; WDCFG keeps TMO and PRE while EN is 1; a
released input lets the sequence go on. Where the step of a command is not enabled, that the command changes nothing
is the model's choice (log 13). -/
def Obligations.ResetSources : Prop :=
  ∀ (s : State),
    (s.rst.porLow = true → exec .powerOnReset s = .next s) ∧
    (s.rst.porLow = false → exec .powerOnReset s =
      .next { s with rst := { s.rst with porLow := true, reqs := s.rst.reqs ++ [⟨1, 4, 0, 0⟩] } }) ∧
    (s.rst.borLow = true ∨ s.rst.off = true → exec .brownOut s = .next s) ∧
    (s.rst.borLow = false → s.rst.off = false → exec .brownOut s =
      .next { s with rst := { s.rst with borLow := true, reqs := s.rst.reqs ++ [⟨2, min 4 (fld s.rst.map 0 3), 0, 0⟩] } }) ∧
    (∀ k, k < 96 → exec (.pinReset k) s = .next s) ∧
    (∀ k, 96 ≤ k → s.rst.off = false → s.rst.phase ≠ .storm →
      (s.rst.pinLow = true → exec (.pinReset k) s = .next s) ∧
      (s.rst.pinLow = false → exec (.pinReset k) s =
        .next { s with rst := { s.rst with pinLow := true, reqs := s.rst.reqs ++ [⟨3, min 4 (fld s.rst.map 3 3), 0, 0⟩] } })) ∧
    (∀ k, 32000 ≤ k → s.rst.off = false → s.rst.phase = .storm → ∃ t, exec (.pinReset k) s = .next t ∧
      t.rst.phase = .assert 3 ∧ fld t.rst.cause 0 4 = 3 ∧ fld (tget 0 t.rst.bkup 12) 0 4 = 1) ∧
    (∀ (i : Fin 3) (r : ResetSt) (low : Bool), low = (r.porLow || r.borLow || r.pinLow) →
      r = { s.rst with porLow := s.rst.porLow && i != 0, borLow := s.rst.borLow && i != 1, pinLow := s.rst.pinLow && i != 2 } →
      ((∀ c, s.rst.phase ≠ .assert c) ∨ low = true → exec (.resetSourceDeassert i) s = .next { s with rst := r }) ∧
      (∀ c, s.rst.phase = .assert c → low = false → ∃ t, exec (.resetSourceDeassert i) s = .next t ∧
        t.rst.phase = .release c ∧ t.rst.reqs = s.rst.reqs ∧
        (c ≠ 4 → t = { s with rst := { r with phase := .release c } }) ∧
        (c = 4 → t.rst.bkup = [] ∧ t.rst.aotime = 0 ∧ t.retained = {}))) ∧
    (portLive s = false → (∀ v b, exec (.wdcfgWrite v b) s = .next s) ∧ exec .wdkick s = .next s ∧
      ∀ v, exec (.rstreq v) s = .next s) ∧
    (portLive s = true → ∀ (v : W64) (e : Bool), v.toNat < 0x200 → e = bitOf v 8 →
      (s.rst.wdEn = true → (fld v 1 4 ≠ s.rst.wdTmo ∨ fld v 5 2 ≠ s.rst.wdPre) → exec (.wdcfgWrite v 0xFF) s =
        .next { s with rst := { s.rst with wdErr := true } }) ∧
      (s.rst.wdEn = false ∨ (fld v 1 4 = s.rst.wdTmo ∧ fld v 5 2 = s.rst.wdPre) → exec (.wdcfgWrite v 0xFF) s =
        .next { s with rst := { s.rst with wdEn := s.rst.wdEn || bitOf v 0, wdTmo := fld v 1 4, wdPre := fld v 5 2,
                                           wdHop := bitOf v 7, wdErr := s.rst.wdErr && !e } })) ∧
    (portLive s = true → exec .wdkick s = .next { s with rst := { s.rst with wdCnt := 0, wdWarned := false } }) ∧
    (s.rst.off = false → s.rst.wdEn = true →
      (s.rst.wdPre ≠ 3 → s.rst.wdWarned = false → ∃ t, exec .watchdogPrewarning s = .next t ∧ t.rst.wdWarned = true ∧
        s.rst.wdCnt ≤ t.rst.wdCnt ∧
        ∀ w, getWheel t w = if w < 64 ∧ bitOf s.rst.wdServe w = true then { getWheel s w with exc17 := true } else getWheel s w) ∧
      (s.rst.wdPre = 3 ∨ s.rst.wdWarned = true → exec .watchdogPrewarning s = .next s) ∧
      exec .watchdogTimeout s = .next { s with rst := { s.rst with wdCnt := max s.rst.wdCnt (2 ^ (s.rst.wdTmo + 10)),
                                                                    reqs := s.rst.reqs ++ [⟨4, min 4 (fld s.rst.map 6 3), 0, 0⟩] } }) ∧
    (s.rst.wdEn = false ∨ s.rst.off = true → exec .watchdogTimeout s = .next s ∧ exec .watchdogPrewarning s = .next s) ∧
    (dbgOn s = false → exec .stormclr s = .next s ∧ ∀ v, exec (.rstinstGo v) s = .next s) ∧
    (dbgOn s = true → ∀ v : BitVec 11, bitOf v 9 = false → ∃ t, exec (.rstinstGo v) s = .next t ∧
      t = { s with sibs := t.sibs, rst := { s.rst with instErr := s.rst.instErr && !bitOf v 10 } }) ∧
    (∀ (c : Instr) (src lo l g : Nat) (v : BitVec 11), l = fld v 0 3 → g = fld v 3 6 → bitOf v 9 = true →
      (c = .rstreq (v.setWidth 10) ∧ portLive s = true ∧ src = 5 ∧ lo = 9) ∨
        (c = .rstinstGo v ∧ dbgOn s = true ∧ src = 6 ∧ lo = 12) →
      ∃ t, exec c s = .next t ∧ (∀ w, getWheel t w = getWheel s w) ∧ t.sails = s.sails ∧
        (4 ≤ l ∨ (l = 1 ∧ chipMills s ≤ g) ∨ (l = 0 ∧ 4 * chipMills s ≤ g) → t.rst.reqs = s.rst.reqs ∧
          (src = 5 → t.rst.reqErr = true) ∧ (src = 6 → t.rst.instErr = true)) ∧
        (l = 2 ∨ l = 3 → t.rst.reqs = s.rst.reqs ++ [⟨src, max l (min 4 (fld s.rst.map lo 3)), 0, 0⟩]) ∧
        (l = 1 → g < chipMills s → min 4 (fld s.rst.map lo 3) ≤ 1 → t.rst.reqs = s.rst.reqs ++ [⟨src, 1, g, 0⟩]) ∧
        (l = 0 → g < 4 * chipMills s → fld s.rst.map lo 3 = 0 → t.rst.reqs = s.rst.reqs ++ [⟨src, 0, g, 0⟩])) ∧
    (dbgOn s = true → s.rst.phase ≠ .storm → ∃ t, exec .stormclr s = .next t ∧ t = { s with sibs := t.sibs }) ∧
    (dbgOn s = true → s.rst.phase = .storm → ∃ t, exec .stormclr s = .next t ∧
      (t.rst.phase = .assert 3 ∨ t.rst.phase = .release 3) ∧ fld (tget 0 t.rst.bkup 12) 0 4 ≤ 1 ∧ fld t.rst.cause 0 4 = 6)

/-- R69, R427, R473, R479, R481 to R485, R480: a complex reset. An L2 empties the hoppers, the tailrace, the leats, lanes
and ring, and takes the wheels' state, but keeps the millpond, the scratchpads and the plant's registers; an L3 or L4
clears them. Fuse sense gives CAPS; the domains are released; the complex runs again, with every frame stopped, in the
held state where it was paired. The hold timer writes the safe words of the sails that no loop has written since the
L2. R33, R102, R370, R482, R487 to R491, R499, R500: an L0 or L1 parks and clears the wheels it names, writes the safe
words of their sails, and leaves every other wheel and all memories as they are. A clock that is measured good is
STABLE; a failing core clock raises a reset, and a failing edge clock holds its own domain. A program-store write that
a reset cut has its outcome recorded. Where the step of a command is not enabled, that the command changes nothing is
the model's choice (log 13). -/
def Obligations.ComplexReset : Prop :=
  (∀ (s : State),
    (s.rst.reqs = [] → exec .resetAssertion s = .next s) ∧
    (∀ r : RstReq, s.rst.reqs = [r] → s.rst.phase = .run → s.rst.off = false →
      (r.level < 2 → exec .resetAssertion s = .next s) ∧
      (r.level = 2 → s.rst.retention = false → fld (tget 0 s.rst.bkup 12) 0 4 = 0 →
        peerCovers s = false → s.svc.mrun = false → s.spare.st = .idle → runningSlots s .s = [] →
        ∃ t, exec .resetAssertion s = .next t ∧ t.rst.reqs = [] ∧ fld t.rst.cause 0 4 = r.src % 16 ∧
          (inputLow s = false → t.rst.phase = .release 2) ∧ (inputLow s = true → t.rst.phase = .assert 2) ∧
          t.mp = s.mp ∧ t.weirs = s.weirs ∧ t.sluices = s.sluices ∧ t.fbs = s.fbs ∧ t.segC = s.segC ∧ t.evroute = s.evroute ∧
          (∀ w, w < 64 → (getWheel t w).spad = (getWheel s w).spad ∧ (getWheel t w).pinned = (getWheel s w).pinned ∧
            (getWheel t w).evcfg = (getWheel s w).evcfg ∧ (getWheel t w).held = true ∧ (getWheel t w).run = none ∧
            (getWheel t w).parked = true ∧ (getWheel t w).rstack = [] ∧ (getWheel t w).sbuf = [] ∧
            (getWheel t w).events = []) ∧
          (∀ j, j < 192 → (getSail t j).owned = false ∧ (getSail t j).sinceL2 = false ∧ (getSail t j).out = (getSail s j).out) ∧
          (∀ n, n < 8 → (getEmu t n).outs = 0) ∧ (∀ h n, getSlot t h n = {}) ∧ t.leats = [] ∧ t.lanes = [] ∧ t.ring = {} ∧ t.tail = {} ∧ t.calibs = [] ∧
          t.twin.cfg = s.twin.cfg ∧ t.twin.role = s.twin.role ∧ t.twin.take = s.twin.take ∧ t.twin.drvsel = s.twin.drvsel ∧
          t.rst.wasPaired = (s.twin.role != .simplex) ∧ t.rst.hold = true) ∧
      (r.level = 3 ∨ r.level = 4 → fld (tget 0 s.rst.bkup 12) 0 4 = 0 →
        ∃ t, exec .resetAssertion s = .next t ∧ t.rst.reqs = [] ∧ t.capsId = 0 ∧ t.capsUnits = 0 ∧ t.mp = {} ∧
          t.frames = [] ∧ t.twin.role = .simplex ∧ t.twin.drvsel = 0 ∧ t.rst.drvrel = false ∧ t.rst.hold = false ∧
          t.fuse = s.fuse ∧ t.miller.bootA = s.miller.bootA ∧ t.miller.rebuild = true ∧
          ((∀ w o v, (getWheel s w).stall ≠ .pstore o v true) → ∀ m, m < 16 → (getMill t m).slice = (getMill s m).slice) ∧
          (∀ w, w < 64 → (getWheel t w).spad = {} ∧ (getWheel t w).evcfg = 0) ∧
          (∀ j, j < 192 → (getSail t j).tb = (getSail s j).tb ∧ (getSail t j).owned = false) ∧
          (r.level = 4 → fld t.rst.cause 14 6 = 0) ∧
          (r.level = 4 → inputLow s = false → t.retained = {} ∧ t.rst.bkup = []))) ∧
    (senseDue s = true → ∃ t, exec .fuseSenseDone s = .next t ∧ bitOf t.capsId 0 = true ∧ fld t.capsId 8 8 = 2 ∧
      fld t.capsId 16 8 = (if isHalf s then 0x20 else 0x40) ∧ fld t.capsUnits 0 5 = (if isHalf s then 8 else 16) ∧
      fld t.capsUnits 5 3 = 4 ∧ (∀ k, k < 4 → bitOf t.capsUnits (8 + k) = bitOf (tget 0 s.fuse 1) k) ∧
      bitOf t.capsUnits 12 = true ∧ bitOf t.capsUnits 13 = true ∧ t.rst.fused = true ∧ t.wheels = s.wheels ∧
      (s.rst.retention = false → t.standby = if isHalf s then 7 else 15)) ∧
    (senseDue s = false → exec .fuseSenseDone s = .next s) ∧
    (∀ d : Fin 64, (mayRelease s = false ∨ chipDomain s d = false → exec (.domainRelease d) s = .next s) ∧
      (mayRelease s = true → chipDomain s d = true → (getClk s d).stable = true → (getClk s d).held = true →
        ∃ t, exec (.domainRelease d) s = .next t ∧ (getClk t d).held = false ∧ (getClk t d).stable = true ∧
          (∀ k, k ≠ d.val → getClk t k = getClk s k) ∧
          (s.rst.phase = .run → d.val < 16 → ∀ w, millOf w = d.val → w < 64 → (getWheel t w).held = false))) ∧
    (∀ l, s.rst.phase = .release l → coreReady s = false → exec .resetComplete s = .next s) ∧
    (s.rst.phase = .release 2 → s.rst.retention = false → coreReady s = true →
      ∃ t, exec .resetComplete s = .next t ∧ t.rst.phase = .run ∧
        (∀ w, w < 64 → (getWheel t w).held = false) ∧ t.sails = s.sails ∧ t.mp = s.mp ∧
        t.twin.role = (if s.rst.wasPaired then .held else .simplex) ∧ t.rst.wasPaired = false ∧
        (∀ f d, f < 512 → getFrame s f = some d → d.wheel < 64 → d.slot < 16 → fsState t d.wheel d.slot = 0 ∧
          ∀ e ∈ frameWakes d, (getWake t d.wheel e).en = false ∧ (getWake t d.wheel e).pend = false) ∧
        (fld s.rst.cause 0 4 = 4 → t.rst.wdCnt = 0) ∧ t.rst.wdEn = s.rst.wdEn) ∧
    (∀ l, s.rst.phase = .release l → l = 3 ∨ l = 4 → coreReady s = true →
      ∃ t, exec .resetComplete s = .next t ∧ t.rst.phase = .run ∧ (∀ w, w < 64 → (getWheel t w).held = false) ∧
        (∀ j, j < 192 → (getSail t j).out = safeWord (getSail s j).safe ∧ (getSail t j).safeact = true) ∧ t.mp = s.mp) ∧
    (s.rst.hold = false → exec .holdTimerExpiry s = .next s) ∧
    (s.rst.hold = true → ∃ t, exec .holdTimerExpiry s = .next t ∧ t = { s with sails := t.sails, rst := { s.rst with hold := false } } ∧
      ∀ j, j < 192 → getSail t j = if (getSail s j).sinceL2 || tbHeld s j then getSail s j
        else { getSail s j with out := safeWord (getSail s j).safe, safeact := true }) ∧
    (running s = true → s.rst.drvrel = true → exec .drvrel s = .next s) ∧
    (running s = true → s.rst.drvrel = false → ∃ t, exec .drvrel s = .next t ∧ t.rst = { s.rst with drvrel := true } ∧
      (s.twin.role = .simplex → t.twin.drvsel = BitVec.allOnes 24) ∧ (s.twin.role = .held → t.twin.drvsel = ~~~ twGroups s) ∧
      (s.twin.role = .leader → t.twin.drvsel = BitVec.allOnes 24) ∧
      (s.twin.role = .follower → t.twin.drvsel = ~~~ twGroups s ||| s.twin.drvsel))) ∧
  (∀ (s : State),
    (s.rst.reqs = [] → exec .wheelMillReset s = .next s) ∧
    (∀ (r : RstReq) (l : List Nat), s.rst.reqs = [r] → running s = true → r.level < 2 → s.svc.mrun = false →
      peerCovers s = false → runningSlots s .c = [] → runningSlots s .s = [] → (r.level = 1 → r.scope < 16) →
      (r.level = 0 → r.scope < 64) → l = (if r.level = 1 then millWheels r.scope else [r.scope]) →
      ∃ t, exec .wheelMillReset s = .next t ∧ t.rst.reqs = [] ∧ t.mp = s.mp ∧ t.frames = s.frames ∧ t.twin = s.twin ∧
        (∀ w, w ∉ l → getWheel t w = getWheel s w) ∧
        (∀ w ∈ l, (getWheel t w).held = true ∧ (getWheel t w).parked = true ∧ (getWheel t w).run = none ∧
          (getWheel t w).rstack = [] ∧ (getWheel t w).sbuf = [] ∧ (getWheel t w).events = [] ∧
          (getWheel t w).spad = (getWheel s w).spad ∧ (getWheel t w).pinned = (getWheel s w).pinned ∧
          (getWheel t w).wakes = (getWheel s w).wakes ∧ (getWheel t w).evcfg = (getWheel s w).evcfg) ∧
        (∀ j, j < 192 → (∃ w ∈ l, ownsSail s w j = true) → (getSail t j).owned = false ∧
          (tbHeld s j = false → (getSail t j).out = safeWord (getSail s j).safe)) ∧
        (∀ j, (∀ w ∈ l, ownsSail s w j = false) → getSail t j = getSail s j) ∧
        (r.level = 1 → (getClk t r.scope).held = true) ∧ fld t.rst.cause 0 4 = r.src % 16 ∧ fld t.rst.cause 4 3 = r.level) ∧
    (∀ (d : Fin 65) (v : BitVec 16), d.val < 64 →
      (watched s d = false ∨ windowOpen s d = false ∨ inLimits s d v.toNat = false → exec (.clockMonitorStable d v) s = .next s) ∧
      (watched s d = false → unlocked s d = false → exec (.clockMonitorFault d v) s = .next s) ∧
      (watched s d = true → windowOpen s d = true → inLimits s d v.toNat = true →
        ∃ t, exec (.clockMonitorStable d v) s = .next t ∧
        getClk t d = { getClk s d with stable := true, fmeas := v } ∧
        (∀ k, k ≠ d.val → getClk t k = getClk s k) ∧
        (d.val < 16 → (getMill s d).pstate = 0 → (getMill t d).lock = true) ∧ (16 ≤ d.val → t.mills = s.mills)) ∧
      (watched s d = true ∨ unlocked s d = true → unitsLive s = true → ∃ t x, exec (.clockMonitorFault d v) s = .next t ∧ x = getClk t d ∧ x.fail = true ∧
        x.stable = false ∧ x.failcnt = min 0xFF ((getClk s d).failcnt + 1) ∧ x.fmeas = v ∧ bitOf t.twin.clkFail d = true ∧
        (d.val < 16 → (getMill t d).lock = false ∧
          t.rst.reqs = s.rst.reqs ++ [⟨7, max 1 (min 4 (fld s.rst.map 15 3)),
            if max 1 (min 4 (fld s.rst.map 15 3)) = 1 then d.val else 0, d⟩]) ∧
        (16 ≤ d.val → isEdge d = false → t.rst.reqs = s.rst.reqs ++ [⟨8, min 4 (fld s.rst.map 18 3), 0, d⟩] ∧
          (d.val = 16 ∨ d.val = 17 ∨ d.val = 18 → t.twin.hbStopped = true)) ∧
        (isEdge d = true → t.rst.reqs = s.rst.reqs ∧ x.held = true))) ∧
    (∀ (v : BitVec 16) (ok : Bool), ok = (inLimits s 64 v.toNat && !s.rst.off && (getClk s 58).stable &&
        (s.rst.phase == .run || mayRelease s)) →
      exec (.clockMonitorStable 64 v) s = .next { s with rst := { s.rst with refStable := s.rst.refStable || ok } } ∧
      (s.rst.off = true ∨ (s.rst.retention = true ∧ s.rst.phase = .run) → exec (.clockMonitorFault 64 v) s = .next s) ∧
      (s.rst.off = false → s.rst.retention = false → ∃ t, exec (.clockMonitorFault 64 v) s = .next t ∧ t.rst.refStable = false ∧
        ∀ d, d < 64 → refDerived d = true → watched s d = true → (getClk t d).fail = true ∧ (getClk t d).stable = false)) ∧
    ∀ (m : MillId) (b : Bool) (v : Nat), v = retVal s (0x700 + m) → b = (getMill s m).switched →
      (running s = false ∨ v % 2 = 0 ∨ domHeld s m = true ∨ lineBusy s m = true →
        ∀ q, exec (.pstoreOutcomeRecord m q) s = .next s) ∧
      exec (.pstoreOutcomeRecord m (!b)) s = .next s ∧
      (running s = true → v % 2 = 1 → domHeld s m = false → lineBusy s m = false →
        ∃ t u n, exec (.pstoreOutcomeRecord m b) s = .next t ∧ retVal u (0x700 + m) = n ∧ n % 2 = 0 ∧
          n / 0x8000 % 4 = (if b then 2 else 1) ∧ n % 0x8000 = v - v / 0x8000 * 0x8000 - 1 ∧
          t = logEntry u 0xD (if b then 2 else 1) 0 m n ∧ bitOf u.rst.cause 27 = true ∧
          u = { s with retained := u.retained, rst := { s.rst with cause := s.rst.cause ||| 0x8000000 } }))

/-- R504 to R513: a sample becomes the sensor's value and its peak, an alarm sets at the second sample in a row beyond its
limit, and a trip with TRIPACT sets TWINCFG.HBSTOP. A log entry stands at its place in retained memory with its ring
of 64, and is copied to its line of the mirror; the log state is rebuilt only once after a cold reset. R49, R50, R514,
R518 to R526: the mailbox operations answer with RESULT, DONE and their results; RETENTION is entered only with every
frame stopped, with the sails safe; the boot tries the records in turn; the supplies' removal leaves the program store
and the fuses. An attempt that fails for a reason to which the spec gives no order logs the free value of log 24.
Where the step of a command is not enabled, that the command changes nothing is the model's choice (log 13). -/
def Obligations.MillerService : Prop :=
  (∀ (s : State),
    (∀ (c : Fin 2) (i : Fin 8) (v : BitVec 16), sampled s c i = false → exec (.sensorSample c i v) s = .next s) ∧
    (∀ (i : Fin 8) (v : BitVec 16) (x : Sensor) (w tr : Int), sampled s 0 i = true → x = tget {} s.miller.sensors i →
      w = ((tget 0x03E80348 s.miller.templim i).setWidth 16).toInt →
      tr = (((tget 0x03E80348 s.miller.templim i) >>> 16).setWidth 16).toInt →
      ∃ t y, exec (.sensorSample 0 i v) s = .next t ∧ y = tget {} t.miller.sensors i ∧ y.value = v ∧ y.valid = true ∧
        (x.valid = true → y.peak.toInt = max x.peak.toInt v.toInt) ∧ (x.valid = false → y.peak = v) ∧
        (x.hi = false → y.hi = (decide (w < v.toInt) && decide (1 ≤ x.nHi))) ∧
        (x.hi = true → y.hi = !(decide (v.toInt ≤ w - 8) && decide (1 ≤ x.okHi))) ∧
        (x.trip = false → y.trip = (decide (tr < v.toInt) && decide (1 ≤ x.nTrip))) ∧
        (x.trip = true → y.trip = !(decide (v.toInt ≤ tr - 8) && decide (1 ≤ x.okTrip))) ∧
        (∀ k, k ≠ i.val → tget {} t.miller.sensors k = tget {} s.miller.sensors k) ∧
        (bitOf t.twin.cfg 60 = (bitOf s.twin.cfg 60 || (y.trip && decide (tr < v.toInt) &&
          bitOf (tget 0x03E80348 s.miller.templim i) 32 && !s.rst.retention))) ∧
        (y.hi = x.hi → y.trip = x.trip → t = { s with miller := { s.miller with sensors := t.miller.sensors }, twin := t.twin }) ∧
        t = { s with miller := t.miller, twin := t.twin, retained := t.retained }) ∧
    (∀ (i : Fin 8) (v : BitVec 16) (x : Sensor) (low high : Nat), sampled s 1 i = true → x = tget {} s.miller.sensors (8 + i) →
      low = fld (tget 0xFFFF0000 s.miller.suplim i) 0 16 → high = fld (tget 0xFFFF0000 s.miller.suplim i) 16 16 →
      ∃ t y, exec (.sensorSample 1 i v) s = .next t ∧ y = tget {} t.miller.sensors (8 + i) ∧ y.value = v ∧ y.valid = true ∧
        (x.lo = false → y.lo = (decide (v.toNat < low) && decide (1 ≤ x.nLo))) ∧
        (x.hi = false → y.hi = (decide (high < v.toNat) && decide (1 ≤ x.nHi))) ∧
        (x.lo = true → y.lo = !(decide (101 * low ≤ 100 * v.toNat) && decide (1 ≤ x.okLo))) ∧
        (x.hi = true → y.hi = !(decide (100 * v.toNat ≤ 99 * high) && decide (1 ≤ x.okHi))) ∧
        (x.valid = true → y.peak.toNat = min x.peak.toNat v.toNat) ∧ (x.valid = false → y.peak = v) ∧
        (∀ k, k ≠ 8 + i.val → tget {} t.miller.sensors k = tget {} s.miller.sensors k) ∧
        (y.hi = x.hi → y.lo = x.lo → t = { s with miller := { s.miller with sensors := t.miller.sensors } }) ∧
        t = { s with miller := t.miller, retained := t.retained }) ∧
    (∀ (ty arg w m data n : Nat), s.miller.rebuild = false → n = retVal s 0x720 → n < 0xFFFFFFFF →
      (n ≠ 0 → nth 0 (logEntryAt s (n - 1)) 3 ≠ data) → (n < 64 ∨ n - 64 < retVal s 0x721) → data < 2 ^ 32 → ty < 256 →
      ∃ t, t = logEntry s ty arg w m data ∧ t = { s with retained := t.retained } ∧ retVal t 0x720 = n + 1 ∧
        retVal t 0x721 = retVal s 0x721 ∧ logEntryAt t n = [n, ty + arg % 256 * 0x100 + w % 64 * 0x10000 + m % 16 * 0x400000,
          s.rst.aotime.toNat / 32 % 2 ^ 32, data] ∧ ∀ k, k % 64 ≠ n % 64 → logEntryAt t k = logEntryAt s k) ∧
    (running s = false ∨ s.miller.rebuild = false → exec .logRebuild s = .next s) ∧
    (running s = true → s.miller.rebuild = true → ∀ (b : W32) (k : Nat), b = tget 0 s.rst.bkup 14 →
      k = min 16 (fld b 4 28 - s.miller.histDone) →
      ∃ u, u = { s with retained := u.retained, miller := { s.miller with rebuild := false, histDone := fld b 4 28 } } ∧
        ((ramGet emptyW s.retained 0x720).tag = .int → u.retained = s.retained) ∧
        ((ramGet emptyW s.retained 0x720).tag ≠ .int → retVal u 0x720 = mirrorNext s % 2 ^ 32 ∧
          retVal u 0x721 = mirrorNext s % 2 ^ 32 ∧ retVal u 0x722 = 0 ∧
          ∀ a, a ≠ 0x720 → a ≠ 0x721 → a ≠ 0x722 → retRead u a = retRead s a) ∧
        exec .logRebuild s = .next ((List.range k).foldl (fun x i =>
          logPut x 1 (retVal x (0x710 + (fld b 0 4 + 16 - k + i) % 16))) u)) ∧
    (millerLive s = false ∨ s.rst.vps = false ∨ s.miller.rebuild = true → exec .logMirrorWrite s = .next s) ∧
    (millerLive s = true → s.rst.vps = true → s.miller.rebuild = false → ∀ q,
      q = max (retVal s 0x721) (retVal s 0x720 - 64) →
      (retVal s 0x720 ≤ q → exec .logMirrorWrite s = .next s) ∧
      (q < retVal s 0x720 → ∃ t, exec .logMirrorWrite s = .next t ∧ retVal t 0x721 = q + 1 ∧ retVal t 0x720 = retVal s 0x720 ∧
        (∀ i, i < 18 → tget 0 (getMill t 0).slice (18 * (14051 + q % 512) + i) = mirrorBits (logEntryAt s q) i) ∧
        (∀ k, (k < 18 * (14051 + q % 512) ∨ 18 * (14051 + q % 512) + 18 ≤ k) →
          tget 0 (getMill t 0).slice k = tget 0 (getMill s 0).slice k) ∧
        (∀ m, m ≠ 0 → getMill t m = getMill s m) ∧ t = { s with mills := t.mills, retained := t.retained }))) ∧
  (∀ (s : State),
    (∀ (op : BitVec 8) (c : Instr), c ∈ [Instr.enterRetention, .readMillRecords, .readBootRecord, .setBootRecord,
        .readBootDigest, .forgetSpareSubstitution, .readProgramRecords, .mailboxUndefinedOp op] →
      (portLive s = false → exec c s = .next s) ∧
      (portLive s = true → s.miller.busy = true → exec c s = .next { s with miller := { s.miller with err := true } })) ∧
    (portLive s = true → s.miller.busy = false → ∀ (m : Nat) (b : BootRec), m = fld (tget 0 s.miller.arg 0) 0 4 →
      b = (if bitOf (tget 0 s.miller.arg 0) 0 then s.miller.bootB else s.miller.bootA) →
      (∀ op : BitVec 8, op = 0 ∨ 7 < op.toNat → exec (.mailboxUndefinedOp op) s =
        .next { s with miller := { s.miller with result := 4, done := true } }) ∧
      (∀ op : BitVec 8, op ≠ 0 → op.toNat ≤ 7 → exec (.mailboxUndefinedOp op) s = .next s) ∧
      (anyFrameLive s = true → exec .enterRetention s = .next { s with miller := { s.miller with result := 2, done := true } }) ∧
      (anyFrameLive s = false → ∃ t, exec .enterRetention s = .next t ∧ t.rst.retention = true ∧ t.miller.retrdy = true ∧
        t.miller = { s.miller with done := true, result := 0, retrdy := true } ∧ t.rst = { s.rst with retention := true } ∧
        t.twin.hbStopped = true ∧ t.twin.drvsel = 0 ∧ t.frames = s.frames ∧ t.mills = s.mills ∧
        (∀ k, k < 4 → (getLane t k).txen = false) ∧ (∀ n, n < 8 → (getEmu t n).outs = 0) ∧
        (∀ w, w < 96 → (getWeir t w).clr = false) ∧
        ∀ j, j < 192 → tbHeld s j = false → (getSail t j).out = safeWord (getSail s j).safe) ∧
      (∀ c, c = Instr.readMillRecords ∨ c = .readProgramRecords → nMills s ≤ m → exec c s =
        .next { s with miller := { s.miller with result := 7, done := true } }) ∧
      (m < nMills s → ∃ t, exec .readMillRecords s = .next t ∧ t = { s with miller := t.miller } ∧ t.miller.result = 0 ∧
        t.miller.done = true ∧ tget 0 t.miller.res 0 = (getMill s m).mcId ∧
        tget 0 t.miller.res 1 = pk [(0, (getMill s m).mcKey), (32, (getMill s m).mcCount)] ∧
        ∀ j, j < 6 → tget 0 t.miller.res (2 + j) = nth 0 (digestWords (getMill s m).mcDigest) j) ∧
      (m < nMills s → ∃ t, exec .readProgramRecords s = .next t ∧ t = { s with miller := t.miller } ∧ t.miller.result = 0 ∧
        t.miller.done = true ∧ tget 0 t.miller.res 0 = (getMill s m).progId) ∧
      (∃ t, exec .readBootRecord s = .next t ∧ t = { s with miller := t.miller } ∧ t.miller.result = 0 ∧ t.miller.done = true ∧
        tget 0 t.miller.res 0 = pk [(0, b2n b.valid), (16, b.gen.toNat), (32, b.length)] ∧ tget 0 t.miller.res 1 = b.imageId ∧
        tget 0 t.miller.res 2 = pk [(0, b.mills.toNat), (16, b.haddr.toNat), (40, b.keyIdx)]) ∧
      (∃ t, exec .readBootDigest s = .next t ∧ t = { s with miller := t.miller } ∧ t.miller.result = 0 ∧ t.miller.done = true ∧
        ∀ j, j < 6 → tget 0 t.miller.res j = nth 0 (digestWords b.digest) j) ∧
      (∀ v : Bool, v = bitOf (tget 0 s.miller.arg 2) 0 →
        (v = true → b.kept = false → exec .setBootRecord s =
          .next { s with miller := { s.miller with result := 2, done := true } }) ∧
        (v = false ∨ b.kept = true → ∃ t q, exec .setBootRecord s = .next t ∧ t = { s with miller := t.miller } ∧
          t.miller.result = 0 ∧ t.miller.done = true ∧ q = { b with haddr := (tget 0 s.miller.arg 1).setWidth 24, valid := v } ∧
          (t.miller.bootA, t.miller.bootB) = if bitOf (tget 0 s.miller.arg 0) 0 then (s.miller.bootA, q) else (q, s.miller.bootB))) ∧
      (s.spare.st ≠ .idle → exec .forgetSpareSubstitution s =
        .next { s with miller := { s.miller with result := 2, done := true } }) ∧
      (s.spare.st = .idle → ∃ t u, exec .forgetSpareSubstitution s = .next t ∧ u = logEntry s 0xA m 0 0 s.spare.prog ∧
        t = { u with miller := { u.miller with result := 0, done := true } })) ∧
    (running s = false ∨ s.miller.boot = 0 →
      (∀ l, exec (.millerAutoboot l) s = .next s) ∧ exec .bootRecordAttemptTimeout s = .next s) ∧
    (running s = true → s.miller.boot ≠ 0 → (bootOrder s).length < s.miller.boot →
      (∀ l, exec (.millerAutoboot l) s = .next { s with miller := { s.miller with boot := 0 } }) ∧
      exec .bootRecordAttemptTimeout s = .next { s with miller := { s.miller with boot := 0 } }) ∧
    (running s = true → ∀ (k : Nat) (p : BootRec × Nat), k < (bootOrder s).length → s.miller.boot = k + 1 →
      (bootOrder s)[k]? = some p → ∀ nx, nx = (if k = 0 ∧ 1 < (bootOrder s).length then 2 else 0) →
      (∀ (c : Instr) (order : Nat), (c = .bootRecordAttemptTimeout ∧ order = (Config.bootFailOrder 1).toNat ∨
          (∃ l : List Byte, c = .millerAutoboot l ∧
            ((l.length ≠ p.1.length ∧ order = 1) ∨
              (l.length = p.1.length ∧ progCheck s l (maskMills p.1.mills.toNat) = some order) ∨
              (l.length = p.1.length ∧ progCheck s l (maskMills p.1.mills.toNat) = none ∧ sha384 l ≠ p.1.digest ∧
                order = (Config.bootFailOrder 0).toNat)))) →
        ∃ u, u = logEntry s 9 order 0 0 (p.1.imageId.toNat % 0x100000000) ∧
          exec c s = .next { u with miller := { u.miller with boot := nx } } ∧ ∀ m, getMill u m = getMill s m) ∧
      (∀ l : List Byte, l.length = p.1.length → progCheck s l (maskMills p.1.mills.toNat) = none → sha384 l = p.1.digest →
        (s.rst.vps = false → exec (.millerAutoboot l) s = .next s) ∧ (s.rst.vps = true →
        ∃ t, exec (.millerAutoboot l) s = .next t ∧ t.miller.boot = 0 ∧
          ∀ m ∈ maskMills p.1.mills.toNat, (getMill t m).progId = imageId l))) ∧
    (running s = false ∨ s.miller.reapply = false → exec .spareReapply s = .next s) ∧
    (running s = true → s.miller.reapply = true → ∀ u, u = rebuildLog s →
      (newestSpare u = none ∨ (∃ a, newestSpare u = some a ∧ a / 16 % 4 ≠ 1 ∧ a / 16 % 4 ≠ 2) →
        exec .spareReapply s = .next { u with miller := { u.miller with reapply := false } }) ∧
      (∀ a, newestSpare u = some a → a / 16 % 4 = 1 ∨ a / 16 % 4 = 2 → s.spare.st = .idle →
        (bankOn s (a % 16) = true → ∃ t, exec .spareReapply s = .next t ∧ t.miller.reapply = false ∧ t.spare.st = .copyin ∧
          t.spare.bank = a % 16 ∧ t.spare.prog = 0 ∧ t.mp = s.mp) ∧
        (bankOn s (a % 16) = false → ∃ t, exec .spareReapply s = .next t ∧ t.miller.reapply = false ∧
          t.spare = { s.spare with bank := a % 16, err := true } ∧ t.mp = s.mp)) ∧
      (∀ a, newestSpare u = some a → a / 16 % 4 = 1 ∨ a / 16 % 4 = 2 → s.spare.st ≠ .idle →
        ∃ t, exec .spareReapply s = .next t ∧ t.miller.reapply = false ∧ t.spare = { s.spare with err := true } ∧
          t.mp = s.mp)) ∧
    exec .lossOfVps s = .next { s with rst := { s.rst with vps := false, vcore := s.rst.vcore && !s.rst.retention,
                                                            vmem := s.rst.vmem && !s.rst.retention } } ∧
    exec .supplyRestore s = .next { s with rst := { s.rst with vcore := true, vmem := true, vps := true } } ∧
    ∃ t, exec .supplyRemoval s = .next t ∧ t.rst.off = true ∧ t.rst.vcore = false ∧ t.rst.reqs = [] ∧ t.capsId = 0 ∧ t.mp = {} ∧
      t.retained = {} ∧ t.rst.bkup = [] ∧ t.fuse = s.fuse ∧ t.pending = s.pending ∧ t.frames = [] ∧ t.rst.phase = .run ∧
      ((∀ w o v, (getWheel s w).stall ≠ .pstore o v true) → ∀ m, m < 16 → (getMill t m).slice = (getMill s m).slice))

/-- R212, R247, R342, R537 to R542: a halt request is taken at a boundary, and a halted wheel retires one instruction for
each STEP until RESUME; a debug access goes to the wheel's steal register, one request at a time (log 94), or reads 0 where
the memory is not ON; CSREAD shows a control store and a CDT, whose ROM half is free (log 101); RSTINST, WDBG, CLKMON and
TRACE show their fields, EN, STOPFULL, KMASK and RPTR of TRACE are written, and a data scan shows the record at RPTR and
leaves RPTR (the model's choice, log 116). A scan
opens its segment insertion bit (log 25); Test-Logic-Reset closes them all. Where the step of a command is not enabled, that
the command changes nothing is the model's choice (log 13). -/
def Obligations.DebugAccess : Prop :=
  ∀ (s : State),
    exec .testLogicReset s = .next { s with sibs := [], dbgData := none, rst := { s.rst with instErr := false } } ∧
    (∀ w : WheelId, dbgOn s = true → Shows s w .readRstinst (pk [(10, b2n s.rst.instErr)]) ∧ (∀ d, Shows s w (.readClkmon d) (clkmonReg s d)) ∧
      (running s = true →
        (w.val < nWheels s → ∀ x, x = getWheel s w → Shows s w .readWdbg (pk [(3, b2n x.halted), (4, b2n (x.halted && x.parked)),
          (8, x.pc.toNat), (40, modeView x), (48, x.sd)])) ∧
        (nWheels s ≤ w.val → Shows s w .readWdbg 0) ∧
        ∀ (m : MillId) (y : Trace), y = (getMill s m).trace →
          (nMills s ≤ m.val → Shows s w (.readTrace m) 0 ∧ Shows s w (.scanTrace m) 0) ∧
          (m.val < nMills s →
            Shows s w (.readTrace m) (pk [(0, b2n y.en), (1, b2n y.stopfull), (2, y.kmask.toNat), (10, y.wptr), (22, b2n y.wrap),
              (32, y.lost), (48, y.rptr)]) ∧
            (∀ q, tget none y.buf y.rptr = some q → Shows s w (.scanTrace m) (pk [(0, q.kind), (4, q.pos), (6, q.arg),
              (14, q.frame), (24, q.time.toNat)])) ∧
            (∀ v, ∃ t, exec (.memaccAccess w (.writeTrace m v)) s = .next t ∧ t = { s with mills := t.mills, sibs := t.sibs } ∧
              (∀ k, k ≠ m.val → getMill t k = getMill s k) ∧ getMill t m = { getMill s m with trace := { y with
                en := bitOf v 0, stopfull := bitOf v 1, kmask := BitVec.ofNat 8 (fld v 2 8), rptr := fld v 48 12 } })))) ∧
    (dbgOn s = false → ∀ (w : WheelId) (a : MemAcc), ∀ c ∈ [Instr.haltreq w, .dbgStep w, .dbgResume w, .memaccAccess w a],
      exec c s = .next s) ∧
    (∀ (w : WheelId) (m : MillId) (i : BitVec 13) (e : BitVec 5), dbgOn s = true → running s = true → m.val < nMills s →
      (csOn s m = true →
        (∃ t, exec (.memaccAccess w (.readCs m i)) s = .next t ∧ t = { s with sibs := t.sibs, dbgData := some (.micro
          (if i.toNat < 0x1000 then Config.microRom i.toNat else tget 0 (getMill s m).cstore i.toNat)) }) ∧
        ∃ t, exec (.memaccAccess w (.readCdt m e)) s = .next t ∧ t = { s with sibs := t.sibs, dbgData := some (.cdt
          (tget 0 (getMill s m).cdt e.toNat)) }) ∧
      (csOn s m = false → ∃ t, exec (.memaccAccess w (.readCs m i)) s = .next t ∧
        t = { s with sibs := t.sibs, dbgData := some (.micro 0) })) ∧
    ∀ (w : WheelId) (x : Wheel), x = getWheel s w → running s = true → dbgOn s = true → w.val < nWheels s → s.svc.mrun = false →
      (x.halted = false → ∃ t, exec (.haltreq w) s = .next t ∧ (getWheel t w) = { x with haltReq := true } ∧
        (∀ u, u ≠ w.val → getWheel t u = getWheel s u) ∧ t = { s with wheels := t.wheels, sibs := t.sibs } ∧
        tget false t.sibs (1 + w) = true) ∧
      (x.haltReq = false → exec (.debugHalt w) s = .next s) ∧
      (x.haltReq = true → atStep x.stall = true → (x.parked = true ∨ x.fresh = false) → ∃ t, exec (.debugHalt w) s = .next t ∧
        ((getWheel t w).halted = true ∧ (getWheel t w).haltReq = false ∧ (getWheel t w).pc = x.pc ∧ (getWheel t w).sd = x.sd) ∧
        (peerCovers s = false → t = { s with wheels := t.wheels } ∧ ∀ u, u ≠ w.val → getWheel t u = getWheel s u)) ∧
      (x.halted = true → x.parked = false →
        (∃ t, exec (.dbgStep w) s = .next t ∧ getWheel t w = { x with stepReq := true } ∧
          (∀ u, u ≠ w.val → getWheel t u = getWheel s u) ∧ t = { s with wheels := t.wheels, sibs := t.sibs }) ∧
        ∃ t, exec (.dbgResume w) s = .next t ∧ getWheel t w = { x with halted := false, stepReq := false } ∧
          (∀ u, u ≠ w.val → getWheel t u = getWheel s u) ∧ t = { s with wheels := t.wheels, sibs := t.sibs }) ∧
      (∀ i, (spadOn s w = true → x.steal = none → stealHeld x (stealOf (.debug (.readSpad i))) = false → ∃ t, exec (.memaccAccess w (.readSpad i)) s = .next t ∧
            getWheel t w = { x with steal := some (.debug (.readSpad i)) } ∧ t = { s with wheels := t.wheels, sibs := t.sibs }) ∧
          (spadOn s w = false → ∃ t, exec (.memaccAccess w (.readSpad i)) s = .next t ∧
            t = { s with dbgData := some (.word ⟨.int, 0⟩), sibs := t.sibs })) ∧
      ∀ i v, (pinOn s w = true → x.steal ≠ none → ∃ t, exec (.memaccAccess w (.writePin i v)) s = .next t ∧
            getWheel t w = { x with stealQ := if stealHeld x (stealOf (.debug (.writePin i v))) then x.stealQ
              else x.stealQ ++ [.debug (.writePin i v)] }) ∧
          (pinOn s w = false → ∃ t, exec (.memaccAccess w (.writePin i v)) s = .next t ∧ t = { s with sibs := t.sibs })

/-- A step takes the command at the front of the queue, and its outcome is that of the command on the state with the
queue's rest (the model's own form, of the row's cut). -/
def Obligations.StepTakesFront : Prop :=
  ∀ (c : Instr) (l : List Instr) (s : State), s.pending = c :: l → step s = exec c { s with pending := l }

/-- The model's choice (log 5): with no command waiting, a step is a nanosecond. Ring time counts through L0, L1 and L2
(R394), with what the steering's rate adds (log 98), and the always-on clock reaches its next edge after 31 or 32 such
steps (R77), with AOTIME and, while EN is 1, the watchdog's count (R477). A bank copy goes on by one word while no wheel
asks for the bank (R336, log 95), and the Miller enters the uncorrectable words found (R330, log 96). -/
def Obligations.EmptyQueueTicks : Prop :=
  ∀ s : State, s.pending = [] → ∃ t v, step s = .next t ∧ v = { s with ring_time := t.ring_time, ring := t.ring, rst := t.rst } ∧
    (copyGoes s = false ∨ 0x3FFFF ≤ s.spare.prog ∨ bankAskers s s.spare.bank ≠ [] →
      t = (if millerLive s then s.mem.ueLog.foldl ueEntry v else v)) ∧
    (copyGoes s = true → s.spare.prog < 0x3FFFF → bankAskers s s.spare.bank = [] → ∀ a x, a = s.spare.bank * 0x40000 + s.spare.prog →
      t.spare = { s.spare with prog := s.spare.prog + 1 } ∧
      (s.spare.st = .copyin → ramRead emptyW s.mp a = some x → ramRead emptyW t.spareRam s.spare.prog = some x) ∧
      (s.spare.st = .copyback → ramRead emptyW s.spareRam s.spare.prog = some x → ramRead emptyW t.mp a = some x)) ∧
    (unitsLive s = true → s.ring.rate = 0 → t.ring = s.ring ∧ t.ring_time = ⟨s.ring_time.ns + 1, s.ring_time.frac⟩) ∧
    (unitsLive s = true → s.ring.rate ≠ 0 → ∀ a, a = s.ring.rate + s.ring.rateLow →
      t.ring = { s.ring with rateLow := (a % 65536).toNat } ∧
      t.ring_time = ofStamp (stampInt s.ring_time + 65536 + a / 65536)) ∧
    (unitsLive s = false → t.ring = s.ring ∧ t.ring_time = s.ring_time) ∧ (s.rst.off = true → t.rst = s.rst) ∧
    (s.rst.off = false → s.rst.aoAcc < 121 → t.rst = { s.rst with aoAcc := s.rst.aoAcc + 4 }) ∧
    (s.rst.off = false → 121 ≤ s.rst.aoAcc → t.rst = { s.rst with
      aoAcc := s.rst.aoAcc - 121, aotime := s.rst.aotime + 1, wdCnt := if s.rst.wdEn then s.rst.wdCnt + 1 else s.rst.wdCnt })

/-- An invariant of every step: the fuses keep their words (R502), and of the queue exactly the front command is gone (the
row's cut). So a run with the queue `l` takes the commands of `l` in their order, whatever they do. -/
def Obligations.FusesAndQueueKept : Prop :=
  ∀ (s t : State) (F : Tab W32) (l : List Instr), s.fuse = F ∧ s.pending = l → step s = .next t →
    t.fuse = F ∧ t.pending = l.tail

/-- Every well-formed command is answered with a next state, in every state; a command that a sender cannot present is
refused. -/
def Obligations.EveryCommandCompletes : Prop :=
  (∀ (c : Instr) (s : State), WellFormed c = true → ∃ t, exec c s = .next t) ∧
  (∀ (w : WheelId) (x : BitVec 14) (s : State), opLen x.toNat ≠ none → exec (.undefinedOpcode w x) s = .refused .illFormed) ∧
  ∀ (a : BitVec 26) (l : List (W64 × BitVec 8)) (c : Option (Fin 8)) (s : State), 8 < l.length ∨ l = [] →
    exec (.hostPortWrite a ⟨l, c⟩) s = .refused .illFormed

/-- What the spec states for reset, of every group of registers: the wheels parked at no event and no frame (R290, R485),
the sails safe and not owned (R100), the plant's registers (R454, R457, R460, R464), the pair simplex with nothing
driven (R69, R383, R384), ring time 0 (R394), the hoppers free (R415), the memories EMPTY (R343), and the floors of
RSTMAP (R472). -/
def Obligations.ResetState : Prop :=
  ∀ s : State, s = State.reset → running s = true ∧ s.ring_time = ⟨0, 0⟩ ∧ s.frames = [] ∧
    (∀ w, w < 64 → (getWheel s w).parked = true ∧ (getWheel s w).evcfg = 0 ∧ (getWheel s w).halted = false ∧
      ∀ a, spadRead s w a = some emptyW) ∧
    (∀ n, n < 192 → (getSail s n).ovrpol = true ∧ (getSail s n).owned = false ∧ (getSail s n).safeact = true ∧
      (getSail s n).safe = 0 ∧ (getSail s n).ovrcnt = 0 ∧ (getSail s n).latecnt = 0) ∧
    (∀ n, n < 256 → (getLeat s n).seqerr = 0 ∧ (getLeat s n).lost = 0) ∧
    (∀ h n, (getSlot s h n).st = .free ∧ (getHop s h).queue = [] ∧ (getHop s h).donecnt = 0 ∧ (getHop s h).err = false) ∧
    (∀ n, n < 8 → fld (getFb s n).cfg 32 8 = 0xC8 ∧ fld (getFb s n).cfg 40 16 = 0x3E8 ∧ fld (getFb s n).cfg 8 8 = 0xFF ∧
      fld (getFb s n).cfg 16 8 = 0xFF ∧ fld (getFb s n).cpr 0 24 = 0x1000 ∧ fld (getFb s n).cpr 32 16 = 0x10 ∧
      (getFb s n).still = true ∧ (getFb s n).dir = true ∧ bitOf (getFb s n).cfg 0 = false) ∧
    (∀ w, w < 96 → (getWeir s w).lat = true ∧ (getWeir s w).codeok = false ∧ (getWeir s w).cfg = 0) ∧
    (∀ g, g < 24 → (getSluice s g).arm = true ∧ (getSluice s g).st = false ∧ (getSluice s g).tripcnt = 0) ∧
    s.twin.role = .simplex ∧ s.twin.drvsel = 0 ∧ s.rst.drvrel = false ∧ fld s.twin.cfg 0 24 = 0 ∧ bitOf s.twin.cfg 61 = true ∧
    s.ring.present = 0 ∧ s.spare.st = .idle ∧ s.occupied = false ∧ s.mem.cecnt = 0 ∧ s.mem.uecnt = 0 ∧
    fld s.rst.map 0 3 = 3 ∧ fld s.rst.map 3 3 = 2 ∧ fld s.rst.map 6 3 = 2 ∧ fld s.rst.map 15 3 = 1 ∧ fld s.rst.map 18 3 = 2 ∧
    (∀ a, a < 0x400000 → mpRead s a = some emptyW) ∧ MemWf s

/-- R38, R39, R336: a word written to the millpond, a scratchpad, a pinned store or retained memory is read back at its
address, with a copy that has passed it also in the other bank, every other address reads as before, and the memories keep their canonical form. -/
def Obligations.MemoryReadsAndWrites : Prop :=
  ∀ (s : State),
    (∀ (a : Nat) (v : TWord), a < 0x400000 → mpRead (mpWrite s a v) a = some v ∧
      (∀ b, b < 0x400000 → b ≠ a → mpRead (mpWrite s a v) b = mpRead s b) ∧
      (s.spare.st = .copyin → s.spare.bank = mpBank a → mpIdx a < s.spare.prog →
        ramRead emptyW (mpWrite s a v).spareRam (mpIdx a) = some v) ∧
      (∀ w b, spadRead (mpWrite s a v) w b = spadRead s w b) ∧ (MemWf s → MemWf (mpWrite s a v))) ∧
    (∀ (w a : Nat) (v : TWord), spadRead (spadWrite s w a v) w a = some v ∧
      (∀ u b, u ≠ w ∨ b ≠ a → spadRead (spadWrite s w a v) u b = spadRead s u b) ∧
      (∀ b, mpRead (spadWrite s w a v) b = mpRead s b) ∧ (MemWf s → MemWf (spadWrite s w a v))) ∧
    (∀ (w a : Nat) (v : BitVec 14), ramRead 0 (getWheel (pinWrite s w a v) w).pinned a = some v ∧
      (∀ u b, u ≠ w ∨ b ≠ a → ramRead 0 (getWheel (pinWrite s w a v) u).pinned b = ramRead 0 (getWheel s u).pinned b) ∧
      (MemWf s → MemWf (pinWrite s w a v))) ∧
    ∀ (a : Nat) (v : TWord), retRead (retWrite s a v) a = some v ∧
      (∀ b, b ≠ a → retRead (retWrite s a v) b = retRead s b) ∧ (MemWf s → MemWf (retWrite s a v))

/-- R175, R179, R180: the words of every well-formed wheel instruction decode to it, whatever words follow, and as many as
its opcode word says; and what the words of the program decode to has exactly those words. -/
def Obligations.DecodeAndEncodeAgree : Prop :=
  (∀ (i : Instr) (ws : List (BitVec 14)), WellFormed i = true → encode i = some ws →
    ∃ w k, (∀ rest, decode w k (ws ++ rest) = some i) ∧
      ∀ x l, ws = x :: l → opLen x.toNat = some ws.length ∨ (opLen x.toNat = none ∧ i = .undefinedOpcode w x)) ∧
  ∀ (w : WheelId) (k : Nat) (x : BitVec 14) (l : List (BitVec 14)) (i : Instr), decode w k (x :: l) = some i →
    WellFormed i = true ∧ encode i = some ((x :: l).take ((opLen x.toNat).getD 1))

/-- R93, R178, R224, R244, R331: where an instruction begins, the stack, the registers and every other wheel stand
as they were; due mode changes and the end of an iteration have taken effect, as have feed-forward values whose wake cycle
has passed, which are words 60 to 63 of their frames; beside them only the fetch state, the block
state and the record of memory errors may have moved. Where the wheel cannot issue, the command changes nothing (the
model's choice, log 13). -/
def Obligations.InstructionBegins : Prop :=
  ∀ (s : State) (w op : Nat) (ext : List Nat), w < 64 →
    (∀ b, begun s w op ext = some b → ∃ z x y, z = ffSettle s w ∧ x = getWheel z w ∧ y = getWheel b w ∧
      x = { getWheel s w with spad := x.spad, ffNow := x.ffNow } ∧
      ((getWheel s w).ffNow = [] ∨ (getWheel s w).fresh = true → (getWheel s w).fault = none → z = s) ∧
      ((getWheel s w).fresh = false →
        (∀ l k v, (getWheel s w).ffNow = l ++ [(k, v)] → spadRead z w (frameAddr (k / 4) (60 + k % 4)) = some v ∧ x.ffNow = []) ∧
        ∀ a, (∀ p ∈ (getWheel s w).ffNow, a ≠ frameAddr (p.1 / 4) (60 + p.1 % 4)) → spadRead z w a = spadRead s w a) ∧
      b = { s with wheels := b.wheels, mem := b.mem } ∧
      y = { x with pc := y.pc, mode := y.mode, pend := y.pend, fetch := y.fetch, rpt := y.rpt, iterEnd := y.iterEnd,
                   blk := y.blk, blkSeg := y.blkSeg, pinned := y.pinned } ∧
      y.pinned.cells = x.pinned.cells ∧ (x.iterEnd = false → y.pc = x.pc ∧ y.rpt = x.rpt) ∧
      (x.pend = [] → y.mode = x.mode ∧ y.pend = []) ∧
      (∀ a p, x.pend = [a] → a.cnt = 0 → p = y.mode → p.level = (x.mode.level && a.level) ∧ p.tchk = a.tchk ∧ p.world = x.mode.world ∧ y.pend = []) ∧
      (∀ u, u ≠ w → getWheel b u = { getWheel s u with pinned := (getWheel b u).pinned } ∧
        (getWheel b u).pinned.cells = (getWheel s u).pinned.cells) ∧
      (∀ a, spadRead b w a = spadRead z w a) ∧ (∀ u a, u ≠ w → spadRead b u a = spadRead s u a)) ∧
    ∀ (v : WheelId) (i : BitVec 5) (c : BitVec 4) (n : BitVec 8), w = v.val → ∀ p ∈ stackTable v i c n,
      (canIssue (settle s w) w = false → exec p.1 s = .next s) ∧
      (∀ e, canIssue (settle s w) w = true → offered (settle s w) w [p.2.1] = true →
        (placeChk (getWheel (settle s w) w) p.2.1 1 = some e → exec p.1 s = .next (failAt (settle s w) w e)) ∧
        (∀ t, placeChk (getWheel (settle s w) w) p.2.1 1 = none → fetchWords (settle s w) w p.2.1 1 = .error (t, e) →
          exec p.1 s = .next (failAt t w e)))
end

