-- ==== Sys2Proof/Laws/State.lean ====
section
/-! SUPPORT. What each update of one part of the state leaves in every part: one lemma for each update, true by the
definitions, a conjunct for each field. -/

namespace Sys2Proof.Machine

@[simp] theorem setWheel_fields (s : State) (w : Nat) (x : Wheel) :
    (setWheel s w x).pending = s.pending ∧ (setWheel s w x).free = s.free ∧ (setWheel s w x).order = s.order ∧
    (setWheel s w x).ring_time = s.ring_time ∧ (setWheel s w x).ringfrac = s.ringfrac ∧
    (setWheel s w x).fuse = s.fuse ∧ (setWheel s w x).fuseSh = s.fuseSh ∧ (setWheel s w x).capsId = s.capsId ∧
    (setWheel s w x).capsUnits = s.capsUnits ∧ (setWheel s w x).standby = s.standby ∧
    (setWheel s w x).occupied = s.occupied ∧ (setWheel s w x).millcfgErr = s.millcfgErr ∧
    (setWheel s w x).mills = s.mills ∧ (setWheel s w x).wheels = tset {} s.wheels w x ∧
    (setWheel s w x).segC = s.segC ∧ (setWheel s w x).segS = s.segS ∧ (setWheel s w x).excC = s.excC ∧
    (setWheel s w x).excS = s.excS ∧ (setWheel s w x).fentC = s.fentC ∧ (setWheel s w x).fentS = s.fentS ∧
    (setWheel s w x).evroute = s.evroute ∧ (setWheel s w x).frames = s.frames ∧ (setWheel s w x).sails = s.sails ∧
    (setWheel s w x).tbs = s.tbs ∧ (setWheel s w x).leats = s.leats ∧ (setWheel s w x).tail = s.tail ∧
    (setWheel s w x).mp = s.mp ∧ (setWheel s w x).spareRam = s.spareRam ∧ (setWheel s w x).spare = s.spare ∧
    (setWheel s w x).mem = s.mem ∧ (setWheel s w x).retained = s.retained ∧ (setWheel s w x).twin = s.twin ∧
    (setWheel s w x).lanes = s.lanes ∧ (setWheel s w x).ring = s.ring ∧ (setWheel s w x).hopC = s.hopC ∧
    (setWheel s w x).hopS = s.hopS ∧ (setWheel s w x).fbs = s.fbs ∧ (setWheel s w x).emus = s.emus ∧
    (setWheel s w x).weirs = s.weirs ∧ (setWheel s w x).sluices = s.sluices ∧ (setWheel s w x).calibs = s.calibs ∧
    (setWheel s w x).readback = s.readback ∧ (setWheel s w x).rbRetry = s.rbRetry ∧ (setWheel s w x).rst = s.rst ∧
    (setWheel s w x).miller = s.miller ∧ (setWheel s w x).svc = s.svc ∧ (setWheel s w x).hpResp = s.hpResp ∧
    (setWheel s w x).dbgData = s.dbgData ∧ (setWheel s w x).sibs = s.sibs :=
  ⟨rfl, rfl, rfl, rfl, rfl, rfl, rfl, rfl, rfl, rfl, rfl, rfl, rfl, rfl, rfl, rfl, rfl, rfl, rfl, rfl, rfl, rfl, rfl,
   rfl, rfl, rfl, rfl, rfl, rfl, rfl, rfl, rfl, rfl, rfl, rfl, rfl, rfl, rfl, rfl, rfl, rfl, rfl, rfl, rfl, rfl, rfl,
   rfl, rfl, rfl⟩

@[simp] theorem setMill_fields (s : State) (m : Nat) (x : Mill) :
    (setMill s m x).pending = s.pending ∧ (setMill s m x).free = s.free ∧ (setMill s m x).order = s.order ∧
    (setMill s m x).ring_time = s.ring_time ∧ (setMill s m x).ringfrac = s.ringfrac ∧ (setMill s m x).fuse = s.fuse ∧
    (setMill s m x).fuseSh = s.fuseSh ∧ (setMill s m x).capsId = s.capsId ∧ (setMill s m x).capsUnits = s.capsUnits ∧
    (setMill s m x).standby = s.standby ∧ (setMill s m x).occupied = s.occupied ∧
    (setMill s m x).millcfgErr = s.millcfgErr ∧ (setMill s m x).mills = tset {} s.mills m x ∧
    (setMill s m x).wheels = s.wheels ∧ (setMill s m x).segC = s.segC ∧ (setMill s m x).segS = s.segS ∧
    (setMill s m x).excC = s.excC ∧ (setMill s m x).excS = s.excS ∧ (setMill s m x).fentC = s.fentC ∧
    (setMill s m x).fentS = s.fentS ∧ (setMill s m x).evroute = s.evroute ∧ (setMill s m x).frames = s.frames ∧
    (setMill s m x).sails = s.sails ∧ (setMill s m x).tbs = s.tbs ∧ (setMill s m x).leats = s.leats ∧
    (setMill s m x).tail = s.tail ∧ (setMill s m x).mp = s.mp ∧ (setMill s m x).spareRam = s.spareRam ∧
    (setMill s m x).spare = s.spare ∧ (setMill s m x).mem = s.mem ∧ (setMill s m x).retained = s.retained ∧
    (setMill s m x).twin = s.twin ∧ (setMill s m x).lanes = s.lanes ∧ (setMill s m x).ring = s.ring ∧
    (setMill s m x).hopC = s.hopC ∧ (setMill s m x).hopS = s.hopS ∧ (setMill s m x).fbs = s.fbs ∧
    (setMill s m x).emus = s.emus ∧ (setMill s m x).weirs = s.weirs ∧ (setMill s m x).sluices = s.sluices ∧
    (setMill s m x).calibs = s.calibs ∧ (setMill s m x).readback = s.readback ∧ (setMill s m x).rbRetry = s.rbRetry ∧
    (setMill s m x).rst = s.rst ∧ (setMill s m x).miller = s.miller ∧ (setMill s m x).svc = s.svc ∧
    (setMill s m x).hpResp = s.hpResp ∧ (setMill s m x).dbgData = s.dbgData ∧ (setMill s m x).sibs = s.sibs :=
  ⟨rfl, rfl, rfl, rfl, rfl, rfl, rfl, rfl, rfl, rfl, rfl, rfl, rfl, rfl, rfl, rfl, rfl, rfl, rfl, rfl, rfl, rfl, rfl,
   rfl, rfl, rfl, rfl, rfl, rfl, rfl, rfl, rfl, rfl, rfl, rfl, rfl, rfl, rfl, rfl, rfl, rfl, rfl, rfl, rfl, rfl, rfl,
   rfl, rfl, rfl⟩

@[simp] theorem setSail_fields (s : State) (n : Nat) (x : Sail) :
    (setSail s n x).pending = s.pending ∧ (setSail s n x).free = s.free ∧ (setSail s n x).order = s.order ∧
    (setSail s n x).ring_time = s.ring_time ∧ (setSail s n x).ringfrac = s.ringfrac ∧ (setSail s n x).fuse = s.fuse ∧
    (setSail s n x).fuseSh = s.fuseSh ∧ (setSail s n x).capsId = s.capsId ∧ (setSail s n x).capsUnits = s.capsUnits ∧
    (setSail s n x).standby = s.standby ∧ (setSail s n x).occupied = s.occupied ∧
    (setSail s n x).millcfgErr = s.millcfgErr ∧ (setSail s n x).mills = s.mills ∧ (setSail s n x).wheels = s.wheels ∧
    (setSail s n x).segC = s.segC ∧ (setSail s n x).segS = s.segS ∧ (setSail s n x).excC = s.excC ∧
    (setSail s n x).excS = s.excS ∧ (setSail s n x).fentC = s.fentC ∧ (setSail s n x).fentS = s.fentS ∧
    (setSail s n x).evroute = s.evroute ∧ (setSail s n x).frames = s.frames ∧
    (setSail s n x).sails = tset {} s.sails n x ∧ (setSail s n x).tbs = s.tbs ∧ (setSail s n x).leats = s.leats ∧
    (setSail s n x).tail = s.tail ∧ (setSail s n x).mp = s.mp ∧ (setSail s n x).spareRam = s.spareRam ∧
    (setSail s n x).spare = s.spare ∧ (setSail s n x).mem = s.mem ∧ (setSail s n x).retained = s.retained ∧
    (setSail s n x).twin = s.twin ∧ (setSail s n x).lanes = s.lanes ∧ (setSail s n x).ring = s.ring ∧
    (setSail s n x).hopC = s.hopC ∧ (setSail s n x).hopS = s.hopS ∧ (setSail s n x).fbs = s.fbs ∧
    (setSail s n x).emus = s.emus ∧ (setSail s n x).weirs = s.weirs ∧ (setSail s n x).sluices = s.sluices ∧
    (setSail s n x).calibs = s.calibs ∧ (setSail s n x).readback = s.readback ∧ (setSail s n x).rbRetry = s.rbRetry ∧
    (setSail s n x).rst = s.rst ∧ (setSail s n x).miller = s.miller ∧ (setSail s n x).svc = s.svc ∧
    (setSail s n x).hpResp = s.hpResp ∧ (setSail s n x).dbgData = s.dbgData ∧ (setSail s n x).sibs = s.sibs :=
  ⟨rfl, rfl, rfl, rfl, rfl, rfl, rfl, rfl, rfl, rfl, rfl, rfl, rfl, rfl, rfl, rfl, rfl, rfl, rfl, rfl, rfl, rfl, rfl,
   rfl, rfl, rfl, rfl, rfl, rfl, rfl, rfl, rfl, rfl, rfl, rfl, rfl, rfl, rfl, rfl, rfl, rfl, rfl, rfl, rfl, rfl, rfl,
   rfl, rfl, rfl⟩

@[simp] theorem modTb_fields (s : State) (n : Nat) (f : Timebase → Timebase) :
    (modTb s n f).pending = s.pending ∧ (modTb s n f).free = s.free ∧ (modTb s n f).order = s.order ∧
    (modTb s n f).ring_time = s.ring_time ∧ (modTb s n f).ringfrac = s.ringfrac ∧ (modTb s n f).fuse = s.fuse ∧
    (modTb s n f).fuseSh = s.fuseSh ∧ (modTb s n f).capsId = s.capsId ∧ (modTb s n f).capsUnits = s.capsUnits ∧
    (modTb s n f).standby = s.standby ∧ (modTb s n f).occupied = s.occupied ∧
    (modTb s n f).millcfgErr = s.millcfgErr ∧ (modTb s n f).mills = s.mills ∧ (modTb s n f).wheels = s.wheels ∧
    (modTb s n f).segC = s.segC ∧ (modTb s n f).segS = s.segS ∧ (modTb s n f).excC = s.excC ∧
    (modTb s n f).excS = s.excS ∧ (modTb s n f).fentC = s.fentC ∧ (modTb s n f).fentS = s.fentS ∧
    (modTb s n f).evroute = s.evroute ∧ (modTb s n f).frames = s.frames ∧ (modTb s n f).sails = s.sails ∧
    (modTb s n f).tbs = tset {} s.tbs n (f (getTb s n)) ∧ (modTb s n f).leats = s.leats ∧
    (modTb s n f).tail = s.tail ∧ (modTb s n f).mp = s.mp ∧ (modTb s n f).spareRam = s.spareRam ∧
    (modTb s n f).spare = s.spare ∧ (modTb s n f).mem = s.mem ∧ (modTb s n f).retained = s.retained ∧
    (modTb s n f).twin = s.twin ∧ (modTb s n f).lanes = s.lanes ∧ (modTb s n f).ring = s.ring ∧
    (modTb s n f).hopC = s.hopC ∧ (modTb s n f).hopS = s.hopS ∧ (modTb s n f).fbs = s.fbs ∧
    (modTb s n f).emus = s.emus ∧ (modTb s n f).weirs = s.weirs ∧ (modTb s n f).sluices = s.sluices ∧
    (modTb s n f).calibs = s.calibs ∧ (modTb s n f).readback = s.readback ∧ (modTb s n f).rbRetry = s.rbRetry ∧
    (modTb s n f).rst = s.rst ∧ (modTb s n f).miller = s.miller ∧ (modTb s n f).svc = s.svc ∧
    (modTb s n f).hpResp = s.hpResp ∧ (modTb s n f).dbgData = s.dbgData ∧ (modTb s n f).sibs = s.sibs :=
  ⟨rfl, rfl, rfl, rfl, rfl, rfl, rfl, rfl, rfl, rfl, rfl, rfl, rfl, rfl, rfl, rfl, rfl, rfl, rfl, rfl, rfl, rfl, rfl,
   rfl, rfl, rfl, rfl, rfl, rfl, rfl, rfl, rfl, rfl, rfl, rfl, rfl, rfl, rfl, rfl, rfl, rfl, rfl, rfl, rfl, rfl, rfl,
   rfl, rfl, rfl⟩

@[simp] theorem modLeat_fields (s : State) (n : Nat) (f : Leat → Leat) :
    (modLeat s n f).pending = s.pending ∧ (modLeat s n f).free = s.free ∧ (modLeat s n f).order = s.order ∧
    (modLeat s n f).ring_time = s.ring_time ∧ (modLeat s n f).ringfrac = s.ringfrac ∧ (modLeat s n f).fuse = s.fuse ∧
    (modLeat s n f).fuseSh = s.fuseSh ∧ (modLeat s n f).capsId = s.capsId ∧ (modLeat s n f).capsUnits = s.capsUnits ∧
    (modLeat s n f).standby = s.standby ∧ (modLeat s n f).occupied = s.occupied ∧
    (modLeat s n f).millcfgErr = s.millcfgErr ∧ (modLeat s n f).mills = s.mills ∧ (modLeat s n f).wheels = s.wheels ∧
    (modLeat s n f).segC = s.segC ∧ (modLeat s n f).segS = s.segS ∧ (modLeat s n f).excC = s.excC ∧
    (modLeat s n f).excS = s.excS ∧ (modLeat s n f).fentC = s.fentC ∧ (modLeat s n f).fentS = s.fentS ∧
    (modLeat s n f).evroute = s.evroute ∧ (modLeat s n f).frames = s.frames ∧ (modLeat s n f).sails = s.sails ∧
    (modLeat s n f).tbs = s.tbs ∧ (modLeat s n f).leats = tset {} s.leats n (f (getLeat s n)) ∧
    (modLeat s n f).tail = s.tail ∧ (modLeat s n f).mp = s.mp ∧ (modLeat s n f).spareRam = s.spareRam ∧
    (modLeat s n f).spare = s.spare ∧ (modLeat s n f).mem = s.mem ∧ (modLeat s n f).retained = s.retained ∧
    (modLeat s n f).twin = s.twin ∧ (modLeat s n f).lanes = s.lanes ∧ (modLeat s n f).ring = s.ring ∧
    (modLeat s n f).hopC = s.hopC ∧ (modLeat s n f).hopS = s.hopS ∧ (modLeat s n f).fbs = s.fbs ∧
    (modLeat s n f).emus = s.emus ∧ (modLeat s n f).weirs = s.weirs ∧ (modLeat s n f).sluices = s.sluices ∧
    (modLeat s n f).calibs = s.calibs ∧ (modLeat s n f).readback = s.readback ∧ (modLeat s n f).rbRetry = s.rbRetry ∧
    (modLeat s n f).rst = s.rst ∧ (modLeat s n f).miller = s.miller ∧ (modLeat s n f).svc = s.svc ∧
    (modLeat s n f).hpResp = s.hpResp ∧ (modLeat s n f).dbgData = s.dbgData ∧ (modLeat s n f).sibs = s.sibs :=
  ⟨rfl, rfl, rfl, rfl, rfl, rfl, rfl, rfl, rfl, rfl, rfl, rfl, rfl, rfl, rfl, rfl, rfl, rfl, rfl, rfl, rfl, rfl, rfl,
   rfl, rfl, rfl, rfl, rfl, rfl, rfl, rfl, rfl, rfl, rfl, rfl, rfl, rfl, rfl, rfl, rfl, rfl, rfl, rfl, rfl, rfl, rfl,
   rfl, rfl, rfl⟩

@[simp] theorem modLane_fields (s : State) (n : Nat) (f : Lane → Lane) :
    (modLane s n f).pending = s.pending ∧ (modLane s n f).free = s.free ∧ (modLane s n f).order = s.order ∧
    (modLane s n f).ring_time = s.ring_time ∧ (modLane s n f).ringfrac = s.ringfrac ∧ (modLane s n f).fuse = s.fuse ∧
    (modLane s n f).fuseSh = s.fuseSh ∧ (modLane s n f).capsId = s.capsId ∧ (modLane s n f).capsUnits = s.capsUnits ∧
    (modLane s n f).standby = s.standby ∧ (modLane s n f).occupied = s.occupied ∧
    (modLane s n f).millcfgErr = s.millcfgErr ∧ (modLane s n f).mills = s.mills ∧ (modLane s n f).wheels = s.wheels ∧
    (modLane s n f).segC = s.segC ∧ (modLane s n f).segS = s.segS ∧ (modLane s n f).excC = s.excC ∧
    (modLane s n f).excS = s.excS ∧ (modLane s n f).fentC = s.fentC ∧ (modLane s n f).fentS = s.fentS ∧
    (modLane s n f).evroute = s.evroute ∧ (modLane s n f).frames = s.frames ∧ (modLane s n f).sails = s.sails ∧
    (modLane s n f).tbs = s.tbs ∧ (modLane s n f).leats = s.leats ∧ (modLane s n f).tail = s.tail ∧
    (modLane s n f).mp = s.mp ∧ (modLane s n f).spareRam = s.spareRam ∧ (modLane s n f).spare = s.spare ∧
    (modLane s n f).mem = s.mem ∧ (modLane s n f).retained = s.retained ∧ (modLane s n f).twin = s.twin ∧
    (modLane s n f).lanes = tset {} s.lanes n (f (getLane s n)) ∧ (modLane s n f).ring = s.ring ∧
    (modLane s n f).hopC = s.hopC ∧ (modLane s n f).hopS = s.hopS ∧ (modLane s n f).fbs = s.fbs ∧
    (modLane s n f).emus = s.emus ∧ (modLane s n f).weirs = s.weirs ∧ (modLane s n f).sluices = s.sluices ∧
    (modLane s n f).calibs = s.calibs ∧ (modLane s n f).readback = s.readback ∧ (modLane s n f).rbRetry = s.rbRetry ∧
    (modLane s n f).rst = s.rst ∧ (modLane s n f).miller = s.miller ∧ (modLane s n f).svc = s.svc ∧
    (modLane s n f).hpResp = s.hpResp ∧ (modLane s n f).dbgData = s.dbgData ∧ (modLane s n f).sibs = s.sibs :=
  ⟨rfl, rfl, rfl, rfl, rfl, rfl, rfl, rfl, rfl, rfl, rfl, rfl, rfl, rfl, rfl, rfl, rfl, rfl, rfl, rfl, rfl, rfl, rfl,
   rfl, rfl, rfl, rfl, rfl, rfl, rfl, rfl, rfl, rfl, rfl, rfl, rfl, rfl, rfl, rfl, rfl, rfl, rfl, rfl, rfl, rfl, rfl,
   rfl, rfl, rfl⟩

@[simp] theorem modRing_fields (s : State) (f : Ring → Ring) :
    (modRing s f).pending = s.pending ∧ (modRing s f).free = s.free ∧ (modRing s f).order = s.order ∧
    (modRing s f).ring_time = s.ring_time ∧ (modRing s f).ringfrac = s.ringfrac ∧ (modRing s f).fuse = s.fuse ∧
    (modRing s f).fuseSh = s.fuseSh ∧ (modRing s f).capsId = s.capsId ∧ (modRing s f).capsUnits = s.capsUnits ∧
    (modRing s f).standby = s.standby ∧ (modRing s f).occupied = s.occupied ∧
    (modRing s f).millcfgErr = s.millcfgErr ∧ (modRing s f).mills = s.mills ∧ (modRing s f).wheels = s.wheels ∧
    (modRing s f).segC = s.segC ∧ (modRing s f).segS = s.segS ∧ (modRing s f).excC = s.excC ∧
    (modRing s f).excS = s.excS ∧ (modRing s f).fentC = s.fentC ∧ (modRing s f).fentS = s.fentS ∧
    (modRing s f).evroute = s.evroute ∧ (modRing s f).frames = s.frames ∧ (modRing s f).sails = s.sails ∧
    (modRing s f).tbs = s.tbs ∧ (modRing s f).leats = s.leats ∧ (modRing s f).tail = s.tail ∧
    (modRing s f).mp = s.mp ∧ (modRing s f).spareRam = s.spareRam ∧ (modRing s f).spare = s.spare ∧
    (modRing s f).mem = s.mem ∧ (modRing s f).retained = s.retained ∧ (modRing s f).twin = s.twin ∧
    (modRing s f).lanes = s.lanes ∧ (modRing s f).ring = f s.ring ∧ (modRing s f).hopC = s.hopC ∧
    (modRing s f).hopS = s.hopS ∧ (modRing s f).fbs = s.fbs ∧ (modRing s f).emus = s.emus ∧
    (modRing s f).weirs = s.weirs ∧ (modRing s f).sluices = s.sluices ∧ (modRing s f).calibs = s.calibs ∧
    (modRing s f).readback = s.readback ∧ (modRing s f).rbRetry = s.rbRetry ∧ (modRing s f).rst = s.rst ∧
    (modRing s f).miller = s.miller ∧ (modRing s f).svc = s.svc ∧ (modRing s f).hpResp = s.hpResp ∧
    (modRing s f).dbgData = s.dbgData ∧ (modRing s f).sibs = s.sibs :=
  ⟨rfl, rfl, rfl, rfl, rfl, rfl, rfl, rfl, rfl, rfl, rfl, rfl, rfl, rfl, rfl, rfl, rfl, rfl, rfl, rfl, rfl, rfl, rfl,
   rfl, rfl, rfl, rfl, rfl, rfl, rfl, rfl, rfl, rfl, rfl, rfl, rfl, rfl, rfl, rfl, rfl, rfl, rfl, rfl, rfl, rfl, rfl,
   rfl, rfl, rfl⟩

@[simp] theorem modTwin_fields (s : State) (f : Twin → Twin) :
    (modTwin s f).pending = s.pending ∧ (modTwin s f).free = s.free ∧ (modTwin s f).order = s.order ∧
    (modTwin s f).ring_time = s.ring_time ∧ (modTwin s f).ringfrac = s.ringfrac ∧ (modTwin s f).fuse = s.fuse ∧
    (modTwin s f).fuseSh = s.fuseSh ∧ (modTwin s f).capsId = s.capsId ∧ (modTwin s f).capsUnits = s.capsUnits ∧
    (modTwin s f).standby = s.standby ∧ (modTwin s f).occupied = s.occupied ∧
    (modTwin s f).millcfgErr = s.millcfgErr ∧ (modTwin s f).mills = s.mills ∧ (modTwin s f).wheels = s.wheels ∧
    (modTwin s f).segC = s.segC ∧ (modTwin s f).segS = s.segS ∧ (modTwin s f).excC = s.excC ∧
    (modTwin s f).excS = s.excS ∧ (modTwin s f).fentC = s.fentC ∧ (modTwin s f).fentS = s.fentS ∧
    (modTwin s f).evroute = s.evroute ∧ (modTwin s f).frames = s.frames ∧ (modTwin s f).sails = s.sails ∧
    (modTwin s f).tbs = s.tbs ∧ (modTwin s f).leats = s.leats ∧ (modTwin s f).tail = s.tail ∧
    (modTwin s f).mp = s.mp ∧ (modTwin s f).spareRam = s.spareRam ∧ (modTwin s f).spare = s.spare ∧
    (modTwin s f).mem = s.mem ∧ (modTwin s f).retained = s.retained ∧ (modTwin s f).twin = f s.twin ∧
    (modTwin s f).lanes = s.lanes ∧ (modTwin s f).ring = s.ring ∧ (modTwin s f).hopC = s.hopC ∧
    (modTwin s f).hopS = s.hopS ∧ (modTwin s f).fbs = s.fbs ∧ (modTwin s f).emus = s.emus ∧
    (modTwin s f).weirs = s.weirs ∧ (modTwin s f).sluices = s.sluices ∧ (modTwin s f).calibs = s.calibs ∧
    (modTwin s f).readback = s.readback ∧ (modTwin s f).rbRetry = s.rbRetry ∧ (modTwin s f).rst = s.rst ∧
    (modTwin s f).miller = s.miller ∧ (modTwin s f).svc = s.svc ∧ (modTwin s f).hpResp = s.hpResp ∧
    (modTwin s f).dbgData = s.dbgData ∧ (modTwin s f).sibs = s.sibs :=
  ⟨rfl, rfl, rfl, rfl, rfl, rfl, rfl, rfl, rfl, rfl, rfl, rfl, rfl, rfl, rfl, rfl, rfl, rfl, rfl, rfl, rfl, rfl, rfl,
   rfl, rfl, rfl, rfl, rfl, rfl, rfl, rfl, rfl, rfl, rfl, rfl, rfl, rfl, rfl, rfl, rfl, rfl, rfl, rfl, rfl, rfl, rfl,
   rfl, rfl, rfl⟩

@[simp] theorem modFb_fields (s : State) (n : Nat) (f : Fb → Fb) :
    (modFb s n f).pending = s.pending ∧ (modFb s n f).free = s.free ∧ (modFb s n f).order = s.order ∧
    (modFb s n f).ring_time = s.ring_time ∧ (modFb s n f).ringfrac = s.ringfrac ∧ (modFb s n f).fuse = s.fuse ∧
    (modFb s n f).fuseSh = s.fuseSh ∧ (modFb s n f).capsId = s.capsId ∧ (modFb s n f).capsUnits = s.capsUnits ∧
    (modFb s n f).standby = s.standby ∧ (modFb s n f).occupied = s.occupied ∧
    (modFb s n f).millcfgErr = s.millcfgErr ∧ (modFb s n f).mills = s.mills ∧ (modFb s n f).wheels = s.wheels ∧
    (modFb s n f).segC = s.segC ∧ (modFb s n f).segS = s.segS ∧ (modFb s n f).excC = s.excC ∧
    (modFb s n f).excS = s.excS ∧ (modFb s n f).fentC = s.fentC ∧ (modFb s n f).fentS = s.fentS ∧
    (modFb s n f).evroute = s.evroute ∧ (modFb s n f).frames = s.frames ∧ (modFb s n f).sails = s.sails ∧
    (modFb s n f).tbs = s.tbs ∧ (modFb s n f).leats = s.leats ∧ (modFb s n f).tail = s.tail ∧
    (modFb s n f).mp = s.mp ∧ (modFb s n f).spareRam = s.spareRam ∧ (modFb s n f).spare = s.spare ∧
    (modFb s n f).mem = s.mem ∧ (modFb s n f).retained = s.retained ∧ (modFb s n f).twin = s.twin ∧
    (modFb s n f).lanes = s.lanes ∧ (modFb s n f).ring = s.ring ∧ (modFb s n f).hopC = s.hopC ∧
    (modFb s n f).hopS = s.hopS ∧ (modFb s n f).fbs = tset {} s.fbs n (f (getFb s n)) ∧ (modFb s n f).emus = s.emus ∧
    (modFb s n f).weirs = s.weirs ∧ (modFb s n f).sluices = s.sluices ∧ (modFb s n f).calibs = s.calibs ∧
    (modFb s n f).readback = s.readback ∧ (modFb s n f).rbRetry = s.rbRetry ∧ (modFb s n f).rst = s.rst ∧
    (modFb s n f).miller = s.miller ∧ (modFb s n f).svc = s.svc ∧ (modFb s n f).hpResp = s.hpResp ∧
    (modFb s n f).dbgData = s.dbgData ∧ (modFb s n f).sibs = s.sibs :=
  ⟨rfl, rfl, rfl, rfl, rfl, rfl, rfl, rfl, rfl, rfl, rfl, rfl, rfl, rfl, rfl, rfl, rfl, rfl, rfl, rfl, rfl, rfl, rfl,
   rfl, rfl, rfl, rfl, rfl, rfl, rfl, rfl, rfl, rfl, rfl, rfl, rfl, rfl, rfl, rfl, rfl, rfl, rfl, rfl, rfl, rfl, rfl,
   rfl, rfl, rfl⟩

@[simp] theorem modEmu_fields (s : State) (n : Nat) (f : Emu → Emu) :
    (modEmu s n f).pending = s.pending ∧ (modEmu s n f).free = s.free ∧ (modEmu s n f).order = s.order ∧
    (modEmu s n f).ring_time = s.ring_time ∧ (modEmu s n f).ringfrac = s.ringfrac ∧ (modEmu s n f).fuse = s.fuse ∧
    (modEmu s n f).fuseSh = s.fuseSh ∧ (modEmu s n f).capsId = s.capsId ∧ (modEmu s n f).capsUnits = s.capsUnits ∧
    (modEmu s n f).standby = s.standby ∧ (modEmu s n f).occupied = s.occupied ∧
    (modEmu s n f).millcfgErr = s.millcfgErr ∧ (modEmu s n f).mills = s.mills ∧ (modEmu s n f).wheels = s.wheels ∧
    (modEmu s n f).segC = s.segC ∧ (modEmu s n f).segS = s.segS ∧ (modEmu s n f).excC = s.excC ∧
    (modEmu s n f).excS = s.excS ∧ (modEmu s n f).fentC = s.fentC ∧ (modEmu s n f).fentS = s.fentS ∧
    (modEmu s n f).evroute = s.evroute ∧ (modEmu s n f).frames = s.frames ∧ (modEmu s n f).sails = s.sails ∧
    (modEmu s n f).tbs = s.tbs ∧ (modEmu s n f).leats = s.leats ∧ (modEmu s n f).tail = s.tail ∧
    (modEmu s n f).mp = s.mp ∧ (modEmu s n f).spareRam = s.spareRam ∧ (modEmu s n f).spare = s.spare ∧
    (modEmu s n f).mem = s.mem ∧ (modEmu s n f).retained = s.retained ∧ (modEmu s n f).twin = s.twin ∧
    (modEmu s n f).lanes = s.lanes ∧ (modEmu s n f).ring = s.ring ∧ (modEmu s n f).hopC = s.hopC ∧
    (modEmu s n f).hopS = s.hopS ∧ (modEmu s n f).fbs = s.fbs ∧
    (modEmu s n f).emus = tset {} s.emus n (f (getEmu s n)) ∧ (modEmu s n f).weirs = s.weirs ∧
    (modEmu s n f).sluices = s.sluices ∧ (modEmu s n f).calibs = s.calibs ∧ (modEmu s n f).readback = s.readback ∧
    (modEmu s n f).rbRetry = s.rbRetry ∧ (modEmu s n f).rst = s.rst ∧ (modEmu s n f).miller = s.miller ∧
    (modEmu s n f).svc = s.svc ∧ (modEmu s n f).hpResp = s.hpResp ∧ (modEmu s n f).dbgData = s.dbgData ∧
    (modEmu s n f).sibs = s.sibs :=
  ⟨rfl, rfl, rfl, rfl, rfl, rfl, rfl, rfl, rfl, rfl, rfl, rfl, rfl, rfl, rfl, rfl, rfl, rfl, rfl, rfl, rfl, rfl, rfl,
   rfl, rfl, rfl, rfl, rfl, rfl, rfl, rfl, rfl, rfl, rfl, rfl, rfl, rfl, rfl, rfl, rfl, rfl, rfl, rfl, rfl, rfl, rfl,
   rfl, rfl, rfl⟩

@[simp] theorem modWeir_fields (s : State) (n : Nat) (f : Weir → Weir) :
    (modWeir s n f).pending = s.pending ∧ (modWeir s n f).free = s.free ∧ (modWeir s n f).order = s.order ∧
    (modWeir s n f).ring_time = s.ring_time ∧ (modWeir s n f).ringfrac = s.ringfrac ∧ (modWeir s n f).fuse = s.fuse ∧
    (modWeir s n f).fuseSh = s.fuseSh ∧ (modWeir s n f).capsId = s.capsId ∧ (modWeir s n f).capsUnits = s.capsUnits ∧
    (modWeir s n f).standby = s.standby ∧ (modWeir s n f).occupied = s.occupied ∧
    (modWeir s n f).millcfgErr = s.millcfgErr ∧ (modWeir s n f).mills = s.mills ∧ (modWeir s n f).wheels = s.wheels ∧
    (modWeir s n f).segC = s.segC ∧ (modWeir s n f).segS = s.segS ∧ (modWeir s n f).excC = s.excC ∧
    (modWeir s n f).excS = s.excS ∧ (modWeir s n f).fentC = s.fentC ∧ (modWeir s n f).fentS = s.fentS ∧
    (modWeir s n f).evroute = s.evroute ∧ (modWeir s n f).frames = s.frames ∧ (modWeir s n f).sails = s.sails ∧
    (modWeir s n f).tbs = s.tbs ∧ (modWeir s n f).leats = s.leats ∧ (modWeir s n f).tail = s.tail ∧
    (modWeir s n f).mp = s.mp ∧ (modWeir s n f).spareRam = s.spareRam ∧ (modWeir s n f).spare = s.spare ∧
    (modWeir s n f).mem = s.mem ∧ (modWeir s n f).retained = s.retained ∧ (modWeir s n f).twin = s.twin ∧
    (modWeir s n f).lanes = s.lanes ∧ (modWeir s n f).ring = s.ring ∧ (modWeir s n f).hopC = s.hopC ∧
    (modWeir s n f).hopS = s.hopS ∧ (modWeir s n f).fbs = s.fbs ∧ (modWeir s n f).emus = s.emus ∧
    (modWeir s n f).weirs = tset {} s.weirs n (f (getWeir s n)) ∧ (modWeir s n f).sluices = s.sluices ∧
    (modWeir s n f).calibs = s.calibs ∧ (modWeir s n f).readback = s.readback ∧ (modWeir s n f).rbRetry = s.rbRetry ∧
    (modWeir s n f).rst = s.rst ∧ (modWeir s n f).miller = s.miller ∧ (modWeir s n f).svc = s.svc ∧
    (modWeir s n f).hpResp = s.hpResp ∧ (modWeir s n f).dbgData = s.dbgData ∧ (modWeir s n f).sibs = s.sibs :=
  ⟨rfl, rfl, rfl, rfl, rfl, rfl, rfl, rfl, rfl, rfl, rfl, rfl, rfl, rfl, rfl, rfl, rfl, rfl, rfl, rfl, rfl, rfl, rfl,
   rfl, rfl, rfl, rfl, rfl, rfl, rfl, rfl, rfl, rfl, rfl, rfl, rfl, rfl, rfl, rfl, rfl, rfl, rfl, rfl, rfl, rfl, rfl,
   rfl, rfl, rfl⟩

@[simp] theorem modSluice_fields (s : State) (n : Nat) (f : Sluice → Sluice) :
    (modSluice s n f).pending = s.pending ∧ (modSluice s n f).free = s.free ∧ (modSluice s n f).order = s.order ∧
    (modSluice s n f).ring_time = s.ring_time ∧ (modSluice s n f).ringfrac = s.ringfrac ∧
    (modSluice s n f).fuse = s.fuse ∧ (modSluice s n f).fuseSh = s.fuseSh ∧ (modSluice s n f).capsId = s.capsId ∧
    (modSluice s n f).capsUnits = s.capsUnits ∧ (modSluice s n f).standby = s.standby ∧
    (modSluice s n f).occupied = s.occupied ∧ (modSluice s n f).millcfgErr = s.millcfgErr ∧
    (modSluice s n f).mills = s.mills ∧ (modSluice s n f).wheels = s.wheels ∧ (modSluice s n f).segC = s.segC ∧
    (modSluice s n f).segS = s.segS ∧ (modSluice s n f).excC = s.excC ∧ (modSluice s n f).excS = s.excS ∧
    (modSluice s n f).fentC = s.fentC ∧ (modSluice s n f).fentS = s.fentS ∧ (modSluice s n f).evroute = s.evroute ∧
    (modSluice s n f).frames = s.frames ∧ (modSluice s n f).sails = s.sails ∧ (modSluice s n f).tbs = s.tbs ∧
    (modSluice s n f).leats = s.leats ∧ (modSluice s n f).tail = s.tail ∧ (modSluice s n f).mp = s.mp ∧
    (modSluice s n f).spareRam = s.spareRam ∧ (modSluice s n f).spare = s.spare ∧ (modSluice s n f).mem = s.mem ∧
    (modSluice s n f).retained = s.retained ∧ (modSluice s n f).twin = s.twin ∧ (modSluice s n f).lanes = s.lanes ∧
    (modSluice s n f).ring = s.ring ∧ (modSluice s n f).hopC = s.hopC ∧ (modSluice s n f).hopS = s.hopS ∧
    (modSluice s n f).fbs = s.fbs ∧ (modSluice s n f).emus = s.emus ∧ (modSluice s n f).weirs = s.weirs ∧
    (modSluice s n f).sluices = tset {} s.sluices n (f (getSluice s n)) ∧ (modSluice s n f).calibs = s.calibs ∧
    (modSluice s n f).readback = s.readback ∧ (modSluice s n f).rbRetry = s.rbRetry ∧ (modSluice s n f).rst = s.rst ∧
    (modSluice s n f).miller = s.miller ∧ (modSluice s n f).svc = s.svc ∧ (modSluice s n f).hpResp = s.hpResp ∧
    (modSluice s n f).dbgData = s.dbgData ∧ (modSluice s n f).sibs = s.sibs :=
  ⟨rfl, rfl, rfl, rfl, rfl, rfl, rfl, rfl, rfl, rfl, rfl, rfl, rfl, rfl, rfl, rfl, rfl, rfl, rfl, rfl, rfl, rfl, rfl,
   rfl, rfl, rfl, rfl, rfl, rfl, rfl, rfl, rfl, rfl, rfl, rfl, rfl, rfl, rfl, rfl, rfl, rfl, rfl, rfl, rfl, rfl, rfl,
   rfl, rfl, rfl⟩

@[simp] theorem modRst_fields (s : State) (f : ResetSt → ResetSt) :
    (modRst s f).pending = s.pending ∧ (modRst s f).free = s.free ∧ (modRst s f).order = s.order ∧
    (modRst s f).ring_time = s.ring_time ∧ (modRst s f).ringfrac = s.ringfrac ∧ (modRst s f).fuse = s.fuse ∧
    (modRst s f).fuseSh = s.fuseSh ∧ (modRst s f).capsId = s.capsId ∧ (modRst s f).capsUnits = s.capsUnits ∧
    (modRst s f).standby = s.standby ∧ (modRst s f).occupied = s.occupied ∧ (modRst s f).millcfgErr = s.millcfgErr ∧
    (modRst s f).mills = s.mills ∧ (modRst s f).wheels = s.wheels ∧ (modRst s f).segC = s.segC ∧
    (modRst s f).segS = s.segS ∧ (modRst s f).excC = s.excC ∧ (modRst s f).excS = s.excS ∧
    (modRst s f).fentC = s.fentC ∧ (modRst s f).fentS = s.fentS ∧ (modRst s f).evroute = s.evroute ∧
    (modRst s f).frames = s.frames ∧ (modRst s f).sails = s.sails ∧ (modRst s f).tbs = s.tbs ∧
    (modRst s f).leats = s.leats ∧ (modRst s f).tail = s.tail ∧ (modRst s f).mp = s.mp ∧
    (modRst s f).spareRam = s.spareRam ∧ (modRst s f).spare = s.spare ∧ (modRst s f).mem = s.mem ∧
    (modRst s f).retained = s.retained ∧ (modRst s f).twin = s.twin ∧ (modRst s f).lanes = s.lanes ∧
    (modRst s f).ring = s.ring ∧ (modRst s f).hopC = s.hopC ∧ (modRst s f).hopS = s.hopS ∧ (modRst s f).fbs = s.fbs ∧
    (modRst s f).emus = s.emus ∧ (modRst s f).weirs = s.weirs ∧ (modRst s f).sluices = s.sluices ∧
    (modRst s f).calibs = s.calibs ∧ (modRst s f).readback = s.readback ∧ (modRst s f).rbRetry = s.rbRetry ∧
    (modRst s f).rst = f s.rst ∧ (modRst s f).miller = s.miller ∧ (modRst s f).svc = s.svc ∧
    (modRst s f).hpResp = s.hpResp ∧ (modRst s f).dbgData = s.dbgData ∧ (modRst s f).sibs = s.sibs :=
  ⟨rfl, rfl, rfl, rfl, rfl, rfl, rfl, rfl, rfl, rfl, rfl, rfl, rfl, rfl, rfl, rfl, rfl, rfl, rfl, rfl, rfl, rfl, rfl,
   rfl, rfl, rfl, rfl, rfl, rfl, rfl, rfl, rfl, rfl, rfl, rfl, rfl, rfl, rfl, rfl, rfl, rfl, rfl, rfl, rfl, rfl, rfl,
   rfl, rfl, rfl⟩

@[simp] theorem modMiller_fields (s : State) (f : Miller → Miller) :
    (modMiller s f).pending = s.pending ∧ (modMiller s f).free = s.free ∧ (modMiller s f).order = s.order ∧
    (modMiller s f).ring_time = s.ring_time ∧ (modMiller s f).ringfrac = s.ringfrac ∧ (modMiller s f).fuse = s.fuse ∧
    (modMiller s f).fuseSh = s.fuseSh ∧ (modMiller s f).capsId = s.capsId ∧ (modMiller s f).capsUnits = s.capsUnits ∧
    (modMiller s f).standby = s.standby ∧ (modMiller s f).occupied = s.occupied ∧
    (modMiller s f).millcfgErr = s.millcfgErr ∧ (modMiller s f).mills = s.mills ∧ (modMiller s f).wheels = s.wheels ∧
    (modMiller s f).segC = s.segC ∧ (modMiller s f).segS = s.segS ∧ (modMiller s f).excC = s.excC ∧
    (modMiller s f).excS = s.excS ∧ (modMiller s f).fentC = s.fentC ∧ (modMiller s f).fentS = s.fentS ∧
    (modMiller s f).evroute = s.evroute ∧ (modMiller s f).frames = s.frames ∧ (modMiller s f).sails = s.sails ∧
    (modMiller s f).tbs = s.tbs ∧ (modMiller s f).leats = s.leats ∧ (modMiller s f).tail = s.tail ∧
    (modMiller s f).mp = s.mp ∧ (modMiller s f).spareRam = s.spareRam ∧ (modMiller s f).spare = s.spare ∧
    (modMiller s f).mem = s.mem ∧ (modMiller s f).retained = s.retained ∧ (modMiller s f).twin = s.twin ∧
    (modMiller s f).lanes = s.lanes ∧ (modMiller s f).ring = s.ring ∧ (modMiller s f).hopC = s.hopC ∧
    (modMiller s f).hopS = s.hopS ∧ (modMiller s f).fbs = s.fbs ∧ (modMiller s f).emus = s.emus ∧
    (modMiller s f).weirs = s.weirs ∧ (modMiller s f).sluices = s.sluices ∧ (modMiller s f).calibs = s.calibs ∧
    (modMiller s f).readback = s.readback ∧ (modMiller s f).rbRetry = s.rbRetry ∧ (modMiller s f).rst = s.rst ∧
    (modMiller s f).miller = f s.miller ∧ (modMiller s f).svc = s.svc ∧ (modMiller s f).hpResp = s.hpResp ∧
    (modMiller s f).dbgData = s.dbgData ∧ (modMiller s f).sibs = s.sibs :=
  ⟨rfl, rfl, rfl, rfl, rfl, rfl, rfl, rfl, rfl, rfl, rfl, rfl, rfl, rfl, rfl, rfl, rfl, rfl, rfl, rfl, rfl, rfl, rfl,
   rfl, rfl, rfl, rfl, rfl, rfl, rfl, rfl, rfl, rfl, rfl, rfl, rfl, rfl, rfl, rfl, rfl, rfl, rfl, rfl, rfl, rfl, rfl,
   rfl, rfl, rfl⟩

@[simp] theorem modMemR_fields (s : State) (f : MemRegs → MemRegs) :
    (modMemR s f).pending = s.pending ∧ (modMemR s f).free = s.free ∧ (modMemR s f).order = s.order ∧
    (modMemR s f).ring_time = s.ring_time ∧ (modMemR s f).ringfrac = s.ringfrac ∧ (modMemR s f).fuse = s.fuse ∧
    (modMemR s f).fuseSh = s.fuseSh ∧ (modMemR s f).capsId = s.capsId ∧ (modMemR s f).capsUnits = s.capsUnits ∧
    (modMemR s f).standby = s.standby ∧ (modMemR s f).occupied = s.occupied ∧
    (modMemR s f).millcfgErr = s.millcfgErr ∧ (modMemR s f).mills = s.mills ∧ (modMemR s f).wheels = s.wheels ∧
    (modMemR s f).segC = s.segC ∧ (modMemR s f).segS = s.segS ∧ (modMemR s f).excC = s.excC ∧
    (modMemR s f).excS = s.excS ∧ (modMemR s f).fentC = s.fentC ∧ (modMemR s f).fentS = s.fentS ∧
    (modMemR s f).evroute = s.evroute ∧ (modMemR s f).frames = s.frames ∧ (modMemR s f).sails = s.sails ∧
    (modMemR s f).tbs = s.tbs ∧ (modMemR s f).leats = s.leats ∧ (modMemR s f).tail = s.tail ∧
    (modMemR s f).mp = s.mp ∧ (modMemR s f).spareRam = s.spareRam ∧ (modMemR s f).spare = s.spare ∧
    (modMemR s f).mem = f s.mem ∧ (modMemR s f).retained = s.retained ∧ (modMemR s f).twin = s.twin ∧
    (modMemR s f).lanes = s.lanes ∧ (modMemR s f).ring = s.ring ∧ (modMemR s f).hopC = s.hopC ∧
    (modMemR s f).hopS = s.hopS ∧ (modMemR s f).fbs = s.fbs ∧ (modMemR s f).emus = s.emus ∧
    (modMemR s f).weirs = s.weirs ∧ (modMemR s f).sluices = s.sluices ∧ (modMemR s f).calibs = s.calibs ∧
    (modMemR s f).readback = s.readback ∧ (modMemR s f).rbRetry = s.rbRetry ∧ (modMemR s f).rst = s.rst ∧
    (modMemR s f).miller = s.miller ∧ (modMemR s f).svc = s.svc ∧ (modMemR s f).hpResp = s.hpResp ∧
    (modMemR s f).dbgData = s.dbgData ∧ (modMemR s f).sibs = s.sibs :=
  ⟨rfl, rfl, rfl, rfl, rfl, rfl, rfl, rfl, rfl, rfl, rfl, rfl, rfl, rfl, rfl, rfl, rfl, rfl, rfl, rfl, rfl, rfl, rfl,
   rfl, rfl, rfl, rfl, rfl, rfl, rfl, rfl, rfl, rfl, rfl, rfl, rfl, rfl, rfl, rfl, rfl, rfl, rfl, rfl, rfl, rfl, rfl,
   rfl, rfl, rfl⟩

@[simp] theorem modSvc_fields (s : State) (f : Svc → Svc) :
    (modSvc s f).pending = s.pending ∧ (modSvc s f).free = s.free ∧ (modSvc s f).order = s.order ∧
    (modSvc s f).ring_time = s.ring_time ∧ (modSvc s f).ringfrac = s.ringfrac ∧ (modSvc s f).fuse = s.fuse ∧
    (modSvc s f).fuseSh = s.fuseSh ∧ (modSvc s f).capsId = s.capsId ∧ (modSvc s f).capsUnits = s.capsUnits ∧
    (modSvc s f).standby = s.standby ∧ (modSvc s f).occupied = s.occupied ∧ (modSvc s f).millcfgErr = s.millcfgErr ∧
    (modSvc s f).mills = s.mills ∧ (modSvc s f).wheels = s.wheels ∧ (modSvc s f).segC = s.segC ∧
    (modSvc s f).segS = s.segS ∧ (modSvc s f).excC = s.excC ∧ (modSvc s f).excS = s.excS ∧
    (modSvc s f).fentC = s.fentC ∧ (modSvc s f).fentS = s.fentS ∧ (modSvc s f).evroute = s.evroute ∧
    (modSvc s f).frames = s.frames ∧ (modSvc s f).sails = s.sails ∧ (modSvc s f).tbs = s.tbs ∧
    (modSvc s f).leats = s.leats ∧ (modSvc s f).tail = s.tail ∧ (modSvc s f).mp = s.mp ∧
    (modSvc s f).spareRam = s.spareRam ∧ (modSvc s f).spare = s.spare ∧ (modSvc s f).mem = s.mem ∧
    (modSvc s f).retained = s.retained ∧ (modSvc s f).twin = s.twin ∧ (modSvc s f).lanes = s.lanes ∧
    (modSvc s f).ring = s.ring ∧ (modSvc s f).hopC = s.hopC ∧ (modSvc s f).hopS = s.hopS ∧ (modSvc s f).fbs = s.fbs ∧
    (modSvc s f).emus = s.emus ∧ (modSvc s f).weirs = s.weirs ∧ (modSvc s f).sluices = s.sluices ∧
    (modSvc s f).calibs = s.calibs ∧ (modSvc s f).readback = s.readback ∧ (modSvc s f).rbRetry = s.rbRetry ∧
    (modSvc s f).rst = s.rst ∧ (modSvc s f).miller = s.miller ∧ (modSvc s f).svc = f s.svc ∧
    (modSvc s f).hpResp = s.hpResp ∧ (modSvc s f).dbgData = s.dbgData ∧ (modSvc s f).sibs = s.sibs :=
  ⟨rfl, rfl, rfl, rfl, rfl, rfl, rfl, rfl, rfl, rfl, rfl, rfl, rfl, rfl, rfl, rfl, rfl, rfl, rfl, rfl, rfl, rfl, rfl,
   rfl, rfl, rfl, rfl, rfl, rfl, rfl, rfl, rfl, rfl, rfl, rfl, rfl, rfl, rfl, rfl, rfl, rfl, rfl, rfl, rfl, rfl, rfl,
   rfl, rfl, rfl⟩

@[simp] theorem setFrame_fields (s : State) (n : Nat) (f : Option FrameDef) :
    (setFrame s n f).pending = s.pending ∧ (setFrame s n f).free = s.free ∧ (setFrame s n f).order = s.order ∧
    (setFrame s n f).ring_time = s.ring_time ∧ (setFrame s n f).ringfrac = s.ringfrac ∧
    (setFrame s n f).fuse = s.fuse ∧ (setFrame s n f).fuseSh = s.fuseSh ∧ (setFrame s n f).capsId = s.capsId ∧
    (setFrame s n f).capsUnits = s.capsUnits ∧ (setFrame s n f).standby = s.standby ∧
    (setFrame s n f).occupied = s.occupied ∧ (setFrame s n f).millcfgErr = s.millcfgErr ∧
    (setFrame s n f).mills = s.mills ∧ (setFrame s n f).wheels = s.wheels ∧ (setFrame s n f).segC = s.segC ∧
    (setFrame s n f).segS = s.segS ∧ (setFrame s n f).excC = s.excC ∧ (setFrame s n f).excS = s.excS ∧
    (setFrame s n f).fentC = s.fentC ∧ (setFrame s n f).fentS = s.fentS ∧ (setFrame s n f).evroute = s.evroute ∧
    (setFrame s n f).frames = tset none s.frames n f ∧ (setFrame s n f).sails = s.sails ∧
    (setFrame s n f).tbs = s.tbs ∧ (setFrame s n f).leats = s.leats ∧ (setFrame s n f).tail = s.tail ∧
    (setFrame s n f).mp = s.mp ∧ (setFrame s n f).spareRam = s.spareRam ∧ (setFrame s n f).spare = s.spare ∧
    (setFrame s n f).mem = s.mem ∧ (setFrame s n f).retained = s.retained ∧ (setFrame s n f).twin = s.twin ∧
    (setFrame s n f).lanes = s.lanes ∧ (setFrame s n f).ring = s.ring ∧ (setFrame s n f).hopC = s.hopC ∧
    (setFrame s n f).hopS = s.hopS ∧ (setFrame s n f).fbs = s.fbs ∧ (setFrame s n f).emus = s.emus ∧
    (setFrame s n f).weirs = s.weirs ∧ (setFrame s n f).sluices = s.sluices ∧ (setFrame s n f).calibs = s.calibs ∧
    (setFrame s n f).readback = s.readback ∧ (setFrame s n f).rbRetry = s.rbRetry ∧ (setFrame s n f).rst = s.rst ∧
    (setFrame s n f).miller = s.miller ∧ (setFrame s n f).svc = s.svc ∧ (setFrame s n f).hpResp = s.hpResp ∧
    (setFrame s n f).dbgData = s.dbgData ∧ (setFrame s n f).sibs = s.sibs :=
  ⟨rfl, rfl, rfl, rfl, rfl, rfl, rfl, rfl, rfl, rfl, rfl, rfl, rfl, rfl, rfl, rfl, rfl, rfl, rfl, rfl, rfl, rfl, rfl,
   rfl, rfl, rfl, rfl, rfl, rfl, rfl, rfl, rfl, rfl, rfl, rfl, rfl, rfl, rfl, rfl, rfl, rfl, rfl, rfl, rfl, rfl, rfl,
   rfl, rfl, rfl⟩

@[simp] theorem takeFree_fields (s : State) :
    (takeFree s).pending = s.pending ∧ (takeFree s).free = s.free + 1 ∧ (takeFree s).order = s.order ∧
    (takeFree s).ring_time = s.ring_time ∧ (takeFree s).ringfrac = s.ringfrac ∧ (takeFree s).fuse = s.fuse ∧
    (takeFree s).fuseSh = s.fuseSh ∧ (takeFree s).capsId = s.capsId ∧ (takeFree s).capsUnits = s.capsUnits ∧
    (takeFree s).standby = s.standby ∧ (takeFree s).occupied = s.occupied ∧ (takeFree s).millcfgErr = s.millcfgErr ∧
    (takeFree s).mills = s.mills ∧ (takeFree s).wheels = s.wheels ∧ (takeFree s).segC = s.segC ∧
    (takeFree s).segS = s.segS ∧ (takeFree s).excC = s.excC ∧ (takeFree s).excS = s.excS ∧
    (takeFree s).fentC = s.fentC ∧ (takeFree s).fentS = s.fentS ∧ (takeFree s).evroute = s.evroute ∧
    (takeFree s).frames = s.frames ∧ (takeFree s).sails = s.sails ∧ (takeFree s).tbs = s.tbs ∧
    (takeFree s).leats = s.leats ∧ (takeFree s).tail = s.tail ∧ (takeFree s).mp = s.mp ∧
    (takeFree s).spareRam = s.spareRam ∧ (takeFree s).spare = s.spare ∧ (takeFree s).mem = s.mem ∧
    (takeFree s).retained = s.retained ∧ (takeFree s).twin = s.twin ∧ (takeFree s).lanes = s.lanes ∧
    (takeFree s).ring = s.ring ∧ (takeFree s).hopC = s.hopC ∧ (takeFree s).hopS = s.hopS ∧ (takeFree s).fbs = s.fbs ∧
    (takeFree s).emus = s.emus ∧ (takeFree s).weirs = s.weirs ∧ (takeFree s).sluices = s.sluices ∧
    (takeFree s).calibs = s.calibs ∧ (takeFree s).readback = s.readback ∧ (takeFree s).rbRetry = s.rbRetry ∧
    (takeFree s).rst = s.rst ∧ (takeFree s).miller = s.miller ∧ (takeFree s).svc = s.svc ∧
    (takeFree s).hpResp = s.hpResp ∧ (takeFree s).dbgData = s.dbgData ∧ (takeFree s).sibs = s.sibs :=
  ⟨rfl, rfl, rfl, rfl, rfl, rfl, rfl, rfl, rfl, rfl, rfl, rfl, rfl, rfl, rfl, rfl, rfl, rfl, rfl, rfl, rfl, rfl, rfl,
   rfl, rfl, rfl, rfl, rfl, rfl, rfl, rfl, rfl, rfl, rfl, rfl, rfl, rfl, rfl, rfl, rfl, rfl, rfl, rfl, rfl, rfl, rfl,
   rfl, rfl, rfl⟩

@[simp] theorem retWrite_fields (s : State) (a : Nat) (v : TWord) :
    (retWrite s a v).pending = s.pending ∧ (retWrite s a v).free = s.free ∧ (retWrite s a v).order = s.order ∧
    (retWrite s a v).ring_time = s.ring_time ∧ (retWrite s a v).ringfrac = s.ringfrac ∧
    (retWrite s a v).fuse = s.fuse ∧ (retWrite s a v).fuseSh = s.fuseSh ∧ (retWrite s a v).capsId = s.capsId ∧
    (retWrite s a v).capsUnits = s.capsUnits ∧ (retWrite s a v).standby = s.standby ∧
    (retWrite s a v).occupied = s.occupied ∧ (retWrite s a v).millcfgErr = s.millcfgErr ∧
    (retWrite s a v).mills = s.mills ∧ (retWrite s a v).wheels = s.wheels ∧ (retWrite s a v).segC = s.segC ∧
    (retWrite s a v).segS = s.segS ∧ (retWrite s a v).excC = s.excC ∧ (retWrite s a v).excS = s.excS ∧
    (retWrite s a v).fentC = s.fentC ∧ (retWrite s a v).fentS = s.fentS ∧ (retWrite s a v).evroute = s.evroute ∧
    (retWrite s a v).frames = s.frames ∧ (retWrite s a v).sails = s.sails ∧ (retWrite s a v).tbs = s.tbs ∧
    (retWrite s a v).leats = s.leats ∧ (retWrite s a v).tail = s.tail ∧ (retWrite s a v).mp = s.mp ∧
    (retWrite s a v).spareRam = s.spareRam ∧ (retWrite s a v).spare = s.spare ∧ (retWrite s a v).mem = s.mem ∧
    (retWrite s a v).retained = ramSet emptyW s.retained a v ∧ (retWrite s a v).twin = s.twin ∧
    (retWrite s a v).lanes = s.lanes ∧ (retWrite s a v).ring = s.ring ∧ (retWrite s a v).hopC = s.hopC ∧
    (retWrite s a v).hopS = s.hopS ∧ (retWrite s a v).fbs = s.fbs ∧ (retWrite s a v).emus = s.emus ∧
    (retWrite s a v).weirs = s.weirs ∧ (retWrite s a v).sluices = s.sluices ∧ (retWrite s a v).calibs = s.calibs ∧
    (retWrite s a v).readback = s.readback ∧ (retWrite s a v).rbRetry = s.rbRetry ∧ (retWrite s a v).rst = s.rst ∧
    (retWrite s a v).miller = s.miller ∧ (retWrite s a v).svc = s.svc ∧ (retWrite s a v).hpResp = s.hpResp ∧
    (retWrite s a v).dbgData = s.dbgData ∧ (retWrite s a v).sibs = s.sibs :=
  ⟨rfl, rfl, rfl, rfl, rfl, rfl, rfl, rfl, rfl, rfl, rfl, rfl, rfl, rfl, rfl, rfl, rfl, rfl, rfl, rfl, rfl, rfl, rfl,
   rfl, rfl, rfl, rfl, rfl, rfl, rfl, rfl, rfl, rfl, rfl, rfl, rfl, rfl, rfl, rfl, rfl, rfl, rfl, rfl, rfl, rfl, rfl,
   rfl, rfl, rfl⟩

end Sys2Proof.Machine
end

