-- ==== Sys2Proof/Laws/Fixed.lean ====
section
/-! SUPPORT. What no command touches: the queue and the fuses. One lemma for each operation over the state, in the
order of the files; `fixed` is the pair of both. -/

namespace Sys2Proof.Machine

/-- The queue and the fuses of a state. -/
def fixed (s : State) : List Instr × Tab W32 := (s.pending, s.fuse)

@[simp] theorem fixed_mk x0 x1 x2 x3 x4 x5 x6 x7 x8 x9 x10 x11 x12 x13 x14 x15 x16 x17 x18 x19 x20 x21 x22 x23 x24
      x25 x26 x27 x28 x29 x30 x31 x32 x33 x34 x35 x36 x37 x38 x39 x40 x41 x42 x43 x44 x45 x46 x47 x48 :
    fixed (State.mk x0 x1 x2 x3 x4 x5 x6 x7 x8 x9 x10 x11 x12 x13 x14 x15 x16 x17 x18 x19 x20 x21 x22 x23 x24 x25
      x26 x27 x28 x29 x30 x31 x32 x33 x34 x35 x36 x37 x38 x39 x40 x41 x42 x43 x44 x45 x46 x47 x48) =
      (x0, x5) := (rfl)
theorem fixed_ite {c : Prop} [Decidable c] (a b : State) (x : List Instr × Tab W32) (h1 : c → fixed a = x) (h2 : ¬ c
      → fixed b = x) :
    fixed (if c then a else b) = x := by split <;> simp_all
@[simp] theorem fixed_pair (s : State) : (s.pending, s.fuse) = fixed s := (rfl)

/-- The state that an instruction's answer holds. -/
def resState {α : Type} : Except (State × Exc) (State × α) → State
  | .error e => e.1
  | .ok v => v.1
def excState : Except (State × Exc) State → State
  | .error e => e.1
  | .ok v => v

@[simp] theorem resState_error {α : Type} (e : State × Exc) : resState (α := α) (.error e) = e.1 := rfl
@[simp] theorem resState_ok {α : Type} (v : State × α) : resState (.ok v) = v.1 := rfl
@[simp] theorem excState_error (e : State × Exc) : excState (.error e) = e.1 := rfl
@[simp] theorem excState_ok (v : State) : excState (.ok v) = v := rfl

theorem foldl_fixed {α : Type} (l : List α) (f : State → α → State) (h : ∀ s a, fixed (f s a) = fixed s) (s : State) :
    fixed (l.foldl f s) = fixed s := by
  induction l generalizing s with
  | nil => rfl
  | cons a t ih => simp [List.foldl, ih, h]

theorem foldl_to {α : Type} {l : List α} {f : State → α → State} {s : State} {x : List Instr × Tab W32}
    (h : ∀ s a, fixed (f s a) = fixed s) (e : fixed s = x) : fixed (l.foldl f s) = x := (foldl_fixed l f h s).trans e

theorem forAll_to {l : List Nat} {f : State → Nat → State} {s : State} {x : List Instr × Tab W32}
    (h : ∀ s a, fixed (f s a) = fixed s) (e : fixed s = x) : fixed (forAll s l f) = x := (foldl_fixed l f h s).trans e

theorem foldl_fst_fixed {α β : Type} (l : List α) (f : State × β → α → State × β)
    (h : ∀ p a, fixed (f p a).1 = fixed p.1) (p : State × β) : fixed (l.foldl f p).1 = fixed p.1 := by
  induction l generalizing p with
  | nil => rfl
  | cons a t ih => simp [List.foldl, ih, h]

theorem foldl_fst_to {α β : Type} {l : List α} {f : State × β → α → State × β} {p : State × β}
    {x : List Instr × Tab W32} (h : ∀ p a, fixed (f p a).1 = fixed p.1) (e : fixed p.1 = x) :
    fixed (l.foldl f p).1 = x := (foldl_fst_fixed l f h p).trans e

theorem ok_fixed {α : Type} {r : Except (State × Exc) (State × α)} {a : State × α} {x : List Instr × Tab W32}
    (e : r = .ok a) (h : fixed (resState r) = x) : fixed a.1 = x := by subst e; exact h

theorem err_fixed {α : Type} {r : Except (State × Exc) (State × α)} {a : State × Exc} {x : List Instr × Tab W32}
    (e : r = .error a) (h : fixed (resState r) = x) : fixed a.1 = x := by subst e; exact h

theorem pair_ok_to {α : Type} {r : Except (State × Exc) (State × α)} {s : State} {v : α} {x : List Instr × Tab W32}
    (e : r = .ok (s, v)) (h : fixed (resState r) = x) : fixed s = x := by subst e; exact h

theorem pair_err_to {α : Type} {r : Except (State × Exc) (State × α)} {s : State} {v : Exc} {x : List Instr × Tab W32}
    (e : r = .error (s, v)) (h : fixed (resState r) = x) : fixed s = x := by subst e; exact h

theorem exc_ok_to {r : Except (State × Exc) State} {s : State} {x : List Instr × Tab W32}
    (e : r = .ok s) (h : fixed (excState r) = x) : fixed s = x := by subst e; exact h

theorem exc_err_to {r : Except (State × Exc) State} {s : State} {v : Exc} {x : List Instr × Tab W32}
    (e : r = .error (s, v)) (h : fixed (excState r) = x) : fixed s = x := by subst e; exact h

def elemState : Elem → State
  | .done s _ => s
  | .full s _ => s
  | .wait s _ => s
  | .fail s _ => s
def srcState : Src → State
  | .val s _ => s
  | .host s => s
  | .mp s _ => s
  | .fail s _ => s
def microState : MicroNext → State
  | .go _ s _ => s
  | .fin s _ _ => s
  | .fail s _ => s

@[simp] theorem elemState_done (s : State) (b : Bool) : elemState (.done s b) = s := rfl
@[simp] theorem elemState_full (s : State) (u : TWord) : elemState (.full s u) = s := rfl
@[simp] theorem elemState_wait (s : State) (t : Stall) : elemState (.wait s t) = s := rfl
@[simp] theorem elemState_fail (s : State) (e : Exc) : elemState (.fail s e) = s := rfl
@[simp] theorem srcState_val (s : State) (v : TWord) : srcState (.val s v) = s := rfl
@[simp] theorem srcState_host (s : State) : srcState (.host s) = s := rfl
@[simp] theorem srcState_mp (s : State) (a : Nat) : srcState (.mp s a) = s := rfl
@[simp] theorem srcState_fail (s : State) (e : Exc) : srcState (.fail s e) = s := rfl
@[simp] theorem microState_go (n : Nat) (s : State) (m : MicroSt) : microState (.go n s m) = s := rfl
@[simp] theorem microState_fin (s : State) (m : MicroSt) (r : TWord) : microState (.fin s m r) = s := rfl
@[simp] theorem microState_fail (s : State) (e : Exc) : microState (.fail s e) = s := rfl

theorem src_val_to {r : Src} {s : State} {v : TWord} {x : List Instr × Tab W32}
    (e : r = .val s v) (h : fixed (srcState r) = x) : fixed s = x := by subst e; exact h
theorem src_host_to {r : Src} {s : State} {x : List Instr × Tab W32}
    (e : r = .host s) (h : fixed (srcState r) = x) : fixed s = x := by subst e; exact h
theorem src_mp_to {r : Src} {s : State} {a : Nat} {x : List Instr × Tab W32}
    (e : r = .mp s a) (h : fixed (srcState r) = x) : fixed s = x := by subst e; exact h
theorem src_fail_to {r : Src} {s : State} {v : Exc} {x : List Instr × Tab W32}
    (e : r = .fail s v) (h : fixed (srcState r) = x) : fixed s = x := by subst e; exact h

/-! ### Ops -/

@[simp] theorem setWheel_fixed (s : State) (w : Nat) (x : Wheel) :
    fixed (setWheel s w x) = fixed s := by
  simp [setWheel]

@[simp] theorem modWheel_fixed (s : State) (w : Nat) (f : Wheel → Wheel) :
    fixed (modWheel s w f) = fixed s := by
  simp [modWheel]

@[simp] theorem setMill_fixed (s : State) (m : Nat) (x : Mill) :
    fixed (setMill s m x) = fixed s := by
  simp [setMill]

@[simp] theorem modMill_fixed (s : State) (m : Nat) (f : Mill → Mill) :
    fixed (modMill s m f) = fixed s := by
  simp [modMill]

@[simp] theorem setSail_fixed (s : State) (n : Nat) (x : Sail) :
    fixed (setSail s n x) = fixed s := by
  simp [setSail]

@[simp] theorem modSail_fixed (s : State) (n : Nat) (f : Sail → Sail) :
    fixed (modSail s n f) = fixed s := by
  simp [modSail]

@[simp] theorem modTb_fixed (s : State) (t : Nat) (f : Timebase → Timebase) :
    fixed (modTb s t f) = fixed s := by
  simp [modTb]

@[simp] theorem modLeat_fixed (s : State) (n : Nat) (f : Leat → Leat) :
    fixed (modLeat s n f) = fixed s := by
  simp [modLeat]

@[simp] theorem modLane_fixed (s : State) (k : Nat) (f : Lane → Lane) :
    fixed (modLane s k f) = fixed s := by
  simp [modLane]

@[simp] theorem modRing_fixed (s : State) (f : Ring → Ring) :
    fixed (modRing s f) = fixed s := by
  simp [modRing]

@[simp] theorem modMem_fixed (s : State) (i : Nat) (f : RingMem → RingMem) :
    fixed (modMem s i f) = fixed s := by
  simp [modMem]

@[simp] theorem modTwin_fixed (s : State) (f : Twin → Twin) :
    fixed (modTwin s f) = fixed s := by
  simp [modTwin]

@[simp] theorem setHop_fixed (s : State) (h : HopId) (x : Hopper) :
    fixed (setHop s h x) = fixed s := by
  unfold setHop
  split <;> simp

@[simp] theorem modHop_fixed (s : State) (h : HopId) (f : Hopper → Hopper) :
    fixed (modHop s h f) = fixed s := by
  simp [modHop]

@[simp] theorem modSlot_fixed (s : State) (h : HopId) (n : Nat) (f : Slot → Slot) :
    fixed (modSlot s h n f) = fixed s := by
  simp [modSlot]

@[simp] theorem modFb_fixed (s : State) (n : Nat) (f : Fb → Fb) :
    fixed (modFb s n f) = fixed s := by
  simp [modFb]

@[simp] theorem modEmu_fixed (s : State) (n : Nat) (f : Emu → Emu) :
    fixed (modEmu s n f) = fixed s := by
  simp [modEmu]

@[simp] theorem modWeir_fixed (s : State) (n : Nat) (f : Weir → Weir) :
    fixed (modWeir s n f) = fixed s := by
  simp [modWeir]

@[simp] theorem modSluice_fixed (s : State) (n : Nat) (f : Sluice → Sluice) :
    fixed (modSluice s n f) = fixed s := by
  simp [modSluice]

@[simp] theorem modRst_fixed (s : State) (f : ResetSt → ResetSt) :
    fixed (modRst s f) = fixed s := by
  simp [modRst]

@[simp] theorem modClk_fixed (s : State) (d : Nat) (f : ClkMon → ClkMon) :
    fixed (modClk s d f) = fixed s := by
  simp [modClk]

@[simp] theorem modMiller_fixed (s : State) (f : Miller → Miller) :
    fixed (modMiller s f) = fixed s := by
  simp [modMiller]

@[simp] theorem modMemR_fixed (s : State) (f : MemRegs → MemRegs) :
    fixed (modMemR s f) = fixed s := by
  simp [modMemR]

@[simp] theorem modSvc_fixed (s : State) (f : Svc → Svc) :
    fixed (modSvc s f) = fixed s := by
  simp [modSvc]

@[simp] theorem setFrame_fixed (s : State) (n : Nat) (f : Option FrameDef) :
    fixed (setFrame s n f) = fixed s := by
  simp [setFrame]

@[simp] theorem modFrame_fixed (s : State) (n : Nat) (f : FrameDef → FrameDef) :
    fixed (modFrame s n f) = fixed s := by
  simp [modFrame]

@[simp] theorem forAll_fixed (s : State) (l : List Nat) (f : State → Nat → State) (h_f : ∀ s i, fixed (f s i) =
    fixed s) :
    fixed (forAll s l f) = fixed s := by
  exact foldl_fixed l f h_f s

@[simp] theorem setEcc_fixed (s : State) (m : MemSel) (a : Nat) (e : Ecc) :
    fixed (setEcc s m a e) = fixed s := by
  unfold setEcc
  split <;> simp

@[simp] theorem noteRead_fixed (s : State) (m : MemSel) (a : Nat) :
    fixed (noteRead s m a) = fixed s := by
  unfold noteRead
  split <;> simp

@[simp] theorem spadWrite_fixed (s : State) (w a : Nat) (v : TWord) :
    fixed (spadWrite s w a v) = fixed s := by
  simp [spadWrite]

@[simp] theorem pinWrite_fixed (s : State) (w a : Nat) (v : BitVec 14) :
    fixed (pinWrite s w a v) = fixed s := by
  simp [pinWrite]

@[simp] theorem retWrite_fixed (s : State) (a : Nat) (v : TWord) :
    fixed (retWrite s a v) = fixed s := by
  simp [retWrite]

@[simp] theorem setFw_fixed (s : State) (w t i : Nat) (v : TWord) :
    fixed (setFw s w t i v) = fixed s := by
  simp [setFw]

@[simp] theorem spadNote_fixed (s : State) (w a : Nat) :
    fixed (spadNote s w a) = fixed s := by
  simp [spadNote]

@[simp] theorem noteFw_fixed (s : State) (w t : Nat) (l : List Nat) :
    fixed (noteFw s w t l) = fixed s := by
  unfold noteFw
  repeat' (first | (simp; done) | refine forAll_to (fun s n => ?_) ?_ | split)

@[simp] theorem mpWrite_fixed (s : State) (a : Nat) (v : TWord) :
    fixed (mpWrite s a v) = fixed s := by
  unfold mpWrite
  split <;> simp

@[simp] theorem mpNote_fixed (s : State) (a : Nat) :
    fixed (mpNote s a) = fixed s := by
  simp [mpNote]

@[simp] theorem mpDrop_fixed (s : State) :
    fixed (mpDrop s) = fixed s := by
  simp [mpDrop]

@[simp] theorem mpReadUnit_fixed (s : State) (a : Nat) :
    fixed (mpReadUnit s a).1 = fixed s := by
  unfold mpReadUnit
  split <;> simp

@[simp] theorem mpWriteUnit_fixed (s : State) (a : Nat) (v : TWord) :
    fixed (mpWriteUnit s a v) = fixed s := by
  unfold mpWriteUnit
  split <;> simp

@[simp] theorem raiseEv_fixed (s : State) (w e : Nat) (info : Nat) :
    fixed (raiseEv s w e info) = fixed s := by
  simp [raiseEv]

@[simp] theorem raiseRouted_fixed (s : State) (e : Nat) (info : Nat) :
    fixed (raiseRouted s e info) = fixed s := by
  simp [raiseRouted]

@[simp] theorem traceRec_fixed (s : State) (w kind arg frame : Nat) :
    fixed (traceRec s w kind arg frame) = fixed s := by
  simp [traceRec]

@[simp] theorem writeSafe_fixed (s : State) (n : Nat) :
    fixed (writeSafe s n) = fixed s := by
  unfold writeSafe
  split <;> simp

@[simp] theorem writeDuty_fixed (s : State) (n : Nat) (d : W32) :
    fixed (writeDuty s n d) = fixed s := by
  unfold writeDuty
  split <;> simp

@[simp] theorem setFstat_fixed (s : State) (w t lo n v : Nat) :
    fixed (setFstat s w t lo n v) = fixed s := by
  simp [setFstat]

@[simp] theorem modWake_fixed (s : State) (w e : Nat) (f : WakeEnt → WakeEnt) :
    fixed (modWake s w e f) = fixed s := by
  simp [modWake]

@[simp] theorem takeFree_fixed (s : State) :
    fixed (takeFree s) = fixed s := by
  simp [takeFree]

/-! ### Operands -/

@[simp] theorem readLine_fixed (s : State) (w j : Nat) :
    fixed ((readLine s w j).getD s) = fixed s := by
  unfold readLine
  split <;> simp

@[simp] theorem ensureLine_fixed (s : State) (w j : Nat) :
    fixed ((ensureLine s w j).getD s) = fixed s := by
  unfold ensureLine
  repeat' (first | (simp; done) | split | simp_all)

@[simp] theorem landWant_fixed (s : State) (w : Nat) :
    fixed (landWant s w) = fixed s := by
  unfold landWant
  split <;> simp

@[simp] theorem landPre_fixed (s : State) (w : Nat) :
    fixed (landPre s w) = fixed s := by
  unfold landPre
  split <;> simp

@[simp] theorem readAhead_fixed (s : State) (w : Nat) (c : W32) :
    fixed (readAhead s w c).1 = fixed s := by
  unfold readAhead
  repeat' (first | (simp; done) | refine forAll_to (fun s n => ?_) ?_ | split | simp_all)

@[simp] theorem holdAhead_fixed (s : State) (w : Nat) (l : List (W32 × List (BitVec 14))) (c : W32) :
    fixed (holdAhead s w l c) = fixed s := by
  unfold holdAhead
  repeat' (first | (simp; done) | split | simp_all)

@[simp] theorem dropPre_fixed (s : State) (w : Nat) :
    fixed (dropPre s w) = fixed s := by
  simp [dropPre]

theorem ensureLine_to {s t : State} {w j : Nat} {x : List Instr × Tab W32} (e : ensureLine s w j = some t) (h :
    fixed s = x) :
    fixed t = x := by
  have := ensureLine_fixed s w j
  rw [e] at this
  exact this.trans h

@[simp] theorem fetchWords_fixed (s : State) (w op len : Nat) : fixed (excState (fetchWords s w op len)) = fixed s
    := by
  unfold fetchWords
  extract_lets c j s1 v
  split
  · rfl
  · split
    · split
      · rfl
      · rename_i t e
        have h : fixed t = fixed s := ensureLine_to e rfl
        split
        · exact h
        · split
          · exact h
          · exact ensureLine_to ‹_› ((dropPre_fixed ..).trans h)
    · have h : fixed v = fixed s := foldl_fixed _ _ (fun _ _ => noteRead_fixed ..) _
      split <;> exact h

@[simp] theorem ffTake_fixed (s : State) (w t : Nat) (now : W64) (old : Option W64) :
    fixed (ffTake s w t now old) = fixed s := by
  unfold ffTake
  repeat' (first | (simp; done) | refine forAll_to (fun s n => ?_) ?_ | split | simp_all)

@[simp] theorem ffWrite_fixed (s : State) (w : Nat) :
    fixed (ffWrite s w) = fixed s := by
  unfold ffWrite
  repeat' (first | (simp; done) | refine foldl_to (fun s a => ?_) ?_ | split | simp_all)

@[simp] theorem ffSettle_fixed (s : State) (w : Nat) :
    fixed (ffSettle s w) = fixed s := by
  unfold ffSettle
  split <;> simp

@[simp] theorem ffWake_fixed (s : State) (w o : Nat) :
    fixed (ffWake s w o) = fixed s := by
  unfold ffWake
  split <;> simp

@[simp] theorem ffLoose_fixed (s : State) (w : Nat) :
    fixed (ffLoose s w) = fixed s := by
  simp [ffLoose]

@[simp] theorem settle_fixed (s : State) (w : Nat) :
    fixed (settle s w) = fixed s := by
  simp [settle]

@[simp] theorem failAt_fixed (s : State) (w : Nat) (e : Exc) :
    fixed (failAt s w e) = fixed s := by
  simp [failAt]

@[simp] theorem beginAt_fixed (s : State) (w op : Nat) (ws : List Nat) :
    fixed (beginAt s w op ws) = fixed s := by
  unfold beginAt
  repeat' (first | (simp; done) | split | simp_all)

@[simp] theorem arrive_fixed (s : State) (w : Nat) (a0 : Flow) :
    fixed (arrive s w a0) = fixed s := by
  unfold arrive
  split <;> simp

@[simp] theorem issue_fixed (s : State) (w op : Nat) (ext : List Nat) (f : State → Res)
    (h_f : ∀ s, fixed (resState (f s)) = fixed s) : fixed (issue s w op ext f) = fixed s := by
  unfold issue
  extract_lets len s1
  have h1 : fixed s1 = fixed s := by simp [s1]
  split
  · split
    · rw [failAt_fixed, h1]
    · split
      · rw [failAt_fixed, exc_err_to ‹_› (fetchWords_fixed s1 w op len), h1]
      · rename_i t e
        have h2 : fixed t = fixed s := (exc_ok_to e (fetchWords_fixed s1 w op len)).trans h1
        extract_lets c
        split
        · rw [failAt_fixed, pair_err_to ‹_› (h_f _), beginAt_fixed, h2]
        · rw [arrive_fixed, modWheel_fixed, pair_ok_to ‹_› (h_f _), beginAt_fixed, h2]
  · rfl

@[simp] theorem resumeOp_fixed (s : State) (w : Nat) (f : State → Res)
    (h_f : ∀ s, fixed (resState (f s)) = fixed s) : fixed (resumeOp s w f) = fixed s := by
  unfold resumeOp
  split
  · exact (failAt_fixed ..).trans ((pair_err_to ‹_› (h_f _)).trans (modWheel_fixed ..))
  · exact (modWheel_fixed ..).trans ((pair_ok_to ‹_› (h_f _)).trans (modWheel_fixed ..))

@[simp] theorem stackOp_fixed (s : State) (w op need push : Nat) (f : Wheel → List TWord → Except Exc (List TWord)) :
    fixed (stackOp s w op need push f) = fixed s := by
  unfold stackOp
  repeat' (first | (simp; done) | refine issue_fixed _ _ _ _ _ fun s => ?_ | split | simp_all)

end Sys2Proof.Machine
end

