-- ==== Sys2Proof/Laws/FixedWheel.lean ====
section
/-! SUPPORT. What no command touches, for the operations behind the wheel instructions. -/

namespace Sys2Proof.Machine

/-! ### System -/

@[simp] theorem retInt_fixed (s : State) (a v : Nat) :
    fixed (retInt s a v) = fixed s := by
  simp [retInt]

@[simp] theorem logAppend_fixed (s : State) (key data : Nat) :
    fixed (logAppend s key data).1 = fixed s := by
  unfold logAppend
  repeat' (first | (simp; done) | split | simp_all)

@[simp] theorem logPut_fixed (s : State) (key data : Nat) : fixed (logPut s key data) = fixed s := by
  unfold logPut
  extract_lets n w near
  split
  · simp
  · have h : fixed (logAppend s key data).1 = fixed s := by simp
    split
    rename_i t lost e
    rw [e] at h
    split
    · rw [logAppend_fixed]; exact h
    · exact h

@[simp] theorem rebuildLog_fixed (s : State) :
    fixed (rebuildLog s) = fixed s := by
  unfold rebuildLog
  repeat' (first | (simp; done) | split | simp_all)

@[simp] theorem logEntry_fixed (s : State) (type arg wheel mill data : Nat) :
    fixed (logEntry s type arg wheel mill data) = fixed s := by
  unfold logEntry
  repeat' (first | (simp; done) | split | simp_all)

@[simp] theorem raiseReset_fixed (s : State) (r : RstReq) :
    fixed (raiseReset s r) = fixed s := by
  simp [raiseReset]

@[simp] theorem raiseWheelReset_fixed (s : State) (src level w : Nat) :
    fixed (raiseWheelReset s src level w) = fixed s := by
  simp [raiseWheelReset]

@[simp] theorem raiseMillReset_fixed (s : State) (src level m dom : Nat) :
    fixed (raiseMillReset s src level m dom) = fixed s := by
  simp [raiseMillReset]

@[simp] theorem addHistory_fixed (s : State) (cause : W32) :
    fixed (addHistory s cause) = fixed s := by
  unfold addHistory
  repeat' (first | (simp; done) | split | simp_all)

@[simp] theorem setDrv_fixed (s : State) (v : BitVec 24) :
    fixed (setDrv s v) = fixed s := by
  unfold setDrv
  repeat' (first | (simp; done) | split | simp_all)

@[simp] theorem withdraw_fixed (s : State) (groups : List Nat) :
    fixed (withdraw s groups) = fixed s := by
  unfold withdraw
  split <;> simp

@[simp] theorem withdrawWheel_fixed (s : State) (w : Nat) :
    fixed (withdrawWheel s w) = fixed s := by
  simp [withdrawWheel]

@[simp] theorem withdrawSail_fixed (s : State) (n : Nat) :
    fixed (withdrawSail s n) = fixed s := by
  unfold withdrawSail
  split <;> simp

@[simp] theorem pstoreBegin_fixed (s : State) (m line wheel : Nat) (image : Bool) :
    fixed (pstoreBegin s m line wheel image) = fixed s := by
  simp [pstoreBegin]

@[simp] theorem pstoreEnd_fixed (s : State) (m : Nat) :
    fixed (pstoreEnd s m) = fixed s := by
  simp [pstoreEnd]

@[simp] theorem sliceWrite_fixed (s : State) (m o : Nat) (v : BitVec 14) :
    fixed (sliceWrite s m o v) = fixed s := by
  simp [sliceWrite]

/-! ### WStack -/

@[simp] theorem readFrame_fixed (s : State) (w op i : Nat) :
    fixed (resState (readFrame s w op i)) = fixed s := by
  unfold readFrame
  repeat' (first | (simp; done) | split | simp_all)

/-! ### WArith -/

@[simp] theorem binOp_fixed (s : State) (w op : Nat) (f : Bool → TWord → TWord → Except Exc TWord) :
    fixed (binOp s w op f) = fixed s := by
  simp [binOp]

@[simp] theorem unOp_fixed (s : State) (w op : Nat) (f : TWord → Except Exc TWord) :
    fixed (unOp s w op f) = fixed s := by
  simp [unOp]

/-! ### Segment -/

@[simp] theorem guardRead_fixed (s : State) (i : Nat) :
    fixed (guardRead s i).1 = fixed s := by
  simp [guardRead]

/-! ### WMem -/

@[simp] theorem pushLoaded_fixed (s : State) (w op : Nat) (d : W64) (a : TWord) (l : List TWord) :
    fixed (resState (pushLoaded s w op d a l)) = fixed s := by
  unfold pushLoaded
  split <;> simp

@[simp] theorem loadSpad_fixed (s : State) (w op : Nat) (d : W64) (a : TWord) (n : Nat) :
    fixed (resState (loadSpad s w op d a n)) = fixed s := by
  unfold loadSpad
  repeat' (first | (simp; done) | refine forAll_to (fun s n => ?_) ?_ | split | simp_all)

@[simp] theorem loadMp_fixed (s : State) (w op : Nat) (d : W64) (a : TWord) (n : Nat) :
    fixed (resState (loadMp s w op d a n)) = fixed s := by
  unfold loadMp
  repeat' (first | (simp; done) | split | simp_all)

@[simp] theorem loadOp_fixed (s : State) (w op n : Nat) :
    fixed (loadOp s w op n) = fixed s := by
  unfold loadOp
  repeat' (first | (simp; done) | refine issue_fixed _ _ _ _ _ fun s => ?_ | split | simp_all)

@[simp] theorem storeWords_fixed (s : State) (w op : Nat) (d : W64) (a : TWord) (vs : List TWord) (pops : Nat) :
    fixed (resState (storeWords s w op d a vs pops)) = fixed s := by
  unfold storeWords
  repeat' (first | (simp; done) | refine foldl_to (fun s a => ?_) ?_ | split | simp_all)

@[simp] theorem storeOp_fixed (s : State) (w op n : Nat) :
    fixed (storeOp s w op n) = fixed s := by
  unfold storeOp
  repeat' (first | (simp; done) | refine issue_fixed _ _ _ _ _ fun s => ?_ | split | simp_all)

@[simp] theorem readElem_fixed (s : State) (w op : Nat) (d : W64) (a : TWord) :
    fixed (srcState (readElem s w op d a)) = fixed s := by
  unfold readElem
  repeat' (first | (simp; done) | split)

@[simp] theorem setBlk_fixed (s : State) (w : Nat) (b : Blk) :
    fixed (setBlk s w b) = fixed s := by
  simp [setBlk]

@[simp] theorem writeElem_fixed (s : State) (w : Nat) (d : W64) (b : Blk) (v : TWord) :
    fixed (elemState (writeElem s w d b v)) = fixed s := by
  unfold writeElem
  repeat' (first | (simp; done) | split | simp_all)

@[simp] theorem dotElem_fixed (s : State) (w op : Nat) (b : Blk) (u v : TWord) :
    fixed (elemState (dotElem s w op b u v)) = fixed s := by
  unfold dotElem
  extract_lets
  repeat' (first | rfl | exact setBlk_fixed .. | split | extract_lets)

@[simp] theorem doElem_fixed (s : State) (w op : Nat) (d2 : W64) (b : Blk) (u v : TWord) :
    fixed (elemState (doElem s w op d2 b u v)) = fixed s := by
  unfold doElem
  repeat' (first | (simp; done) | split | simp_all)

@[simp] theorem srcOr_fixed (s : State) (w op : Nat) (d : W64) (a : TWord) (a0 : Option TWord) :
    fixed (srcState (srcOr s w op d a a0)) = fixed s := by
  unfold srcOr
  split <;> simp

@[simp] theorem elemStep_fixed (s : State) (w op : Nat) (d1 d2 : W64) (b : Blk) (u? v? : Option TWord) :
    fixed (elemState (elemStep s w op d1 d2 b u? v?)) = fixed s := by
  unfold elemStep
  extract_lets o
  split
  · simp
  · split
    · exact src_fail_to ‹_› (by simp)
    · exact src_host_to ‹_› (by simp)
    · exact src_mp_to ‹_› (by simp)
    · rename_i t u e
      have h : fixed t = fixed s := src_val_to e (by simp)
      split
      · split
        · exact (src_fail_to ‹srcOr t w op d2 _ _ = _› (by simp)).trans h
        · exact (src_host_to ‹srcOr t w op d2 _ _ = _› (by simp)).trans h
        · exact (src_mp_to ‹srcOr t w op d2 _ _ = _› (by simp)).trans h
        · rw [doElem_fixed]
          exact (src_val_to ‹srcOr t w op d2 _ _ = _› (by simp)).trans h
      · split
        · exact h
        · rw [doElem_fixed, h]

@[simp] theorem blkFinish_fixed (s : State) (w : Nat) (hit : Bool) :
    fixed (blkFinish s w hit) = fixed s := by
  simp [blkFinish]

@[simp] theorem blkSteps_fixed (s : State) (w op : Nat) (d1 d2 : W64) (host : Bool) (k : Nat) (a1 a2 : Option TWord) :
    fixed (resState (blkSteps s w op d1 d2 host k a1 a2)) = fixed s := by
  induction k generalizing s host a1 a2 with
  | zero => unfold blkSteps; split <;> simp
  | succ k ih =>
    unfold blkSteps
    split
    · simp
    · have h := elemStep_fixed s w op d1 d2 (getWheel s w).blk a1 a2
      dsimp only
      generalize elemStep s w op d1 d2 (getWheel s w).blk a1 a2 = r at h ⊢
      rcases r with ⟨t, _ | _⟩ | ⟨t, u⟩ | ⟨t, q⟩ | ⟨t, e⟩
      · exact (ih _ _ _ _).trans h
      · exact (blkFinish_fixed ..).trans h
      · simpa using h
      · simpa using h
      · exact h

@[simp] theorem blockOp_fixed (s : State) (w o steps : Nat) : fixed (blockOp s w o steps) = fixed s := by
  unfold blockOp
  refine issue_fixed _ _ _ _ _ fun s => ?_
  extract_lets x
  split
  · split
    · rfl
    · split
      · rfl
      · exact (blkSteps_fixed ..).trans (modWheel_fixed ..)
  · split
    · rfl
    · split
      · rfl
      · split
        · rfl
        · split
          · rfl
          · split
            · rfl
            · exact (blkSteps_fixed ..).trans (modWheel_fixed ..)

/-! ### WFlow -/

@[simp] theorem noteSh_fixed (s : State) (w : Nat) (x : Wheel) :
    fixed (noteSh s w x) = fixed s := by
  unfold noteSh
  split <;> simp

@[simp] theorem fill_fixed (w : Nat) (a0 : Nat) (s : State) :
    fixed (fill w a0 s) = fixed s := by
  induction a0 generalizing s with
  | zero => rfl
  | succ k ih => simp [fill, ih]

@[simp] theorem windowTo_fixed (s : State) (w vb : Nat) :
    fixed (windowTo s w vb) = fixed s := by
  simp [windowTo]

@[simp] theorem goto_fixed (s : State) (w op : Nat) (t : W32) (f : Wheel → Wheel) :
    fixed (resState (goto s w op t f)) = fixed s := by
  unfold goto
  split <;> simp

@[simp] theorem gotoRel_fixed (s : State) (w op : Nat) (ofs : Int) (f : Wheel → Wheel) :
    fixed (resState (gotoRel s w op ofs f)) = fixed s := by
  unfold gotoRel
  repeat' (first | (simp; done) | split | simp_all)

@[simp] theorem callRel_fixed (s : State) (w op len : Nat) (ofs : Int) :
    fixed (resState (callRel s w op len ofs)) = fixed s := by
  unfold callRel
  repeat' (first | (simp; done) | split | simp_all)

@[simp] theorem branch_fixed (s : State) (w op : Nat) (ext : List Nat) (kind : Nat) (ofs : Int) :
    fixed (branch s w op ext kind ofs) = fixed s := by
  unfold branch
  repeat' (first | (simp; done) | refine issue_fixed _ _ _ _ _ fun s => ?_ | split | simp_all)

@[simp] theorem tagTest_fixed (s : State) (w op : Nat) (t : Nat) (sense : Bool) (ofs : Int) :
    fixed (tagTest s w op t sense ofs) = fixed s := by
  unfold tagTest
  repeat' (first | (simp; done) | refine issue_fixed _ _ _ _ _ fun s => ?_ | split | simp_all)

@[simp] theorem enterShadow_fixed (s : State) (w delta : Nat) :
    fixed (enterShadow s w delta) = fixed s := by
  unfold enterShadow
  repeat' (first | (simp; done) | split | simp_all)

@[simp] theorem returnWindow_fixed (s : State) (w r : Nat) (e : W32) :
    fixed (returnWindow s w r e) = fixed s := by
  simp [returnWindow]

/-! ### Loop -/

@[simp] theorem pushOcc_fixed (s : State) (leat : Bool) (idx : Nat) (v : TWord) :
    fixed (pushOcc s leat idx v) = fixed s := by
  unfold pushOcc
  repeat' (first | (simp; done) | refine foldl_to (fun s a => ?_) ?_ | split)

@[simp] theorem stopDone_fixed (s : State) (w t : Nat) :
    fixed (stopDone s w t) = fixed s := by
  simp [stopDone]

@[simp] theorem park_fixed (s : State) (w : Nat) :
    fixed (park s w) = fixed s := by
  unfold park
  repeat' (first | (simp; done) | split | simp_all)

@[simp] theorem enterCode_fixed (s : State) (w e : Nat) (c : W32) :
    fixed (enterCode s w e c) = fixed s := by
  simp [enterCode]

@[simp] theorem badDispatch_fixed (s : State) (w e : Nat) (n : WakeEnt) (num : Nat) (info : TWord) :
    fixed (badDispatch s w e n num info) = fixed s := by
  simp [badDispatch]

@[simp] theorem dispatch_fixed (s : State) (w e : Nat) :
    fixed (dispatch s w e) = fixed s := by
  unfold dispatch
  repeat' (first | (simp; done) | split | simp_all)

@[simp] theorem dispatchFrom_fixed  (a0 : Nat) (s : State) (a2 : Nat) :
    fixed (dispatchFrom a0 s a2) = fixed s := by
  induction a0 generalizing s with
  | zero => rfl
  | succ k ih =>
    simp only [dispatchFrom]
    split
    · split
      · rfl
      · split
        · split <;> simp
        · simp [ih]
    · rfl

@[simp] theorem dispatchNext_fixed (s : State) (w : Nat) :
    fixed (dispatchNext s w) = fixed s := by
  simp [dispatchNext]

@[simp] theorem replaceWake_fixed (s : State) (w e : Nat) (v : TWord) :
    fixed (replaceWake s w e v) = fixed s := by
  unfold replaceWake
  repeat' (first | (simp; done) | split | simp_all)

@[simp] theorem wakeEntry_fixed (s : State) (w e : Nat) (v : TWord) (stamp : Nat) :
    fixed (wakeEntry s w e v stamp) = fixed s := by
  unfold wakeEntry
  repeat' (first | (simp; done) | split | simp_all)

@[simp] theorem occurrence_fixed (s : State) (w e : Nat) :
    fixed (occurrence s w e) = fixed s := by
  unfold occurrence
  repeat' (first | (simp; done) | split | simp_all)

@[simp] theorem overrunSail_fixed (s : State) (j : Nat) :
    fixed (overrunSail s j) = fixed s := by
  unfold overrunSail
  repeat' (first | (simp; done) | split | simp_all)

@[simp] theorem expire_fixed (s : State) (w t e : Nat) (written : List Nat) (count : W32) (pending : Bool) :
    fixed (expire s w t e written count pending).1 = fixed s := by
  simp [expire]

@[simp] theorem expiry_fixed (s : State) (w : Nat) (pend : Option Nat) (count : W32) :
    fixed (expiry s w pend count) = fixed s := by
  unfold expiry
  repeat' (first | (simp; done) | split | simp_all)

/-! ### WLoop -/

@[simp] theorem reloadEntries_fixed (s : State) (w : Nat) (a0 : List (Nat × Nat)) :
    fixed (reloadEntries s w a0).1 = fixed s := by
  induction a0 generalizing s with
  | nil => simp [reloadEntries]
  | cons p t ih =>
    simp only [reloadEntries]
    split <;> simp [ih]

@[simp] theorem waitPark_fixed (s : State) (w : Nat) :
    fixed (waitPark s w) = fixed s := by
  simp [waitPark]

@[simp] theorem sailTo_fixed (s : State) (w op j : Nat) (d : TWord) :
    fixed (resState (sailTo s w op j d)) = fixed s := by
  unfold sailTo
  repeat' (first | (simp; done) | split | simp_all)

@[simp] theorem tellPut_fixed (s : State) (w : Nat) (r : TellRec) :
    fixed (tellPut s w r) = fixed s := by
  simp [tellPut]

@[simp] theorem readWords_fixed (s : State) (w op : Nat) (a0 : List Nat) :
    fixed (resState (readWords s w op a0)) = fixed s := by
  induction a0 generalizing s with
  | nil => rfl
  | cons i t ih =>
    simp only [readWords]
    split
    · exact err_fixed ‹_› (by simp)
    · split
      · exact pair_ok_to ‹_› (by simp)
      · split
        · exact err_fixed ‹_› ((ih _).trans (pair_ok_to ‹readFrame s w op i = _› (by simp)))
        · exact pair_ok_to ‹readWords _ w op t = _› ((ih _).trans (pair_ok_to ‹readFrame s w op i = _› (by simp)))

@[simp] theorem prim_fixed (s : State) (w op n : Nat) (ws : List Nat) (tags : List TWord → List TWord → Option Exc)
    (law : List TWord → List TWord → Except Exc (TWord × List (Nat × TWord))) :
    fixed (resState (prim s w op n ws tags law)) = fixed s := by
  unfold prim
  repeat' (first
    | (simp; done)
    | refine issue_fixed _ _ _ _ _ fun s => ?_
    | refine resumeOp_fixed _ _ _ fun s => ?_
    | split
    | (refine pair_ok_to (by assumption) ?_; simp; done)
    | (refine pair_err_to (by assumption) ?_; simp; done)
    | (refine ok_fixed (by assumption) ?_; simp; done)
    | (refine err_fixed (by assumption) ?_; simp; done)
    | (refine exc_ok_to (by assumption) ?_; simp; done)
    | (refine exc_err_to (by assumption) ?_; simp; done)
    | (refine src_val_to (by assumption) ?_; simp; done)
    | (refine src_host_to (by assumption) ?_; simp; done)
    | (refine src_mp_to (by assumption) ?_; simp; done)
    | (refine src_fail_to (by assumption) ?_; simp; done)
    | refine forAll_to (fun s n => ?_) ?_
    | refine foldl_to (fun s a => ?_) ?_
    | refine foldl_fst_to (fun p a => ?_) ?_
    | simp_all)

@[simp] theorem scaleOp_fixed (s : State) (w op i : Nat) (val : W32 → Int) :
    fixed (scaleOp s w op i val) = fixed s := by
  unfold scaleOp
  repeat' (first | (simp; done) | refine issue_fixed _ _ _ _ _ fun s => ?_ | split)

/-! ### Micro -/

@[simp] theorem microStep_fixed (s : State) (w op opf sop g : Nat) (u : BitVec 112) (m : MicroSt) :
    fixed (microState (microStep s w op opf sop g u m)) = fixed s := by
  unfold microStep
  extract_lets
  rename_i go
  have hg (t n) : fixed (microState (go t n)) = fixed t := by
    simp only [go]
    split <;> rfl
  split
  · rfl
  · split
    · rfl
    · split
      · rfl
      · split
        · rfl
        · split
          · rfl
          · split
            · split
              · exact err_fixed ‹_› (readFrame_fixed ..)
              · exact (hg _ _).trans (pair_ok_to ‹_› (readFrame_fixed ..))
            · exact hg _ _

@[simp] theorem microEnd_fixed (s : State) (w : Nat) (d : W64) (m : MicroSt) (r : TWord) :
    fixed (microEnd s w d m r) = fixed s := by
  unfold microEnd
  repeat' (first | (simp; done) | refine foldl_to (fun s a => ?_) ?_ | split)

@[simp] theorem microRun_fixed (w op opf sop g : Nat) (d : W64) (k : Nat) (s : State) (a : Nat) (m : MicroSt) :
    fixed (resState (microRun w op opf sop g d k s a m)) = fixed s := by
  induction k generalizing s a m with
  | zero => exact modWheel_fixed s w fun x => { x with stall := .endless, stallOp := BitVec.ofNat 14 op }
  | succ k ih =>
    have h := microStep_fixed s w op opf sop g (tget 0 (getMill s (millOf w)).cstore (a % 0x2000)) m
    change fixed (resState (match microStep s w op opf sop g (tget 0 (getMill s (millOf w)).cstore (a % 0x2000)) m
        with
      | .fail s e => .error (s, e)
      | .fin s m r => .ok (microEnd s w d m r, .next)
      | .go n s m => microRun w op opf sop g d k s n m)) = _
    generalize microStep s w op opf sop g _ m = r at h ⊢
    rcases r with ⟨n, t, m⟩ | ⟨t, m, r⟩ | ⟨t, e⟩
    · exact (ih _ _ _).trans h
    · exact (microEnd_fixed ..).trans h
    · exact h

/-! ### Except -/

@[simp] theorem lockUp_fixed (s : State) (w : Nat) :
    fixed (lockUp s w) = fixed s := by
  simp [lockUp]

@[simp] theorem guardEntry_fixed (s : State) (w num reason : Nat) (r : DRef) (parked : Bool) (info info2 : TWord) :
    fixed (guardEntry s w num reason r parked info info2) = fixed s := by
  unfold guardEntry
  extract_lets x c s1 s2 s3
  have h1 : fixed s1 = fixed s := foldl_fixed _ _ (fun _ _ => retWrite_fixed ..) _
  have h2 : fixed s2 = fixed s1 := (modWheel_fixed ..).trans (landWant_fixed ..)
  rw [withdrawWheel_fixed, logEntry_fixed, traceRec_fixed, h2, h1]

@[simp] theorem enterHandler_fixed (s : State) (w : Nat) (t : Taken) (parked : Bool) :
    fixed (enterHandler s w t parked) = fixed s := by
  unfold enterHandler
  extract_lets x r d base words s1 s2
  have h1 : fixed s1 = fixed s := modWheel_fixed ..
  have h2 : fixed s2 = fixed s1 := foldl_fixed _ _ (fun _ _ => spadWrite_fixed ..) _
  rw [traceRec_fixed, modWheel_fixed, landWant_fixed, h2, h1]

@[simp] theorem restore_fixed (s : State) (w : Nat) (l : List TWord) :
    fixed (resState (restore s w l)) = fixed s := by
  unfold restore
  split <;> simp

@[simp] theorem guardPark_fixed (s : State) (w : Nat) :
    fixed (guardPark s w) = fixed s := by
  simp [guardPark]

@[simp] theorem guardResetRaise_fixed (s : State) (w : Nat) :
    fixed (guardResetRaise s w) = fixed s := by
  simp [guardResetRaise]

@[simp] theorem drainCheck_fixed (s : State) (w : Nat) :
    fixed (drainCheck s w) = fixed s := by
  unfold drainCheck
  repeat' (first | (simp; done) | split | simp_all)

@[simp] theorem guardLock_fixed (s : State) (w : Nat) :
    fixed (guardLock s w) = fixed s := by
  simp [guardLock]

@[simp] theorem guardRte_fixed (s : State) (w : Nat) : fixed (resState (guardRte s w)) = fixed s := by
  unfold guardRte
  extract_lets a s1 s2 l
  have h1 : fixed s1 = fixed s := traceRec_fixed ..
  have h2 : fixed s2 = fixed s := (foldl_fixed _ _ (fun _ _ => noteRead_fixed ..) _).trans h1
  clear_value l s2
  split
  · exact (lockUp_fixed ..).trans h2
  · split
    · exact (lockUp_fixed ..).trans h2
    · split
      · split
        · exact (lockUp_fixed ..).trans h2
        · split
          · exact (lockUp_fixed ..).trans h2
          · exact (restore_fixed ..).trans h2
      · split
        · exact (guardPark_fixed ..).trans h2
        · split
          · exact (drainCheck_fixed ..).trans ((modWheel_fixed ..).trans h2)
          · exact (lockUp_fixed ..).trans h2

@[simp] theorem plainRte_fixed (s : State) (w : Nat) : fixed (resState (plainRte s w)) = fixed s := by
  unfold plainRte
  extract_lets x op r d base ad l s1
  have h1 : fixed s1 = fixed s := by
    simp only [s1]
    split
    · exact foldl_fixed _ _ (fun _ _ => noteRead_fixed ..) _
    · rfl
  clear_value l s1
  split
  · exact h1
  · rename_i gu v s2 _ _
    have hg (n m) : fixed (resState (gu n m)) = fixed s := by
      simp only [gu]
      rw [resState_ok, guardEntry_fixed, h1]
    have h2 : fixed s2 = fixed s := (modWheel_fixed ..).trans h1
    clear_value gu s2
    split
    · exact hg _ _
    · split
      · exact hg _ _
      · split
        · exact hg _ _
        · exact (restore_fixed ..).trans ((traceRec_fixed ..).trans h2)

/-! ### WSys -/

@[simp] theorem superOp_fixed (s : State) (w op need pop push : Nat) (f : State → Wheel → Res) (h_f : ∀ s x, fixed
    (resState (f s x)) = fixed s) :
    fixed (superOp s w op need pop push f) = fixed s := by
  unfold superOp
  repeat' (first | (simp; done) | refine issue_fixed _ _ _ _ _ fun s => ?_ | split | simp_all)

@[simp] theorem setSeg_fixed (s : State) (world : Bool) (i : Nat) (d : W64) :
    fixed (setSeg s world i d) = fixed s := by
  unfold setSeg
  split <;> simp

@[simp] theorem pstoreFinish_fixed (s : State) (w o : Nat) (v : BitVec 14) :
    fixed (pstoreFinish s w o v) = fixed s := by
  simp [pstoreFinish]

@[simp] theorem pstoreStep_fixed (s : State) (w o : Nat) (v : BitVec 14) (switched : Bool) :
    fixed (pstoreStep s w o v switched) = fixed s := by
  unfold pstoreStep
  repeat' (first | (simp; done) | split)

end Sys2Proof.Machine
end

