-- ==== Sys2Proof/Laws/FixedUnits.lean ====
section
/-! SUPPORT. What no command touches, for the operations of the units around the wheels. -/

namespace Sys2Proof.Machine

/-! ### Hop -/

@[simp] theorem finish_fixed (s : State) (h : HopId) (n status detail : Nat) (results : List W64) :
    fixed (finish s h n status detail results) = fixed s := by
  unfold finish
  split <;> simp

@[simp] theorem reject_fixed (s : State) (h : HopId) (n status detail : Nat) :
    fixed (reject s h n status detail) = fixed s := by
  simp [reject]

@[simp] theorem begin__fixed (s : State) (h : HopId) (n phase : Nat) (holds : List Obj) (clamps : List Clamp) (aux :
    List Nat) :
    fixed (begin_ s h n phase holds clamps aux) = fixed s := by
  simp [begin_]

/-! ### Plant -/

@[simp] theorem calibEnd_fixed (s : State) (c : Calib) (status : Nat) :
    fixed (calibEnd s c status) = fixed s := by
  simp [calibEnd]

@[simp] theorem calibDone_fixed (s : State) :
    fixed (calibDone s) = fixed s := by
  unfold calibDone
  repeat' (first | (simp; done) | refine foldl_to (fun s a => ?_) ?_ | split)

@[simp] theorem calibNext_fixed  (a0 : Nat) (s : State) :
    fixed (calibNext a0 s) = fixed s := by
  induction a0 generalizing s with
  | zero => rfl
  | succ k ih =>
    simp only [calibNext]
    repeat' (first | (simp [ih]; done) | split)

@[simp] theorem calibGo_fixed (s : State) :
    fixed (calibGo s) = fixed s := by
  simp [calibGo]

@[simp] theorem calibWord_fixed (s : State) (n : Nat) (d : W32) :
    fixed (calibWord s n d) = fixed s := by
  unfold calibWord
  repeat' (first | (simp; done) | split)

@[simp] theorem leatPost_fixed (s : State) (n : Nat) (d : W32) :
    fixed (leatPost s n d) = fixed s := by
  unfold leatPost
  repeat' (first | (simp; done) | split | simp_all)

@[simp] theorem fbSetPos_fixed (s : State) (n : Nat) (v : W32) :
    fixed (fbSetPos s n v) = fixed s := by
  unfold fbSetPos
  repeat' (first | (simp; done) | split | simp_all)

@[simp] theorem fbWrite_fixed (s : State) (n reg : Nat) (v : W64) (be : BitVec 8) :
    fixed (fbWrite s n reg v be) = fixed s := by
  unfold fbWrite
  repeat' (first | (simp; done) | split | simp_all)

@[simp] theorem fbstWrite_fixed (s : State) (n : Nat) (v : W64) :
    fixed (fbstWrite s n v) = fixed s := by
  simp [fbstWrite]

@[simp] theorem fbInject_fixed (s : State) (p : Nat) (w : BitVec 8 → W32) :
    fixed (fbInject s p w) = fixed s := by
  unfold fbInject
  split <;> simp

@[simp] theorem fbPostPos_fixed (s : State) (n : Nat) :
    fixed (fbPostPos s n) = fixed s := by
  unfold fbPostPos
  repeat' (first | (simp; done) | split | simp_all)

@[simp] theorem fbPostSpd_fixed (s : State) (n : Nat) :
    fixed (fbPostSpd s n) = fixed s := by
  unfold fbPostSpd
  repeat' (first | (simp; done) | split | simp_all)

@[simp] theorem fbSnapshot_fixed (s : State) (t : Nat) :
    fixed (fbSnapshot s t) = fixed s := by
  unfold fbSnapshot
  repeat' (first | (simp; done) | refine forAll_to (fun s n => ?_) ?_ | split | simp_all)

@[simp] theorem emuWrite_fixed (s : State) (n : Nat) (v : W64) (be : BitVec 8) :
    fixed (emuWrite s n v be) = fixed s := by
  unfold emuWrite
  repeat' (first | (simp; done) | split | simp_all)

@[simp] theorem weirPulse_fixed (s : State) (w : Nat) :
    fixed (weirPulse s w) = fixed s := by
  simp [weirPulse]

@[simp] theorem weirClear_fixed (s : State) (w : Nat) :
    fixed (weirClear s w) = fixed s := by
  unfold weirClear
  split <;> simp

@[simp] theorem weirWrite_fixed (s : State) (w : Nat) (v : W64) (be : BitVec 8) :
    fixed (weirWrite s w v be) = fixed s := by
  unfold weirWrite
  repeat' (first | (simp; done) | split | simp_all)

@[simp] theorem weirstWrite_fixed (s : State) (w : Nat) (v : W64) :
    fixed (weirstWrite s w v) = fixed s := by
  unfold weirstWrite
  repeat' (first | (simp; done) | split)

@[simp] theorem weirTrip_fixed (s : State) (w : Nat) :
    fixed (weirTrip s w) = fixed s := by
  simp [weirTrip]

@[simp] theorem weirBoundary_fixed (s : State) (t : Nat) :
    fixed (weirBoundary s t) = fixed s := by
  unfold weirBoundary
  repeat' (first | (simp; done) | refine forAll_to (fun s n => ?_) ?_ | split | simp_all)

@[simp] theorem sluiceErr_fixed (s : State) (g : Nat) :
    fixed (sluiceErr s g) = fixed s := by
  simp [sluiceErr]

@[simp] theorem armHigh_fixed (s : State) (g : Nat) (pulsed : Bool) :
    fixed (armHigh s g pulsed) = fixed s := by
  simp [armHigh]

@[simp] theorem sluiceArm_fixed (s : State) (g : Nat) (set dis re : Bool) :
    fixed (sluiceArm s g set dis re) = fixed s := by
  unfold sluiceArm
  repeat' (first | (simp; done) | split | simp_all)

@[simp] theorem sluiceWrite_fixed (s : State) (g : Nat) (v : W64) :
    fixed (sluiceWrite s g v) = fixed s := by
  unfold sluiceWrite
  split <;> simp

/-! ### Pair -/

@[simp] theorem rolePair_fixed (s : State) :
    fixed (rolePair s) = fixed s := by
  unfold rolePair
  split <;> simp

@[simp] theorem drvRest_fixed (s : State) :
    fixed (drvRest s) = fixed s := by
  unfold drvRest
  split <;> simp

@[simp] theorem enterHeld_fixed (s : State) :
    fixed (enterHeld s) = fixed s := by
  simp [enterHeld]

@[simp] theorem sendMsg_fixed (s : State) (m : CtlMsg) :
    fixed (sendMsg s m) = fixed s := by
  simp [sendMsg]

@[simp] theorem ackMsg_fixed (s : State) (c : BitVec 16) :
    fixed (ackMsg s c) = fixed s := by
  unfold ackMsg
  repeat' (first | (simp; done) | split | simp_all)

@[simp] theorem stepTime_fixed (s : State) (d : Int) :
    fixed (stepTime s d) = fixed s := by
  simp [stepTime]

@[simp] theorem slewTime_fixed (s : State) (d : Int) :
    fixed (slewTime s d) = fixed s := by
  simp [slewTime]

@[simp] theorem stageOne_fixed (s : State) (i : Intent) (b : W64) :
    fixed (stageOne s i b) = fixed s := by
  unfold stageOne
  repeat' (first | (simp; done) | split | simp_all)

@[simp] theorem stageIntent_fixed (s : State) (i : Intent) :
    fixed (stageIntent s i) = fixed s := by
  unfold stageIntent
  repeat' (first | (simp; done) | refine foldl_to (fun s a => ?_) ?_ | split)

@[simp] theorem ffPost_fixed (s : State) (t : Nat) (now : W64) (old : Option W64) (o : Nat) :
    fixed (ffPost s t now old o) = fixed s := by
  unfold ffPost
  repeat' (first | (simp; done) | refine forAll_to (fun s n => ?_) ?_ | split)

@[simp] theorem dropStaged_fixed (s : State) (w slot : Nat) :
    fixed (dropStaged s w slot) = fixed s := by
  simp [dropStaged]

@[simp] theorem selfClear_fixed (s : State) (d : FrameDef) :
    fixed (selfClear s d) = fixed s := by
  simp [selfClear]

@[simp] theorem divOutcome_fixed (s : State) (c : DivChk) (own peer : Bool) :
    fixed (divOutcome s c own peer) = fixed s := by
  unfold divOutcome
  repeat' (first | (simp; done) | split | simp_all)

@[simp] theorem divSettle_fixed (s : State) :
    fixed (divSettle s) = fixed s := by
  unfold divSettle
  repeat' (first | (simp; done) | split)

@[simp] theorem divOwn_fixed (s : State) :
    fixed (divOwn s) = fixed s := by
  unfold divOwn
  repeat' (first | (simp; done) | split)

@[simp] theorem divFlag_fixed (s : State) (j diff : Nat) (p : BitVec 16) :
    fixed (divFlag s j diff p) = fixed s := by
  unfold divFlag
  repeat' (first | (simp; done) | split | simp_all)

@[simp] theorem compareDuty_fixed (s : State) (own drv : DutyRec) :
    fixed (compareDuty s own drv) = fixed s := by
  unfold compareDuty
  repeat' (first | (simp; done) | split | simp_all)

@[simp] theorem meetDuty_fixed (s : State) (j : Nat) :
    fixed (meetDuty s j) = fixed s := by
  unfold meetDuty
  repeat' (first | (simp; done) | split | simp_all)

@[simp] theorem mirrorDuty_fixed (s : State) (t : Nat) (p : BitVec 16) : fixed (mirrorDuty s t p) = fixed s := by
  unfold mirrorDuty
  split
  · refine forAll_to (fun s j => ?_) rfl
    split
    · split
      · exact modTwin_fixed ..
      · exact (meetDuty_fixed ..).trans (modTwin_fixed ..)
    · rfl
  · rfl

@[simp] theorem noteFrame_fixed (s : State) (d : FrameDef) :
    fixed (noteFrame s d) = fixed s := by
  simp [noteFrame]

@[simp] theorem stageRec_fixed (s : State) (r : StateRec) :
    fixed (stageRec s r) = fixed s := by
  unfold stageRec
  repeat' (first | (simp; done) | split | simp_all)

@[simp] theorem joinFail_fixed (s : State) (status jerr : Nat) :
    fixed (joinFail s status jerr) = fixed s := by
  unfold joinFail
  split <;> simp

@[simp] theorem joinDiffer_fixed (s : State) (jerr : Nat) :
    fixed (joinDiffer s jerr) = fixed s := by
  simp [joinDiffer]

@[simp] theorem joinOnce_fixed (s : State) : fixed (joinOnce s) = fixed s := by
  unfold joinOnce
  split
  · rfl
  · rename_i slot step newc _
    extract_lets goTo waits
    have hg : ∀ s k, fixed (goTo s k) = fixed s := fun _ _ => modTwin_fixed ..
    have hf : ∀ l s, fixed (List.foldl sendMsg s l) = fixed s := fun l s => foldl_fixed _ _ (fun _ _ =>
        sendMsg_fixed ..) _
    clear_value goTo waits
    repeat' (first | (simp +zetaDelta [hg, hf]; done) | split)

@[simp] theorem joinAdvance_fixed (s : State) :
    fixed (joinAdvance s) = fixed s := by
  simp [joinAdvance]

@[simp] theorem leaveEnd_fixed (s : State) (status : Nat) :
    fixed (leaveEnd s status) = fixed s := by
  unfold leaveEnd
  split <;> simp

@[simp] theorem leaveStep_fixed (s : State) :
    fixed (leaveStep s) = fixed s := by
  simp [leaveStep]

@[simp] theorem joinCut_fixed (s : State) (status jerr : Nat) :
    fixed (joinCut s status jerr) = fixed s := by
  unfold joinCut
  split <;> simp

@[simp] theorem declareLost_fixed (s : State) :
    fixed (declareLost s) = fixed s := by
  unfold declareLost
  repeat' (first | (simp; done) | split | simp_all)

@[simp] theorem boundaryDrive_fixed (s : State) (t : Nat) (idx : BitVec 16) :
    fixed (boundaryDrive s t idx) = fixed s := by
  unfold boundaryDrive
  repeat' (first | (simp; done) | split | simp_all)

/-! ### Boundary -/

@[simp] theorem stopFrame_fixed (s : State) (f : Nat) (d : FrameDef) :
    fixed (stopFrame s f d) = fixed s := by
  unfold stopFrame
  repeat' (first | (simp; done) | refine forAll_to (fun s n => ?_) ?_ | split | simp_all)

@[simp] theorem armFrame_fixed (s : State) (f : Nat) (d : FrameDef) :
    fixed (armFrame s f d) = fixed s := by
  unfold armFrame
  repeat' (first | (simp; done) | refine forAll_to (fun s n => ?_) ?_ | split)

@[simp] theorem dwellFrame_fixed (s : State) (d : FrameDef) :
    fixed (dwellFrame s d) = fixed s := by
  unfold dwellFrame
  repeat' (first | (simp; done) | split | simp_all)

@[simp] theorem askSteal_fixed (s : State) (w : Nat) (r : StealReq) :
    fixed (askSteal s w r) = fixed s := by
  simp [askSteal]

@[simp] theorem nextTdest_fixed (s : State) (w : Nat) :
    fixed (nextTdest s w) = fixed s := by
  unfold nextTdest
  repeat' (first | (simp; done) | split)

@[simp] theorem askTdest_fixed (s : State) (w slot : Nat) :
    fixed (askTdest s w slot) = fixed s := by
  simp [askTdest]

@[simp] theorem moveEvents_fixed (s : State) (m m' : Nat) :
    fixed (moveEvents s m m') = fixed s := by
  simp [moveEvents]

@[simp] theorem settleStandby_fixed (s : State) :
    fixed (settleStandby s) = fixed s := by
  unfold settleStandby
  repeat' (first | (simp; done) | split | simp_all)

@[simp] theorem moveWakes_fixed (s : State) (w t w' t' : Nat) (l : List ((Nat × Nat) × Option LineCopy)) :
    fixed (moveWakes s w t w' t' l) = fixed s := by
  induction l generalizing s with
  | nil => rfl
  | cons p l ih =>
    unfold moveWakes
    extract_lets n s1 s2 s3
    exact (ih _).trans ((modWheel_fixed ..).trans ((modWheel_fixed ..).trans ((modWake_fixed ..).trans
        (modWake_fixed ..))))

@[simp] theorem moveStaged_fixed (s : State) (w t w' t' : Nat) :
    fixed (moveStaged s w t w' t') = fixed s := by
  simp [moveStaged]

@[simp] theorem copyWheel_fixed (s : State) (w w' : Nat) :
    fixed (copyWheel s w w') = fixed s := by
  unfold copyWheel
  repeat' (first | (simp; done) | refine foldl_to (fun s a => ?_) ?_ | split)

@[simp] theorem moveFrame_fixed (s : State) (f : Nat) (d : FrameDef) (w' : Nat) :
    fixed (moveFrame s f d w') = fixed s := by
  unfold moveFrame
  extract_lets w t es fr sails ws mp s1 s2 home g
  have h1 : fixed s1 = fixed s := noteFw_fixed ..
  have h2 : fixed s2 = fixed s := by
    simp only [s2]
    split
    · exact h1
    · exact (copyWheel_fixed ..).trans h1
  split
  · rfl
  · split
    · rfl
    · extract_lets s3 s4 s5 s6
      have h3 : fixed s3 = fixed s2 := foldl_fixed _ _ (fun _ _ => setFw_fixed ..) _
      have h4 : fixed s4 = fixed s3 := (moveStaged_fixed ..).trans (moveWakes_fixed ..)
      have h5 : fixed s5 = fixed s4 := askTdest_fixed ..
      have h6 : fixed s6 = fixed s5 := forAll_to (fun _ _ => modSail_fixed ..) rfl
      rw [settleStandby_fixed, modFrame_fixed, h6, h5, h4, h3, h2]

@[simp] theorem moveDue_fixed (s : State) (f : Nat) (d : FrameDef) :
    fixed (moveDue s f d) = fixed s := by
  unfold moveDue
  repeat' (first | (simp; done) | split | simp_all)

@[simp] theorem eachFrame_fixed (s : State) (l : List Nat) (g : State → Nat → FrameDef → State) (h_g : ∀ s n d,
    fixed (g s n d) = fixed s) :
    fixed (eachFrame s l g) = fixed s := by
  unfold eachFrame
  repeat' (first | (simp; done) | refine forAll_to (fun s n => ?_) ?_ | split | simp_all)

@[simp] theorem armDue_fixed (s : State) (t : Nat) :
    fixed (armDue s t) = fixed s := by
  unfold armDue
  repeat' (first | (simp; done) | refine forAll_to (fun s n => ?_) ?_ | split | simp_all)

@[simp] theorem armAndCount_fixed (s : State) (t : Nat) (idx : BitVec 16) :
    fixed (armAndCount s t idx) = fixed s := by
  unfold armAndCount
  split <;> simp

@[simp] theorem boundary_fixed (s : State) (t : Nat) (idx : BitVec 16) : fixed (boundary s t idx) = fixed s := by
  unfold boundary
  extract_lets b now s1 s2 s3 s4 s5 s6 s7 s8
  have h1 : fixed s1 = fixed s := by
    simp only [s1]
    split
    · exact forAll_to (fun _ _ => raiseEv_fixed ..) rfl
    · rfl
  have h2 : fixed s2 = fixed s := (modTb_fixed ..).trans h1
  split
  · have h5 : fixed s5 = fixed s4 := eachFrame_fixed _ _ _ fun _ _ _ => by split <;> simp
    have h6 : fixed s6 = fixed s5 := eachFrame_fixed _ _ _ fun _ _ _ => dwellFrame_fixed ..
    have h7 : fixed s7 = fixed s6 := eachFrame_fixed _ _ _ fun _ _ _ => moveDue_fixed ..
    have h4 : fixed s4 = fixed s := (boundaryDrive_fixed ..).trans ((mirrorDuty_fixed ..).trans h2)
    have h8 : fixed s8 = fixed s7 := (weirBoundary_fixed ..).trans (fbSnapshot_fixed ..)
    rw [ffPost_fixed, armAndCount_fixed, h8, h7, h6, h5, h4]
  · exact h2

@[simp] theorem flipWake_fixed (s : State) (w e t : Nat) :
    fixed (flipWake s w e t) = fixed s := by
  unfold flipWake
  split <;> simp

@[simp] theorem startFrame_fixed (s : State) (f : Nat) (d : FrameDef) : fixed (startFrame s f d) = fixed s := by
  unfold startFrame
  extract_lets w t s1 s2 s3 s4
  have h1 : fixed s1 = fixed s := foldl_fixed _ _ (fun _ _ => modWheel_fixed ..) _
  have h2 : fixed s2 = fixed s1 := setFstat_fixed ..
  have h3 : fixed s3 = fixed s2 := by
    simp only [s3]
    split
    · exact (setFw_fixed ..).trans ((setFstat_fixed ..).trans (setFstat_fixed ..))
    · rfl
  have h4 : fixed s4 = fixed s3 := forAll_to (fun _ _ => modSail_fixed ..) rfl
  rw [modFrame_fixed, h4, h3, h2, h1]

@[simp] theorem countStart_fixed (s : State) (h : HopId) (n : Nat) (left : Bool) :
    fixed (countStart s h n left) = fixed s := by
  simp [countStart]

@[simp] theorem frameAct_fixed (s : State) (w : Nat) (a0 : FrameAct) :
    fixed (frameAct s w a0) = fixed s := by
  unfold frameAct
  repeat' (first | (simp; done) | split | simp_all)

@[simp] theorem wantReturn_fixed (s : State) (w j : Nat) : fixed (wantReturn s w j) = fixed s := by
  unfold wantReturn
  split
  · split
    · exact (failAt_fixed ..).trans (modWheel_fixed ..)
    · rfl
  · exact modWheel_fixed ..

/-! ### MemPort -/

@[simp] theorem notePassed_fixed (s : State) (b w : Nat) :
    fixed (notePassed s b w) = fixed s := by
  simp [notePassed]

@[simp] theorem grantLoad_fixed (s : State) (w : Nat) :
    fixed (grantLoad s w) = fixed s := by
  unfold grantLoad
  split <;> simp

@[simp] theorem grantStore_fixed (s : State) (w : Nat) :
    fixed (grantStore s w) = fixed s := by
  unfold grantStore
  repeat' (first | (simp; done) | refine foldl_to (fun s a => ?_) ?_ | split)

@[simp] theorem returnLoad_fixed (s : State) (w : Nat) (ptr : Bool) (a : TWord) (l : List (TWord × Bool)) :
    fixed (returnLoad s w ptr a l) = fixed s := by
  unfold returnLoad
  repeat' (first | (simp; done) | refine resumeOp_fixed _ _ _ fun s => ?_ | split)

@[simp] theorem blkAnswer_fixed (s : State) (w : Nat) (host : Bool) (u v : Option TWord) :
    fixed (blkAnswer s w host u v) = fixed s := by
  unfold blkAnswer
  refine resumeOp_fixed _ _ _ fun s => ?_
  split
  · rfl
  · exact blkSteps_fixed ..

@[simp] theorem returnElem_fixed (s : State) (w : Nat) (second : Bool) (va a : TWord) (v : TWord × Bool) :
    fixed (returnElem s w second va a v) = fixed s := by
  unfold returnElem
  repeat' (first | (simp; done) | refine resumeOp_fixed _ _ _ fun s => ?_ | split)

@[simp] theorem afterDrain_fixed (s : State) (w : Nat) :
    fixed (afterDrain s w) = fixed s := by
  unfold afterDrain
  split <;> simp

@[simp] theorem postAnswer_fixed (s : State) (w : Nat) (accept : Bool) :
    fixed (postAnswer s w accept) = fixed s := by
  unfold postAnswer
  repeat' (first | (simp; done) | split | simp_all)

@[simp] theorem blkStored_fixed (s : State) (w : Nat) :
    fixed (blkStored s w) = fixed s := by
  unfold blkStored
  repeat' (first
    | (simp; done)
    | refine issue_fixed _ _ _ _ _ fun s => ?_
    | refine resumeOp_fixed _ _ _ fun s => ?_
    | split
    | (refine pair_ok_to (by assumption) ?_; simp; done)
    | (refine pair_err_to (by assumption) ?_; simp; done)
    | (refine ok_fixed (by assumption) ?_; simp; done)
    | (refine err_fixed (by assumption) ?_; simp; done)
    | (refine exc_ok_to (by assumption) ?_; simp; done)
    | (refine exc_err_to (by assumption) ?_; simp; done)
    | (refine src_val_to (by assumption) ?_; simp; done)
    | (refine src_host_to (by assumption) ?_; simp; done)
    | (refine src_mp_to (by assumption) ?_; simp; done)
    | (refine src_fail_to (by assumption) ?_; simp; done)
    | refine forAll_to (fun s n => ?_) ?_
    | refine foldl_to (fun s a => ?_) ?_
    | refine foldl_fst_to (fun p a => ?_) ?_
    | simp_all)

@[simp] theorem stallAnswer_fixed (s : State) (w : Nat) (accept : Bool) (d0 d1 : W32) :
    fixed (stallAnswer s w accept d0 d1) = fixed s := by
  unfold stallAnswer
  repeat' (first | (simp; done) | refine resumeOp_fixed _ _ _ fun s => ?_ | split)

@[simp] theorem readbackAnswer_fixed (s : State) (accept : Bool) :
    fixed (readbackAnswer s accept) = fixed s := by
  unfold readbackAnswer
  split <;> simp

@[simp] theorem ringFull_fixed (s : State) (q : Nat) (r : TellRec) :
    fixed (ringFull s q r) = fixed s := by
  unfold ringFull
  repeat' (first | (simp; done) | split | simp_all)

@[simp] theorem serveQueue_fixed (s : State) (q : Nat) : fixed (serveQueue s q) = fixed s := by
  unfold serveQueue
  split
  · rfl
  · split
    · rfl
    · rename_i r t _ _
      have hs : fixed (forAll s (List.range 4) fun s i =>
          if mpOn s r.desc then mpNote s ((r.desc + i) % 0x400000) else mpDrop s) = fixed s :=
        forAll_to (fun s i => by split <;> simp) rfl
      extract_lets s1
      change fixed s1 = fixed s at hs
      clear_value s1
      split
      · exact (ringFull_fixed ..).trans hs
      · split
        · exact (ringFull_fixed ..).trans hs
        · exact hs

@[simp] theorem drainWrite_fixed (s : State) (d : DrainRec) :
    fixed (drainWrite s d) = fixed s := by
  unfold drainWrite
  repeat' (first | (simp; done) | refine foldl_to (fun s a => ?_) ?_ | split | simp_all)

@[simp] theorem drainPass_fixed (a0 : List DrainRec) (a1 : Nat) (a2 : List Nat) (s : State) :
    fixed (drainPass a0 a1 a2 s).1 = fixed s := by
  induction a0 generalizing a1 a2 s with
  | nil => rfl
  | cons d t ih =>
    unfold drainPass
    split
    · rfl
    · split
      · exact ih _ _ _
      · exact (ih _ _ _).trans (drainWrite_fixed ..)

@[simp] theorem drainSome_fixed (s : State) :
    fixed (drainSome s) = fixed s := by
  simp [drainSome]

@[simp] theorem poisonWord_fixed (s : State) (m : MemSel) (a : Nat) :
    fixed (poisonWord s m a) = fixed s := by
  unfold poisonWord
  split <;> simp

@[simp] theorem ueEntry_fixed (s : State) (p : MemSel × Nat) :
    fixed (ueEntry s p) = fixed s := by
  simp [ueEntry]

@[simp] theorem debugAccess_fixed (s : State) (w : Nat) (a : MemAcc) :
    fixed (debugAccess s w a) = fixed s := by
  unfold debugAccess
  repeat' (first | (simp; done) | split)

@[simp] theorem captureFrame_fixed (s : State) (w slot : Nat) :
    fixed (captureFrame s w slot) = fixed s := by
  unfold captureFrame
  repeat' (first | (simp; done) | split)

@[simp] theorem serveSteal_fixed (s : State) (w : Nat) (a0 : StealReq) :
    fixed (serveSteal s w a0) = fixed s := by
  unfold serveSteal
  split <;> simp

/-! ### Restart -/

@[simp] theorem stopAtRelease_fixed (s : State) (f : Nat) (d : FrameDef) :
    fixed (stopAtRelease s f d) = fixed s := by
  unfold stopAtRelease
  repeat' (first | (simp; done) | refine forAll_to (fun s n => ?_) ?_ | split)

@[simp] theorem stopFramesOn_fixed (s : State) (l : List Nat) :
    fixed (stopFramesOn s l) = fixed s := by
  simp [stopFramesOn]

@[simp] theorem clearSpad_fixed (s : State) (w : Nat) :
    fixed (clearSpad s w) = fixed s := by
  simp [clearSpad]

@[simp] theorem clearPinned_fixed (s : State) (w : Nat) :
    fixed (clearPinned s w) = fixed s := by
  simp [clearPinned]

@[simp] theorem clearCstore_fixed (s : State) (m : Nat) :
    fixed (clearCstore s m) = fixed s := by
  simp [clearCstore]

@[simp] theorem clearBank_fixed (s : State) (b : Nat) :
    fixed (clearBank s b) = fixed s := by
  unfold clearBank
  split <;> simp

@[simp] theorem clearMill_fixed (s : State) (m : Nat) :
    fixed (clearMill s m) = fixed s := by
  unfold clearMill
  repeat' (first | (simp; done) | refine forAll_to (fun s n => ?_) ?_ | split | simp_all)

@[simp] theorem drainNow_fixed  (a0 : Nat) (s : State) (a2 : Nat) :
    fixed (drainNow a0 s a2) = fixed s := by
  induction a0 generalizing s with
  | zero => rfl
  | succ k ih =>
    simp only [drainNow]
    repeat' (first | (simp [ih]; done) | split)

/-! ### Regs -/

@[simp] theorem millcfgWr_fixed (s : State) (v : W64) (be : BitVec 8) :
    fixed (millcfgWr s v be) = fixed s := by
  unfold millcfgWr
  repeat' (first | (simp; done) | split | simp_all)

@[simp] theorem gateMill_fixed (s : State) (m : Nat) :
    fixed (gateMill s m) = fixed s := by
  simp [gateMill]

@[simp] theorem millSet_fixed (s : State) (m freq pstate : Nat) :
    fixed (millSet s m freq pstate) = fixed s := by
  unfold millSet
  repeat' (first | (simp; done) | split | simp_all)

@[simp] theorem millctlWr_fixed (s : State) (m : Nat) (v : W64) (be : BitVec 8) :
    fixed (millctlWr s m v be) = fixed s := by
  unfold millctlWr
  repeat' (first | (simp; done) | split | simp_all)

@[simp] theorem sailcfgWr_fixed (s : State) (n : Nat) (v : W64) (be : BitVec 8) :
    fixed (sailcfgWr s n v be) = fixed s := by
  simp [sailcfgWr]

@[simp] theorem sailsafeWr_fixed (s : State) (n : Nat) (v : W64) (be : BitVec 8) :
    fixed (sailsafeWr s n v be) = fixed s := by
  unfold sailsafeWr
  repeat' (first | (simp; done) | split | simp_all)

@[simp] theorem leatcfgWr_fixed (s : State) (n : Nat) (v : W64) (be : BitVec 8) :
    fixed (leatcfgWr s n v be) = fixed s := by
  unfold leatcfgWr
  split <;> simp

@[simp] theorem memerrWr_fixed (s : State) (v : W64) (be : BitVec 8) :
    fixed (memerrWr s v be) = fixed s := by
  unfold memerrWr
  split <;> simp

@[simp] theorem mempwrstWr_fixed (s : State) (v : W64) (be : BitVec 8) :
    fixed (mempwrstWr s v be) = fixed s := by
  unfold mempwrstWr
  repeat' (first | (simp; done) | split)

@[simp] theorem pwrSet_fixed (s : State) (r : PwrReg) (v : W64) :
    fixed (pwrSet s r v) = fixed s := by
  simp [pwrSet]

@[simp] theorem pwrStart_fixed (s : State) (r : PwrReg) (new : W64) (l : List (Nat × Nat × Nat)) :
    fixed (pwrStart s r new l) = fixed s := by
  simp [pwrStart]

@[simp] theorem pwrWrite_fixed (s : State) (r : PwrReg) (v : W64) (be : BitVec 8) :
    fixed (pwrWrite s r v be) = fixed s := by
  unfold pwrWrite
  repeat' (first | (simp; done) | split | simp_all)

@[simp] theorem transEnd_fixed (s : State) (t : PwrTrans) :
    fixed (transEnd s t) = fixed s := by
  unfold transEnd
  repeat' (first | (simp; done) | split)

@[simp] theorem transDone_fixed (s : State) :
    fixed (transDone s) = fixed s := by
  unfold transDone
  split <;> simp

@[simp] theorem modSpare_fixed (s : State) (f : Spare → Spare) :
    fixed (modSpare s f) = fixed s := by
  simp [modSpare]

@[simp] theorem spareErr_fixed (s : State) :
    fixed (spareErr s) = fixed s := by
  simp [spareErr]

@[simp] theorem spareLog_fixed (s : State) :
    fixed (spareLog s) = fixed s := by
  simp [spareLog]

@[simp] theorem spareSubst_fixed (s : State) :
    fixed (spareSubst s) = fixed s := by
  unfold spareSubst
  repeat' (first | (simp; done) | split | simp_all)

@[simp] theorem spareRestore_fixed (s : State) :
    fixed (spareRestore s) = fixed s := by
  unfold spareRestore
  split <;> simp

@[simp] theorem spareAbortCmd_fixed (s : State) :
    fixed (spareAbortCmd s) = fixed s := by
  unfold spareAbortCmd
  split <;> simp

@[simp] theorem sparectlWr_fixed (s : State) (v : W64) (be : BitVec 8) :
    fixed (sparectlWr s v be) = fixed s := by
  unfold sparectlWr
  repeat' (first | (simp; done) | split | simp_all)

@[simp] theorem copyPoison_fixed (s : State) (m : MemSel) (l : List Nat) :
    fixed (copyPoison s m l) = fixed s := by
  unfold copyPoison
  repeat' (first | (simp; done) | refine forAll_to (fun s n => ?_) ?_ | split | simp_all)

@[simp] theorem copyWord_fixed (s : State) (j : Nat) :
    fixed (copyWord s j) = fixed s := by
  unfold copyWord
  split <;> simp

@[simp] theorem copyIn_fixed (s : State) (b k : Nat) :
    fixed (copyIn s b k) = fixed s := by
  simp [copyIn]

@[simp] theorem copyBack_fixed (s : State) (b k : Nat) :
    fixed (copyBack s b k) = fixed s := by
  simp [copyBack]

@[simp] theorem copyTick_fixed (s : State) :
    fixed (copyTick s) = fixed s := by
  unfold copyTick
  split <;> simp

@[simp] theorem spareDone_fixed (s : State) :
    fixed (spareDone s) = fixed s := by
  unfold spareDone
  split <;> simp

/-! ### Ring -/

@[simp] theorem laneAccept_fixed (s : State) (k : Nat) (good : Bool) (seq : BitVec 16) :
    fixed (laneAccept s k good seq) = fixed s := by
  simp [laneAccept]

@[simp] theorem ringAccept_fixed (s : State) (k : Bool) (h : RingHdr) :
    fixed (ringAccept s k h).1 = fixed s := by
  unfold ringAccept
  repeat' (first | (simp; done) | split | simp_all)

@[simp] theorem ringQueue_fixed (s : State) (L : Nat) (x : LaneTx) :
    fixed (ringQueue s L x) = fixed s := by
  simp [ringQueue]

@[simp] theorem ringForward_fixed (s : State) (k : Bool) (h : RingHdr) (x : Nat → LaneTx) :
    fixed (ringForward s k h x) = fixed s := by
  unfold ringForward
  split <;> simp

@[simp] theorem ringEmit_fixed (s : State) (x : LaneTx) :
    fixed (ringEmit s x) = fixed s := by
  simp [ringEmit]

@[simp] theorem setAlign_fixed (s : State) (a : Bool) :
    fixed (setAlign s a) = fixed s := by
  unfold setAlign
  split <;> simp

@[simp] theorem notePart_fixed (s : State) (gone back : Bool) :
    fixed (notePart s gone back) = fixed s := by
  simp [notePart]

@[simp] theorem ringReelect_fixed (s : State) : fixed (ringReelect s) = fixed s := by
  unfold ringReelect
  split
  · exact modRing_fixed ..
  · extract_lets h self s1
    have h1 : fixed s1 = fixed s := modRing_fixed ..
    clear_value s1
    split
    · exact (setAlign_fixed ..).trans h1
    · split
      · exact (setAlign_fixed ..).trans h1
      · exact h1

@[simp] theorem setPresent_fixed (s : State) (p : W32) :
    fixed (setPresent s p) = fixed s := by
  unfold setPresent
  split <;> simp

@[simp] theorem ringJoinEnd_fixed (s : State) (status detail : Nat) :
    fixed (ringJoinEnd s status detail) = fixed s := by
  unfold ringJoinEnd
  split <;> simp

@[simp] theorem ringJoinDone_fixed (s : State) :
    fixed (ringJoinDone s) = fixed s := by
  unfold ringJoinDone
  split <;> simp

@[simp] theorem ringJoinStep_fixed (s : State) (alone : Bool) :
    fixed (ringJoinStep s alone) = fixed s := by
  unfold ringJoinStep
  repeat' (first | (simp; done) | split)

@[simp] theorem sendMember_fixed (s : State) :
    fixed (sendMember s) = fixed s := by
  unfold sendMember
  split <;> simp

@[simp] theorem memberIn_fixed (s : State) (k : Bool) (h : RingHdr) (tkok up2 up3 : Bool) (mseq : BitVec 8) (present
    : W32) (fwd : Nat → LaneTx) :
    fixed (memberIn s k h tkok up2 up3 mseq present fwd) = fixed s := by
  unfold memberIn
  repeat' (first | (simp; done) | split | simp_all)

@[simp] theorem ringLink_fixed (s : State) (L : Nat) :
    fixed (ringLink s L) = fixed s := by
  unfold ringLink
  split <;> simp

@[simp] theorem slewNow_fixed (s : State) (d : Int) :
    fixed (slewNow s d) = fixed s := by
  unfold slewNow
  split <;> simp

@[simp] theorem ringSteer_fixed (s : State) (d : Int) :
    fixed (ringSteer s d) = fixed s := by
  unfold ringSteer
  split <;> simp

@[simp] theorem postRing_fixed (s : State) (i : Nat) (vals : List (BitVec 16)) (fails : BitVec 4) (seq : BitVec 8) :
    fixed (postRing s i vals fails seq) = fixed s := by
  simp [postRing]

@[simp] theorem intentIn_fixed (s : State) (i : Intent) :
    fixed (intentIn s i) = fixed s := by
  unfold intentIn
  repeat' (first | (simp; done) | split | simp_all)

/-! ### Lane -/

@[simp] theorem raceLink_fixed (s : State) (k : Nat) :
    fixed (raceLink s k) = fixed s := by
  unfold raceLink
  repeat' (first | (simp; done) | split | simp_all)

@[simp] theorem laneMoved_fixed (s : State) (k : Nat) (was : Bool) :
    fixed (laneMoved s k was) = fixed s := by
  unfold laneMoved
  repeat' (first | (simp; done) | split)

@[simp] theorem lanectlWr_fixed (s : State) (k : Nat) (en retrain clr : Bool) :
    fixed (lanectlWr s k en retrain clr) = fixed s := by
  unfold lanectlWr
  repeat' (first | (simp; done) | split | simp_all)

@[simp] theorem emit_fixed (s : State) (k : Nat) (x : LaneTx) (ctl mir : Bool) :
    fixed (emit s k x ctl mir) = fixed s := by
  simp [emit]

@[simp] theorem emitTime_fixed (s : State) (k : Nat) :
    fixed (emitTime s k) = fixed s := by
  simp [emitTime]

@[simp] theorem fillMirror_fixed (s : State) (k : Nat) :
    fixed (fillMirror s k) = fixed s := by
  unfold fillMirror
  repeat' (first | (simp; done) | split | simp_all)

@[simp] theorem fillPlain_fixed (s : State) (k : Nat) :
    fixed (fillPlain s k) = fixed s := by
  unfold fillPlain
  repeat' (first | (simp; done) | split)

@[simp] theorem fillRace_fixed (s : State) (k : Nat) :
    fixed (fillRace s k) = fixed s := by
  unfold fillRace
  repeat' (first | (simp; done) | split)

@[simp] theorem emitRing_fixed (s : State) (k : Nat) (p : LaneTx → Bool) (x : LaneTx) :
    fixed (emitRing s k p x) = fixed s := by
  simp [emitRing]

@[simp] theorem fillRing_fixed (s : State) (k : Nat) :
    fixed (fillRing s k) = fixed s := by
  unfold fillRing
  repeat' (first | (simp; done) | split | simp_all)

/-! ### Twin -/

@[simp] theorem twincfgWr_fixed (s : State) (v : W64) (be : BitVec 8) :
    fixed (twincfgWr s v be) = fixed s := by
  unfold twincfgWr
  repeat' (first | (simp; done) | split | simp_all)

@[simp] theorem headerIn_fixed (s : State) (h : RaceHdr) :
    fixed (headerIn s h) = fixed s := by
  unfold headerIn
  split <;> simp

@[simp] theorem raceAccept_fixed (s : State) (k : Bool) (h : RaceHdr) :
    fixed (raceAccept s k h).1 = fixed s := by
  unfold raceAccept
  repeat' (first | (simp; done) | split | simp_all)

@[simp] theorem applyRec_fixed (s : State) (d : FrameDef) (r : StateRec) (x : Option CopyExt) :
    fixed (applyRec s d r x) = fixed s := by
  unfold applyRec
  repeat' (first | (simp; done) | refine foldl_to (fun s a => ?_) ?_ | split)

@[simp] theorem copyCheck_fixed (s : State) :
    fixed (copyCheck s) = fixed s := by
  unfold copyCheck
  repeat' (first | (simp; done) | split)

@[simp] theorem ackIn_fixed (s : State) (a : BitVec 16) :
    fixed (ackIn s a) = fixed s := by
  unfold ackIn
  split <;> simp

@[simp] theorem ctlTaken_fixed (s : State) (q : BitVec 16) :
    fixed (ctlTaken s q) = fixed s := by
  simp [ctlTaken]

@[simp] theorem ctlIn_fixed (s : State) (c : CtlHdr) (late : Bool) (f : State → State) (h_f : ∀ s, fixed (f s) =
    fixed s) :
    fixed (ctlIn s c late f) = fixed s := by
  unfold ctlIn
  repeat' (first | (simp; done) | split | simp_all)

@[simp] theorem settleLost_fixed (s : State) (b : HelloBody) :
    fixed (settleLost s b) = fixed s := by
  unfold settleLost
  repeat' (first | (simp; done) | split | simp_all)

@[simp] theorem joinLapse_fixed (s : State) (jerr : Nat) :
    fixed (joinLapse s jerr) = fixed s := by
  unfold joinLapse
  repeat' (first | (simp; done) | split)

end Sys2Proof.Machine
end

