-- ==== Sys2Proof/Laws/FixedCmd.lean ====
section
/-! SUPPORT. What no command touches, for hopper commands, resets, the Miller, the host port and a nanosecond of time. -/

namespace Sys2Proof.Machine

/-! ### HopQuery -/

@[simp] theorem setPhase_fixed (s : State) (h : HopId) (n p : Nat) :
    fixed (setPhase s h n p) = fixed s := by
  simp [setPhase]

@[simp] theorem setAux_fixed (s : State) (h : HopId) (n : Nat) (l : List Nat) :
    fixed (setAux s h n l) = fixed s := by
  simp [setAux]

@[simp] theorem kickDog_fixed (s : State) :
    fixed (kickDog s) = fixed s := by
  simp [kickDog]

/-! ### Image -/

@[simp] theorem payloadWords_fixed (s : State) (src n : Nat) :
    fixed (payloadWords s src n).1 = fixed s := by
  unfold payloadWords
  repeat' (first | (simp; done) | refine foldl_fst_to (fun p a => ?_) ?_ | split)

@[simp] theorem readImage_fixed (s : State) (src len : Nat) :
    fixed (readImage s src len).1 = fixed s := by
  simp [readImage]

@[simp] theorem loadStore_fixed (b : List Byte) (s : State) (m : Nat) :
    fixed (loadStore b s m) = fixed s := by
  simp [loadStore]

@[simp] theorem keepImage_fixed (s : State) (b : List Byte) :
    fixed (keepImage s b) = fixed s := by
  simp [keepImage]

@[simp] theorem loadMills_fixed (s : State) (l : List Nat) (b : List Byte) :
    fixed (loadMills s l b) = fixed s := by
  unfold loadMills
  repeat' (first | (simp; done) | refine forAll_to (fun s n => ?_) ?_ | split | simp_all)

@[simp] theorem writeLine_fixed (b : List Byte) (x : Sect) (p : Nat) (s : State) :
    fixed (writeLine b x p s) = fixed s := by
  simp [writeLine]

@[simp] theorem writeSect_fixed (b : List Byte) (s : State) (x : Sect) :
    fixed (writeSect b s x) = fixed s := by
  unfold writeSect
  repeat' (first | (simp; done) | split | simp_all)

@[simp] theorem powerOn_fixed (s : State) (r : PwrReg) (l : List Nat) :
    fixed (powerOn s r l) = fixed s := by
  simp [powerOn]

@[simp] theorem progCommit_fixed (s : State) (mills : List Nat) :
    fixed (progCommit s mills) = fixed s := by
  simp [progCommit]

@[simp] theorem progDone_fixed (s : State) (b : List Byte) (mills : List Nat) (arg : Nat) :
    fixed (progDone s b mills arg) = fixed s := by
  simp [progDone]

@[simp] theorem logBadImage_fixed (s : State) (b : List Byte) (order : Nat) :
    fixed (logBadImage s b order) = fixed s := by
  simp [logBadImage]

@[simp] theorem keepBoot_fixed (s : State) (keep : Nat) (b : List Byte) (mills : Nat) :
    fixed (keepBoot s keep b mills) = fixed s := by
  simp [keepBoot]

@[simp] theorem loadStart_fixed (s : State) (h : HopId) (n k : Nat) (keep : Bool) :
    fixed (loadStart s h n k keep) = fixed s := by
  simp [loadStart]

@[simp] theorem loadImageStep_fixed (s : State) (h : HopId) (n : Nat) (b : List Byte) :
    fixed (loadImageStep s h n b) = fixed s := by
  unfold loadImageStep
  repeat' (first | (simp; done) | split | simp_all)

@[simp] theorem writeImage_fixed (s : State) (b : List Byte) :
    fixed (writeImage s b) = fixed s := by
  unfold writeImage
  repeat' (first | (simp; done) | refine foldl_to (fun s a => ?_) ?_ | split)

/-! ### LoopCmd -/

@[simp] theorem wheelUp_fixed (s : State) (w : Nat) :
    fixed (wheelUp s w) = fixed s := by
  unfold wheelUp
  repeat' (first | (simp; done) | refine foldl_to (fun s a => ?_) ?_ | split | simp_all)

@[simp] theorem cmdWheelUp_fixed (s : State) (h : HopId) (n w : Nat) :
    fixed (cmdWheelUp s h n w) = fixed s := by
  unfold cmdWheelUp
  split <;> simp

@[simp] theorem freeFrame_fixed (s : State) (f : Nat) (d : FrameDef) (keep : List Nat) :
    fixed (freeFrame s f d keep) = fixed s := by
  unfold freeFrame
  repeat' (first | (simp; done) | refine forAll_to (fun s n => ?_) ?_ | split)

@[simp] theorem defineFrame_fixed (s : State) (h : HopId) (n : Nat) : fixed (defineFrame s h n) = fixed s := by
  unfold defineFrame
  extract_lets f w sails ws s1 fr v0 v1 e0 e1
  have h1 : fixed s1 = fixed s := by
    simp only [s1]
    split
    · exact freeFrame_fixed ..
    · rfl
  split
  · exact (finish_fixed ..).trans h1
  · extract_lets s2 s3 s4 s5 d
    clear_value e0 e1
    have h2 : fixed s2 = fixed s1 := by
      simp only [s2]
      split <;> first | exact modWake_fixed .. | rfl
    have h3 : fixed s3 = fixed s2 := by
      simp only [s3]
      split <;> first | exact modWake_fixed .. | rfl
    have h4 : fixed s4 = fixed s3 := (askTdest_fixed ..).trans (foldl_fixed _ _ (fun _ _ => setFw_fixed ..) _)
    have h5 : fixed s5 = fixed s4 := forAll_to (fun _ _ => modSail_fixed ..) rfl
    rw [settleStandby_fixed, finish_fixed]
    exact (setFrame_fixed ..).trans (h5.trans (h4.trans (h3.trans (h2.trans h1))))

@[simp] theorem defineStep_fixed (s : State) (h : HopId) (n : Nat) : fixed (defineStep s h n) = fixed s := by
  unfold defineStep
  extract_lets w
  split
  · split
    · exact defineFrame_fixed ..
    · rfl
  · exact cmdWheelUp_fixed ..

@[simp] theorem finishArm_fixed (s : State) (h : HopId) (n changed left : Nat) (results : List W64) :
    fixed (finishArm s h n changed left results) = fixed s := by
  unfold finishArm
  split <;> simp

@[simp] theorem startStep_fixed (s : State) (h : HopId) (n : Nat) :
    fixed (startStep s h n) = fixed s := by
  unfold startStep
  split <;> simp

@[simp] theorem askStart_fixed (s : State) (h : HopId) (n f : Nat) :
    fixed (askStart s h n f) = fixed s := by
  unfold askStart
  repeat' (first | (simp; done) | split)

@[simp] theorem stopStep_fixed (s : State) (h : HopId) (n : Nat) : fixed (stopStep s h n) = fixed s := by
  unfold stopStep
  split
  · exact finish_fixed ..
  · rfl

@[simp] theorem askStop_fixed (s : State) (h : HopId) (n f : Nat) :
    fixed (askStop s h n f) = fixed s := by
  unfold askStop
  split <;> simp

@[simp] theorem paramRead_fixed (s : State) (h : HopId) (n f : Nat) (d : FrameDef) :
    fixed (paramRead s h n f d) = fixed s := by
  unfold paramRead
  split
  · extract_lets l v s1
    exact (finish_fixed ..).trans (forAll_to (fun _ _ => spadNote_fixed ..) rfl)
  · rfl

@[simp] theorem copyStore_fixed (s : State) (m m' : Nat) :
    fixed (copyStore s m m') = fixed s := by
  unfold copyStore
  repeat' (first | (simp; done) | split | simp_all)

@[simp] theorem matchStore_fixed (s : State) (m m' : Nat) :
    fixed (matchStore s m m') = fixed s := by
  unfold matchStore
  repeat' (first | (simp; done) | split | simp_all)

@[simp] theorem armMoves_fixed (s : State) (l : List (Nat × Nat)) :
    fixed (armMoves s l).1 = fixed s := by
  unfold armMoves
  repeat' (first | (simp; done) | refine foldl_fst_to (fun p a => ?_) ?_ | split)

@[simp] theorem settleMoved_fixed (s : State) :
    fixed (settleMoved s) = fixed s := by
  unfold settleMoved
  split <;> simp

@[simp] theorem migStep_fixed (s : State) (h : HopId) (n : Nat) :
    fixed (migStep s h n) = fixed s := by
  unfold migStep
  repeat' (first | (simp; done) | refine foldl_to (fun s a => ?_) ?_ | split | simp_all)

/-! ### PairCmd -/

@[simp] theorem twinJoinStart_fixed (s : State) (n : Nat) (newc : Bool) :
    fixed (twinJoinStart s n newc) = fixed s := by
  unfold twinJoinStart
  repeat' (first | (simp; done) | split | simp_all)

@[simp] theorem twinJoinRefuse_fixed (s : State) (h : HopId) (n jerr : Nat) :
    fixed (twinJoinRefuse s h n jerr) = fixed s := by
  simp [twinJoinRefuse]

@[simp] theorem leaveStart_fixed (s : State) :
    fixed (leaveStart s) = fixed s := by
  unfold leaveStart
  repeat' (first | (simp; done) | split | simp_all)

/-! ### Service -/

@[simp] theorem tAux_fixed (s : State) (h : HopId) (n i v : Nat) :
    fixed (tAux s h n i v) = fixed s := by
  simp [tAux]

@[simp] theorem isolate_fixed (s : State) (m : Nat) (b : Bool) :
    fixed (isolate s m b) = fixed s := by
  simp [isolate]

@[simp] theorem clearArrays_fixed (s : State) (m : Nat) :
    fixed (clearArrays s m) = fixed s := by
  simp [clearArrays]

@[simp] theorem testEnd_fixed (s : State) (h : HopId) (n status detail : Nat) (r : TestResult) (done : Bool) :
    fixed (testEnd s h n status detail r done) = fixed s := by
  simp [testEnd]

@[simp] theorem failNotice_fixed (s : State) (h : HopId) (n : Nat) :
    fixed (failNotice s h n) = fixed s := by
  unfold failNotice
  split <;> simp

@[simp] theorem swapMills_fixed (s : State) (m st bits : Nat) :
    fixed (swapMills s m st bits) = fixed s := by
  unfold swapMills
  repeat' (first | (simp; done) | split | simp_all)

@[simp] theorem testFail_fixed (s : State) (h : HopId) (n bits : Nat) (r : TestResult) :
    fixed (testFail s h n bits r) = fixed s := by
  simp [testFail]

@[simp] theorem rewriteArrays_fixed (s : State) (m st : Nat) :
    fixed (rewriteArrays s m st) = fixed s := by
  simp [rewriteArrays]

@[simp] theorem refill_fixed (s : State) (m st : Nat) :
    fixed (refill s m st) = fixed s := by
  simp only [refill]
  split <;> simp

@[simp] theorem returnHome_fixed (s : State) (h : HopId) (n : Nat) :
    fixed (returnHome s h n) = fixed s := by
  simp [returnHome]

@[simp] theorem testPrepare_fixed (s : State) (h : HopId) (n : Nat) :
    fixed (testPrepare s h n) = fixed s := by
  unfold testPrepare
  repeat' (first | (simp; done) | split | simp_all)

@[simp] theorem testMoved_fixed (s : State) (h : HopId) (n : Nat) (r : TestResult) :
    fixed (testMoved s h n r) = fixed s := by
  unfold testMoved
  repeat' (first | (simp; done) | split | simp_all)

@[simp] theorem testRun_fixed (s : State) (h : HopId) (n : Nat) (r : TestResult) :
    fixed (testRun s h n r) = fixed s := by
  unfold testRun
  repeat' (first | (simp; done) | split | simp_all)

@[simp] theorem testReturned_fixed (s : State) (h : HopId) (n : Nat) (r : TestResult) :
    fixed (testReturned s h n r) = fixed s := by
  unfold testReturned
  repeat' (first | (simp; done) | split | simp_all)

@[simp] theorem testStop_fixed (s : State) (h : HopId) (n : Nat) :
    fixed (testStop s h n) = fixed s := by
  unfold testStop
  repeat' (first | (simp; done) | split | simp_all)

@[simp] theorem bankEnd_fixed (s : State) (h : HopId) (n status : Nat) (bits : Nat) (word : Nat) (r : TestResult)
    (done : Bool) :
    fixed (bankEnd s h n status bits word r done) = fixed s := by
  simp [bankEnd]

@[simp] theorem bankStep_fixed (s : State) (h : HopId) (n : Nat) (r : TestResult) :
    fixed (bankStep s h n r) = fixed s := by
  unfold bankStep
  repeat' (first | (simp; done) | split | simp_all)

@[simp] theorem bankStop_fixed (s : State) (h : HopId) (n : Nat) :
    fixed (bankStop s h n) = fixed s := by
  unfold bankStop
  repeat' (first | (simp; done) | split | simp_all)

@[simp] theorem resetStart_fixed (s : State) (l : List Nat) :
    fixed (resetStart s l) = fixed s := by
  unfold resetStart
  repeat' (first | (simp; done) | refine forAll_to (fun s n => ?_) ?_ | split)

@[simp] theorem resetStep_fixed (s : State) (h : HopId) (n level scope : Nat) (l : List Nat) :
    fixed (resetStep s h n level scope l) = fixed s := by
  unfold resetStep
  split <;> simp

@[simp] theorem resetCmd_fixed (s : State) (h : HopId) (n level scope : Nat) (l : List Nat) (absent busy : Bool) (o
    : Obj) (k : Nat) :
    fixed (resetCmd s h n level scope l absent busy o k) = fixed s := by
  unfold resetCmd
  repeat' (first | (simp; done) | split)

@[simp] theorem resetBound_fixed (s : State) (h : HopId) (n : Nat) :
    fixed (resetBound s h n) = fixed s := by
  simp [resetBound]

/-! ### Engine -/

@[simp] theorem stopWith_fixed (s : State) (h : HopId) (n : Nat) (force changed : Bool) (results : List W64) :
    fixed (stopWith s h n force changed results) = fixed s := by
  simp [stopWith]

@[simp] theorem wipeActs_fixed (s : State) (p : FrameAct → Bool) :
    fixed (wipeActs s p) = fixed s := by
  simp [wipeActs]

@[simp] theorem stopLoopStop_fixed (s : State) (h : HopId) (n : Nat) (force : Bool) :
    fixed (stopLoopStop s h n force) = fixed s := by
  simp [stopLoopStop]

@[simp] theorem stopMigrate_fixed (s : State) (h : HopId) (n : Nat) (force : Bool) :
    fixed (stopMigrate s h n force) = fixed s := by
  simp [stopMigrate]

@[simp] theorem stopJoin_fixed (s : State) (h : HopId) (n : Nat) (abort force : Bool) :
    fixed (stopJoin s h n abort force) = fixed s := by
  unfold stopJoin
  repeat' (first | (simp; done) | split)

@[simp] theorem stopLeave_fixed (s : State) (n : Nat) (force : Bool) :
    fixed (stopLeave s n force) = fixed s := by
  unfold stopLeave
  repeat' (first | (simp; done) | split)

@[simp] theorem dropTest_fixed (s : State) (h : HopId) (n : Nat) :
    fixed (dropTest s h n) = fixed s := by
  unfold dropTest
  split <;> simp

@[simp] theorem stopCalib_fixed (s : State) (h : HopId) (n : Nat) (force : Bool) :
    fixed (stopCalib s h n force) = fixed s := by
  unfold stopCalib
  split <;> simp

@[simp] theorem stopCmd_fixed (s : State) (h : HopId) (n : Nat) (abort force : Bool) :
    fixed (stopCmd s h n abort force) = fixed s := by
  unfold stopCmd
  repeat' (first | (simp; done) | split | simp_all)

@[simp] theorem stopWaiting_fixed (s : State) (l : List Nat) :
    fixed (stopWaiting s l) = fixed s := by
  unfold stopWaiting
  repeat' (first | (simp; done) | refine forAll_to (fun s n => ?_) ?_ | split)

@[simp] theorem startPacket_fixed (s : State) (h : HopId) (n : Nat) :
    fixed (startPacket s h n) = fixed s := by
  unfold startPacket
  repeat' (first | (simp; done) | split)

@[simp] theorem hopErr_fixed (s : State) (h : HopId) :
    fixed (hopErr s h) = fixed s := by
  simp [hopErr]

@[simp] theorem doorbell_fixed (s : State) (h : HopId) (n : Nat) :
    fixed (doorbell s h n) = fixed s := by
  unfold doorbell
  repeat' (first | (simp; done) | split | simp_all)

@[simp] theorem releaseSlot_fixed (s : State) (h : HopId) (n : Nat) :
    fixed (releaseSlot s h n) = fixed s := by
  unfold releaseSlot
  split <;> simp

@[simp] theorem abortQueued_fixed (s : State) (h : HopId) (k : Nat) :
    fixed (abortQueued s h k) = fixed s := by
  unfold abortQueued
  split <;> simp

/-! ### Reset -/

@[simp] theorem absorbOne_fixed (s : State) (r : RstReq) :
    fixed (absorbOne s r) = fixed s := by
  simp [absorbOne]

@[simp] theorem absorb_fixed (s : State) (l : List RstReq) :
    fixed (absorb s l) = fixed s := by
  unfold absorb
  repeat' (first | (simp; done) | refine foldl_to (fun s a => ?_) ?_ | split)

@[simp] theorem wdcfgWr_fixed (s : State) (v : W64) (be : BitVec 8) :
    fixed (wdcfgWr s v be) = fixed s := by
  unfold wdcfgWr
  repeat' (first | (simp; done) | split | simp_all)

@[simp] theorem reqRaise_fixed (s : State) (src lo v : Nat) :
    fixed (reqRaise s src lo v) = fixed s := by
  unfold reqRaise
  repeat' (first | (simp; done) | split | simp_all)

@[simp] theorem rstreqWr_fixed (s : State) (v : W64) (be : BitVec 8) :
    fixed (rstreqWr s v be) = fixed s := by
  unfold rstreqWr
  repeat' (first | (simp; done) | split | simp_all)

@[simp] theorem openSib_fixed (s : State) (k : Nat) :
    fixed (openSib s k) = fixed s := by
  simp [openSib]

@[simp] theorem holdDomain_fixed (s : State) (d : Nat) :
    fixed (holdDomain s d) = fixed s := by
  simp [holdDomain]

@[simp] theorem unsense_fixed (s : State) :
    fixed (unsense s) = fixed s := by
  simp [unsense]

@[simp] theorem startRelease_fixed (s : State) (lvl : Nat) :
    fixed (startRelease s lvl) = fixed s := by
  unfold startRelease
  split <;> simp

@[simp] theorem assertHold_fixed (s : State) (lvl : Nat) :
    fixed (assertHold s lvl) = fixed s := by
  unfold assertHold
  repeat' (first | (simp; done) | split | simp_all)

@[simp] theorem cutCopy_fixed (s : State) :
    fixed (cutCopy s) = fixed s := by
  unfold cutCopy
  split <;> simp

@[simp] theorem cutTest_fixed (s : State) :
    fixed (cutTest s) = fixed s := by
  unfold cutTest
  repeat' (first | (simp; done) | refine forAll_to (fun s n => ?_) ?_ | split | simp_all)

@[simp] theorem cutPstore_fixed (s : State) (l : List Nat) (whole : Bool) :
    fixed (cutPstore s l whole) = fixed s := by
  unfold cutPstore
  repeat' (first | (simp; done) | refine forAll_to (fun s n => ?_) ?_ | split)

@[simp] theorem cutLine_fixed (s : State) (m : Nat) :
    fixed (cutLine s m) = fixed s := by
  unfold cutLine
  repeat' (first | (simp; done) | refine forAll_to (fun s n => ?_) ?_ | split | simp_all)

theorem l2Units_to (s : State) : fixed (modTwin { s with
    hopC := {}, hopS := {}, calibs := [], readback := none, rbRetry := false, tail := {}, leats := [],
    lanes := [], ring := {} } twinL2) = fixed s := modTwin_fixed ..

@[simp] theorem applyL2_fixed (s : State) : fixed (applyL2 s) = fixed s := by
  unfold applyL2
  extract_lets p s1 s2 s3 s4 s5 s6 s7 s8
  have h1 : fixed s1 = fixed s := by simp only [s1]; split <;> simp
  have h2 : fixed s2 = fixed s1 := (cutPstore_fixed ..).trans ((cutTest_fixed ..).trans (cutCopy_fixed ..))
  have h3 : fixed s3 = fixed s2 := modRst_fixed ..
  have h4 : fixed s4 = fixed s3 := forAll_to (fun _ _ => modWheel_fixed ..) rfl
  have h5 : fixed s5 = fixed s4 := forAll_to (fun _ _ => modWheel_fixed ..) rfl
  have h6 : fixed s6 = fixed s5 := forAll_to (fun _ _ => modSail_fixed ..) rfl
  have h7 : fixed s7 = fixed s6 := forAll_to (fun _ _ => modMill_fixed ..) rfl
  have h8 : fixed s8 = fixed s7 := forAll_to (fun _ _ => modEmu_fixed ..) rfl
  have h9 : fixed s8 = fixed s := by rw [h8, h7, h6, h5, h4, h3, h2, h1]
  exact (l2Units_to s8).trans h9

@[simp] theorem applyCold_fixed (s : State) (lvl : Nat) :
    fixed (applyCold s lvl) = fixed s := by
  simp [applyCold]

@[simp] theorem stormStep_fixed (s : State) :
    fixed (stormStep s).1 = fixed s := by
  simp [stormStep]

@[simp] theorem enterStorm_fixed (s : State) :
    fixed (enterStorm s) = fixed s := by
  simp [enterStorm]

@[simp] theorem applyComplex_fixed (s : State) (r : RstReq) (m : Bool) :
    fixed (applyComplex s r m) = fixed s := by
  unfold applyComplex
  repeat' (first | (simp; done) | split | simp_all)

@[simp] theorem duringReset_fixed (s : State) (cur : Nat) (l : List RstReq) :
    fixed (duringReset s cur l) = fixed s := by
  unfold duringReset
  repeat' (first | (simp; done) | split | simp_all)

@[simp] theorem endStorm_fixed (s : State) (src : Nat) :
    fixed (endStorm s src) = fixed s := by
  simp [endStorm]

@[simp] theorem sense_fixed (s : State) :
    fixed (sense s) = fixed s := by
  simp [sense]

@[simp] theorem emuRestart_fixed (s : State) (l : List Nat) :
    fixed (emuRestart s l) = fixed s := by
  unfold emuRestart
  repeat' (first | (simp; done) | refine forAll_to (fun s n => ?_) ?_ | split)

@[simp] theorem releaseMill_fixed (s : State) (m : Nat) :
    fixed (releaseMill s m) = fixed s := by
  simp [releaseMill]

@[simp] theorem edgeRelease_fixed (s : State) (d : Nat) :
    fixed (edgeRelease s d) = fixed s := by
  unfold edgeRelease
  repeat' (first | (simp; done) | split)

@[simp] theorem safeAll_fixed (s : State) :
    fixed (safeAll s) = fixed s := by
  simp [safeAll]

@[simp] theorem completeL2_fixed (s : State) :
    fixed (completeL2 s) = fixed s := by
  unfold completeL2
  repeat' (first | (simp; done) | split | simp_all)

@[simp] theorem completeCold_fixed (s : State) :
    fixed (completeCold s) = fixed s := by
  simp [completeCold]

@[simp] theorem drvrelWr_fixed (s : State) :
    fixed (drvrelWr s) = fixed s := by
  unfold drvrelWr
  repeat' (first | (simp; done) | split | simp_all)

@[simp] theorem hangPorts_fixed (s : State) (l : List Nat) :
    fixed (hangPorts s l) = fixed s := by
  unfold hangPorts
  repeat' (first | (simp; done) | refine forAll_to (fun s n => ?_) ?_ | split | simp_all)

@[simp] theorem dropSails_fixed (s : State) (l : List Nat) :
    fixed (dropSails s l) = fixed s := by
  unfold dropSails
  repeat' (first | (simp; done) | refine forAll_to (fun s n => ?_) ?_ | split)

@[simp] theorem applyLocal_fixed (s : State) (r : RstReq) (l : List Nat) (m : Bool) :
    fixed (applyLocal s r l m) = fixed s := by
  unfold applyLocal
  split <;> simp

@[simp] theorem laneFault_fixed (s : State) (d : Nat) :
    fixed (laneFault s d) = fixed s := by
  simp [laneFault]

@[simp] theorem edgeHold_fixed (s : State) (d : Nat) : fixed (edgeHold s d) = fixed s := by
  unfold edgeHold
  extract_lets s1
  have h1 : fixed s1 = fixed s := modClk_fixed ..
  clear_value s1
  split
  · split
    · exact (laneFault_fixed ..).trans h1
    · exact h1
  · split
    · refine forAll_to (fun s j => ?_) h1
      split
      · exact modSail_fixed ..
      · rfl
    · split
      · exact forAll_to (fun _ _ => modEmu_fixed ..) h1
      · exact h1

@[simp] theorem coreFaultHold_fixed (s : State) (d : Nat) :
    fixed (coreFaultHold s d) = fixed s := by
  unfold coreFaultHold
  repeat' (first | (simp; done) | split)

@[simp] theorem domainFault_fixed (s : State) (d : Nat) (mhz : BitVec 16) :
    fixed (domainFault s d mhz) = fixed s := by
  unfold domainFault
  repeat' (first | (simp; done) | split | simp_all)

@[simp] theorem refFault_fixed (s : State) :
    fixed (refFault s) = fixed s := by
  simp [refFault]

@[simp] theorem clkmonWr_fixed (s : State) (d : Nat) (v : W64) (be : BitVec 8) :
    fixed (clkmonWr s d v be) = fixed s := by
  unfold clkmonWr
  split <;> simp

/-! ### Miller -/

@[simp] theorem alarmLog_fixed (s : State) (cls idx : Nat) (was on : Bool) (v : BitVec 16) :
    fixed (alarmLog s cls idx was on v) = fixed s := by
  unfold alarmLog
  split <;> simp

@[simp] theorem bootFail_fixed (s : State) (p : BootRec × Nat) (order : Nat) :
    fixed (bootFail s p order) = fixed s := by
  simp [bootFail]

@[simp] theorem enterRetention_fixed (s : State) :
    fixed (enterRetention s) = fixed s := by
  simp [enterRetention]

@[simp] theorem mbEnd_fixed (s : State) (result : Nat) (res : List W64) :
    fixed (mbEnd s result res) = fixed s := by
  simp [mbEnd]

@[simp] theorem mbRetention_fixed (s : State) :
    fixed (mbRetention s) = fixed s := by
  unfold mbRetention
  split <;> simp

@[simp] theorem mbMillRecords_fixed (s : State) :
    fixed (mbMillRecords s) = fixed s := by
  unfold mbMillRecords
  repeat' (first | (simp; done) | split | simp_all)

@[simp] theorem mbBootRecord_fixed (s : State) :
    fixed (mbBootRecord s) = fixed s := by
  simp [mbBootRecord]

@[simp] theorem mbSetBoot_fixed (s : State) :
    fixed (mbSetBoot s) = fixed s := by
  unfold mbSetBoot
  repeat' (first | (simp; done) | split | simp_all)

@[simp] theorem mbBootDigest_fixed (s : State) :
    fixed (mbBootDigest s) = fixed s := by
  simp [mbBootDigest]

@[simp] theorem mbForgetSpare_fixed (s : State) :
    fixed (mbForgetSpare s) = fixed s := by
  unfold mbForgetSpare
  split <;> simp

@[simp] theorem mbProgRecords_fixed (s : State) :
    fixed (mbProgRecords s) = fixed s := by
  unfold mbProgRecords
  repeat' (first | (simp; done) | split | simp_all)

@[simp] theorem mbGo_fixed (s : State) (op : Nat) :
    fixed (mbGo s op) = fixed s := by
  unfold mbGo
  repeat' (first | (simp; done) | split)

@[simp] theorem mbstatWr_fixed (s : State) (v : W64) (be : BitVec 8) :
    fixed (mbstatWr s v be) = fixed s := by
  unfold mbstatWr
  split <;> simp

/-! ### Debug -/

@[simp] theorem accDead_fixed (s : State) (a0 : MemAcc) :
    fixed (accDead s a0) = fixed s := by
  unfold accDead
  split <;> simp

@[simp] theorem accNow_fixed (s : State) (w : Nat) (a : MemAcc) :
    fixed (accNow s w a) = fixed s := by
  cases a <;> rfl

/-! ### Flags -/

@[simp] theorem emustWr_fixed (s : State) (n : Nat) (v : W64) (be : BitVec 8) :
    fixed (emustWr s n v be) = fixed s := by
  unfold emustWr
  split <;> simp

/-! ### Host -/

@[simp] theorem hostWord_fixed (m : HostMem) (s : State) (a : Nat) (h_n : ∀ s a, fixed (m.note s a) = fixed s) (h_w
    : ∀ s a v, fixed (m.wr s a v) = fixed s) :
    fixed (hostWord m s a).1 = fixed s := by
  unfold hostWord
  repeat' (first | (simp; done) | split | simp_all)

@[simp] theorem payRead_fixed (m : HostMem) (s : State) (a : Nat) (h_n : ∀ s a, fixed (m.note s a) = fixed s) (h_w :
    ∀ s a v, fixed (m.wr s a v) = fixed s) :
    fixed (payRead m s a).1 = fixed s := by
  unfold payRead
  repeat' (first | (simp; done) | split | simp_all)

@[simp] theorem hostTag_fixed (m : HostMem) (s : State) (a : Nat) (h_n : ∀ s a, fixed (m.note s a) = fixed s) (h_w :
    ∀ s a v, fixed (m.wr s a v) = fixed s) :
    fixed (hostTag m s a).1 = fixed s := by
  unfold hostTag
  repeat' (first | (simp; done) | split | simp_all)

@[simp] theorem tagRead_fixed (m : HostMem) (s : State) (a : Nat) (h_n : ∀ s a, fixed (m.note s a) = fixed s) (h_w :
    ∀ s a v, fixed (m.wr s a v) = fixed s) :
    fixed (tagRead m s a).1 = fixed s := by
  unfold tagRead
  repeat' (first | (simp; done) | refine foldl_fst_to (fun p a => ?_) ?_ | split | simp_all)

@[simp] theorem payWord_fixed (m : HostMem) (s : State) (a : Nat) (v mask : W32) (h_n : ∀ s a, fixed (m.note s a) =
    fixed s) (h_w : ∀ s a v, fixed (m.wr s a v) = fixed s) :
    fixed (payWord m s a v mask) = fixed s := by
  unfold payWord
  repeat' (first | (simp; done) | split | simp_all)

@[simp] theorem payWrite_fixed (m : HostMem) (s : State) (a : Nat) (v : W64) (be : BitVec 8) (h_n : ∀ s a, fixed
    (m.note s a) = fixed s) (h_w : ∀ s a v, fixed (m.wr s a v) = fixed s) :
    fixed (payWrite m s a v be) = fixed s := by
  unfold payWrite
  repeat' (first | (simp; done) | split | simp_all)

@[simp] theorem tagWord_fixed (m : HostMem) (s : State) (a t : Nat) (h_n : ∀ s a, fixed (m.note s a) = fixed s) (h_w
    : ∀ s a v, fixed (m.wr s a v) = fixed s) :
    fixed (tagWord m s a t) = fixed s := by
  unfold tagWord
  repeat' (first | (simp; done) | split | simp_all)

@[simp] theorem tagWrite_fixed (m : HostMem) (s : State) (a : Nat) (v : W64) (be : BitVec 8) (h_n : ∀ s a, fixed
    (m.note s a) = fixed s) (h_w : ∀ s a v, fixed (m.wr s a v) = fixed s) :
    fixed (tagWrite m s a v be).1 = fixed s := by
  unfold tagWrite
  repeat' (first | (simp; done) | refine foldl_fst_to (fun p a => ?_) ?_ | split | simp_all)

theorem hostMp_note (s : State) (a : Nat) : fixed (hostMp.note s a) = fixed s := mpNote_fixed ..

theorem hostMp_wr (s : State) (a : Nat) (v : TWord) : fixed (hostMp.wr s a v) = fixed s := mpWrite_fixed ..

theorem hostSpad_note (w : Nat) (s : State) (a : Nat) : fixed ((hostSpad w).note s a) = fixed s := spadNote_fixed ..

theorem hostSpad_wr (w : Nat) (s : State) (a : Nat) (v : TWord) : fixed ((hostSpad w).wr s a v) = fixed s :=
  spadWrite_fixed ..

@[simp] theorem mpHostRead_fixed (s : State) (a : Nat) (tags : Bool) : fixed (mpHostRead s a tags).1 = fixed s := by
  unfold mpHostRead
  split
  · split
    · exact tagRead_fixed _ _ _ hostMp_note hostMp_wr
    · exact payRead_fixed _ _ _ hostMp_note hostMp_wr
  · exact mpDrop_fixed ..

@[simp] theorem mpHostWrite_fixed (s : State) (a : Nat) (tags : Bool) (v : W64) (be : BitVec 8) :
    fixed (mpHostWrite s a tags v be).1 = fixed s := by
  unfold mpHostWrite
  split
  · split
    · exact tagWrite_fixed _ _ _ _ _ hostMp_note hostMp_wr
    · exact payWrite_fixed _ _ _ _ _ hostMp_note hostMp_wr
  · exact mpDrop_fixed ..

@[simp] theorem spadHostRead_fixed (s : State) (w a : Nat) (tags : Bool) :
    fixed (spadHostRead s w a tags).1 = fixed s := by
  unfold spadHostRead
  split
  · rfl
  · split
    · split
      · exact tagRead_fixed _ _ _ (hostSpad_note w) (hostSpad_wr w)
      · exact payRead_fixed _ _ _ (hostSpad_note w) (hostSpad_wr w)
    · rfl

@[simp] theorem spadHostWrite_fixed (s : State) (w a : Nat) (tags : Bool) (v : W64) (be : BitVec 8) :
    fixed (spadHostWrite s w a tags v be).1 = fixed s := by
  unfold spadHostWrite
  split
  · rfl
  · split
    · split
      · exact tagWrite_fixed _ _ _ _ _ (hostSpad_note w) (hostSpad_wr w)
      · exact payWrite_fixed _ _ _ _ _ (hostSpad_note w) (hostSpad_wr w)
    · rfl

@[simp] theorem hopdbWr_fixed (s : State) (h : HopId) (v : W64) (be : BitVec 8) :
    fixed (hopdbWr s h v be) = fixed s := by
  unfold hopdbWr
  repeat' (first | (simp; done) | split)

@[simp] theorem hopWrite_fixed (s : State) (h : HopId) (o : Nat) (v : W64) (be : BitVec 8) :
    fixed (hopWrite s h o v be).1 = fixed s := by
  unfold hopWrite
  repeat' (first | (simp; done) | split)

@[simp] theorem bkupRead_fixed (s : State) (n : Nat) :
    fixed (bkupRead s n).1 = fixed s := by
  unfold bkupRead
  split <;> simp

@[simp] theorem bkupWr_fixed (s : State) (n : Nat) (v : W64) (be : BitVec 8) :
    fixed (bkupWr s n v be) = fixed s := by
  unfold bkupWr
  split <;> simp

@[simp] theorem ringtimeRd_fixed (s : State) :
    fixed (ringtimeRd s).1 = fixed s := by
  simp [ringtimeRd]

@[simp] theorem ringstatWr_fixed (s : State) (v : W64) (be : BitVec 8) :
    fixed (ringstatWr s v be) = fixed s := by
  unfold ringstatWr
  split <;> simp

@[simp] theorem ringcntWr_fixed (s : State) (v : W64) (be : BitVec 8) :
    fixed (ringcntWr s v be) = fixed s := by
  unfold ringcntWr
  split <;> simp

@[simp] theorem ringmemWr_fixed (s : State) (i : Nat) (v : W64) (be : BitVec 8) :
    fixed (ringmemWr s i v be) = fixed s := by
  unfold ringmemWr
  split <;> simp

@[simp] theorem twinstatWr_fixed (s : State) (v : W64) (be : BitVec 8) :
    fixed (twinstatWr s v be) = fixed s := by
  unfold twinstatWr
  split <;> simp

theorem fst_ite_to {α : Type} {c : Prop} [Decidable c] {a b : State × α} {x : List Instr × Tab W32}
    (h1 : fixed a.1 = x) (h2 : fixed b.1 = x) : fixed (if c then a else b).1 = x := by split <;> assumption

@[simp] theorem regRead_fixed (s : State) (o : Nat) : fixed (regRead s o).1 = fixed s := by
  unfold regRead
  refine fst_ite_to (ringtimeRd_fixed ..) (fst_ite_to rfl (fst_ite_to rfl (fst_ite_to rfl (fst_ite_to rfl ?_))))
  refine fst_ite_to (bkupRead_fixed ..) (fst_ite_to rfl (fst_ite_to rfl (fst_ite_to rfl (fst_ite_to rfl (fst_ite_to
      rfl ?_)))))
  exact fst_ite_to rfl (fst_ite_to rfl (fst_ite_to rfl (fst_ite_to rfl rfl)))

@[simp] theorem regLowWr_fixed (s : State) (o : Nat) (v : W64) (be : BitVec 8) :
    fixed (regLowWr s o v be) = fixed s := by
  unfold regLowWr
  split <;> simp

@[simp] theorem regResetWr_fixed (s : State) (o : Nat) (v : W64) (be : BitVec 8) :
    fixed (regResetWr s o v be) = fixed s := by
  unfold regResetWr
  repeat' (first | (simp; done) | split)

@[simp] theorem regSailWr_fixed (s : State) (o : Nat) (v : W64) (be : BitVec 8) :
    fixed (regSailWr s o v be) = fixed s := by
  unfold regSailWr
  repeat' (first | (simp; done) | split | simp_all)

@[simp] theorem regWeirWr_fixed (s : State) (o : Nat) (v : W64) (be : BitVec 8) :
    fixed (regWeirWr s o v be) = fixed s := by
  unfold regWeirWr
  split <;> simp

@[simp] theorem regFbWr_fixed (s : State) (o : Nat) (v : W64) (be : BitVec 8) :
    fixed (regFbWr s o v be) = fixed s := by
  unfold regFbWr
  repeat' (first | (simp; done) | split | simp_all)

@[simp] theorem regEmuWr_fixed (s : State) (o : Nat) (v : W64) (be : BitVec 8) :
    fixed (regEmuWr s o v be) = fixed s := by
  unfold regEmuWr
  repeat' (first | (simp; done) | split | simp_all)

@[simp] theorem regLaneWr_fixed (s : State) (o : Nat) (v : W64) (be : BitVec 8) :
    fixed (regLaneWr s o v be) = fixed s := by
  unfold regLaneWr
  repeat' (first | (simp; done) | split | simp_all)

@[simp] theorem regWrite_fixed (s : State) (o : Nat) (v : W64) (be : BitVec 8) :
    fixed (regWrite s o v be) = fixed s := by
  unfold regWrite
  refine fixed_ite _ _ _ (fun _ => regLowWr_fixed ..) fun _ => ?_
  refine fixed_ite _ _ _ (fun _ => millctlWr_fixed ..) fun _ => ?_
  refine fixed_ite _ _ _ (fun _ => clkmonWr_fixed ..) fun _ => ?_
  refine fixed_ite _ _ _ (fun _ => regResetWr_fixed ..) fun _ => ?_
  refine fixed_ite _ _ _ (fun _ => bkupWr_fixed ..) fun _ => ?_
  refine fixed_ite _ _ _ (fun _ => regSailWr_fixed ..) fun _ => ?_
  refine fixed_ite _ _ _ (fun _ => regWeirWr_fixed ..) fun _ => ?_
  refine fixed_ite _ _ _ (fun _ => sluiceWrite_fixed ..) fun _ => ?_
  refine fixed_ite _ _ _ (fun _ => regFbWr_fixed ..) fun _ => ?_
  refine fixed_ite _ _ _ (fun _ => regEmuWr_fixed ..) fun _ => ?_
  refine fixed_ite _ _ _ (fun _ => fixed_ite _ _ _ (fun _ => rfl) fun _ => leatcfgWr_fixed ..) fun _ => ?_
  exact fixed_ite _ _ _ (fun _ => regLaneWr_fixed ..) fun _ => rfl

@[simp] theorem retainedRead_fixed (s : State) (i : Nat) :
    fixed (retainedRead s i).1 = fixed s := by
  unfold retainedRead
  split <;> simp

@[simp] theorem millerRead_fixed (s : State) (o : Nat) :
    fixed (millerRead s o).1 = fixed s := by
  unfold millerRead
  split <;> simp

@[simp] theorem millerWrite_fixed (s : State) (o : Nat) (v : W64) (be : BitVec 8) :
    fixed (millerWrite s o v be) = fixed s := by
  unfold millerWrite
  repeat' (first | (simp; done) | split)

theorem pair1_to {α : Type} (s : State) (x : α) : fixed (s, x).1 = fixed s := (rfl)

theorem regPair_to (s : State) (o : Nat) (b : Bool) : fixed ((regRead s o).1, (regRead s o).2, b).1 = fixed s :=
  regRead_fixed s o

@[simp] theorem readBeat_fixed (s : State) (a : Nat) : fixed (readBeat s a).1 = fixed s := by
  unfold readBeat
  refine fst_ite_to (pair1_to ..) ?_
  refine fst_ite_to (pair1_to ..) ?_
  refine fst_ite_to (mpHostRead_fixed ..) ?_
  refine fst_ite_to (mpHostRead_fixed ..) ?_
  refine fst_ite_to (pair1_to ..) ?_
  refine fst_ite_to (pair1_to ..) ?_
  refine fst_ite_to (pair1_to ..) ?_
  refine fst_ite_to (regPair_to ..) ?_
  refine fst_ite_to (millerRead_fixed ..) ?_
  refine fst_ite_to (spadHostRead_fixed ..) ?_
  refine fst_ite_to (pair1_to ..) ?_
  refine fst_ite_to (pair1_to ..) ?_
  refine fst_ite_to (pair1_to ..) ?_
  exact fst_ite_to (spadHostRead_fixed ..) (pair1_to ..)

@[simp] theorem writeBeat_fixed (s : State) (a : Nat) (v : W64) (be : BitVec 8) :
    fixed (writeBeat s a v be).1 = fixed s := by
  simp only [writeBeat, apply_ite Prod.fst, apply_ite fixed, mpHostWrite_fixed, spadHostWrite_fixed, regWrite_fixed,
    hopWrite_fixed, millerWrite_fixed, ite_self]

@[simp] theorem readBeats_fixed (s : State) (addr : BitVec 26) (n : Nat) (cut : Option (Fin 8)) :
    fixed (readBeats s addr n cut).1 = fixed s := by
  unfold readBeats
  repeat' (first | (simp; done) | refine foldl_fst_to (fun p a => ?_) ?_ | split)

@[simp] theorem writeBeats_fixed (s : State) (addr : BitVec 26) (l : List (W64 × BitVec 8)) (cut : Option (Fin 8)) :
    fixed (writeBeats s addr l cut).1 = fixed s := by
  unfold writeBeats
  repeat' (first | (simp; done) | refine foldl_fst_to (fun p a => ?_) ?_ | split)

/-! ### Tick -/

@[simp] theorem ringTick_fixed (s : State) :
    fixed (ringTick s) = fixed s := by
  unfold ringTick
  split <;> simp

@[simp] theorem ueTick_fixed (s : State) :
    fixed (ueTick s) = fixed s := by
  unfold ueTick
  repeat' (first | (simp; done) | refine foldl_to (fun s a => ?_) ?_ | split)

@[simp] theorem tick_fixed (s : State) :
    fixed (tick s) = fixed s := by
  unfold tick
  repeat' (first | (simp; done) | split | simp_all)

end Sys2Proof.Machine
end

