-- ==== Sys2Proof/Laws/Tab.lean ====
section
/-! SUPPORT. Sparse tables: a read after a write, and the canonical form that every write keeps. -/

namespace Sys2Proof.Machine

@[simp] theorem tget_nil {α : Type} (d : α) (k : Nat) : tget d [] k = d := rfl

theorem tget_tdel {α : Type} (d : α) (t : Tab α) (k j : Nat) :
    tget d (tdel t k) j = if j = k then d else tget d t j := by
  induction t with
  | nil => simp [tdel]
  | cons p t ih =>
    obtain ⟨i, v⟩ := p
    by_cases h : i = k
    · by_cases e : j = k
      · simp_all [tdel]
      · have : ¬ i = j := fun x => e (x ▸ h)
        simp_all [tdel, tget]
    · by_cases e : i = j
      · subst e; simp [tdel, tget, h]
      · simp [tdel, tget, h, e, ih]

theorem tget_tins {α : Type} (d : α) (t : Tab α) (k j : Nat) (v : α) (e : j ≠ k) :
    tget d (tins t k v) j = tget d t j := by
  induction t with
  | nil => simp [tins, tget, Ne.symm e]
  | cons p t ih =>
    obtain ⟨i, x⟩ := p
    simp only [tins]
    split
    · simp [tget, Ne.symm e]
    · by_cases q : i = j
      · simp [tget, q]
      · simp [tget, q, ih]

theorem tget_tins_same {α : Type} (d : α) (t : Tab α) (k : Nat) (v : α) :
    tget d (tins (tdel t k) k v) k = v := by
  induction t with
  | nil => simp [tdel, tins, tget]
  | cons p t ih =>
    obtain ⟨i, x⟩ := p
    by_cases h : i = k
    · simpa [tdel, h] using ih
    · simp only [tdel, h, if_false, tins]
      split
      · simp [tget]
      · simp [tget, h, ih]

/-- The key written reads as written. -/
@[simp] theorem tget_tset_same {α : Type} [DecidableEq α] (d : α) (t : Tab α) (k : Nat) (v : α) :
    tget d (tset d t k v) k = v := by
  unfold tset
  split
  · simp [tget_tdel, *]
  · exact tget_tins_same d t k v

/-- Every other key reads as before. -/
theorem tget_tset_ne {α : Type} [DecidableEq α] (d : α) (t : Tab α) (k j : Nat) (v : α) (h : j ≠ k) :
    tget d (tset d t k v) j = tget d t j := by
  unfold tset
  split
  · simp [tget_tdel, h]
  · rw [tget_tins d _ k j v h]; simp [tget_tdel, h]

theorem tget_tset {α : Type} [DecidableEq α] (d : α) (t : Tab α) (k j : Nat) (v : α) :
    tget d (tset d t k v) j = if j = k then v else tget d t j := by
  by_cases h : j = k
  · simp [h]
  · simp [h, tget_tset_ne]

/-! ### The canonical form -/

theorem tabFrom_mono {α : Type} [DecidableEq α] (d : α) (t : Tab α) (a b : Nat) (h : a ≤ b) :
    tabFrom d b t = true → tabFrom d a t = true := by
  cases t with
  | nil => simp [tabFrom]
  | cons p t =>
    simp only [tabFrom, Bool.and_eq_true, decide_eq_true_eq]
    rintro ⟨⟨h1, h2⟩, h3⟩
    exact ⟨⟨by omega, h2⟩, h3⟩

theorem tabFrom_tdel {α : Type} [DecidableEq α] (d : α) (t : Tab α) (k : Nat) :
    ∀ lo, tabFrom d lo t = true → tabFrom d lo (tdel t k) = true := by
  induction t with
  | nil => simp [tdel]
  | cons p t ih =>
    intro lo
    simp only [tabFrom, Bool.and_eq_true, decide_eq_true_eq, tdel]
    rintro ⟨⟨h1, h2⟩, h3⟩
    split
    · exact tabFrom_mono d _ lo _ (by omega) (ih _ h3)
    · simp only [tabFrom, Bool.and_eq_true, decide_eq_true_eq]; exact ⟨⟨h1, h2⟩, ih _ h3⟩

theorem tabFrom_tins {α : Type} [DecidableEq α] (d : α) (t : Tab α) (k : Nat) (v : α) (hv : v ≠ d) :
    ∀ lo, lo ≤ k → tabFrom d lo (tdel t k) = true → tabFrom d lo (tins (tdel t k) k v) = true := by
  induction t with
  | nil => intro lo h; simp [tdel, tins, tabFrom, h, hv]
  | cons p t ih =>
    intro lo h
    simp only [tdel]
    split
    · exact ih lo h
    · rename_i hne
      simp only [tins, tabFrom, Bool.and_eq_true, decide_eq_true_eq]
      rintro ⟨⟨h1, h2⟩, h3⟩
      split
      · simp only [tabFrom, Bool.and_eq_true, decide_eq_true_eq]
        exact ⟨⟨h, hv⟩, ⟨by omega, h2⟩, h3⟩
      · simp only [tabFrom, Bool.and_eq_true, decide_eq_true_eq]
        exact ⟨⟨h1, h2⟩, ih _ (by omega) h3⟩

/-- Every write keeps a table in canonical form. -/
theorem tset_wf {α : Type} [DecidableEq α] (d : α) (t : Tab α) (k : Nat) (v : α) (h : tabWf d t = true) :
    tabWf d (tset d t k v) = true := by
  unfold tset
  split
  · exact tabFrom_tdel d t k 0 h
  · rename_i hv
    exact tabFrom_tins d t k v hv 0 (Nat.zero_le _) (tabFrom_tdel d t k 0 h)

/-- Two tables in canonical form that read alike are equal data. -/
theorem tabFrom_lt {α : Type} [DecidableEq α] (d : α) (t : Tab α) :
    ∀ lo j, tabFrom d lo t = true → j < lo → tget d t j = d := by
  induction t with
  | nil => simp
  | cons p t ih =>
    intro lo j
    simp only [tabFrom, Bool.and_eq_true, decide_eq_true_eq, tget]
    rintro ⟨⟨h1, _⟩, h3⟩ hj
    rw [if_neg (by omega)]
    exact ih _ j h3 (by omega)

/-! ### The listed keys -/

theorem nodup_tkeys {α : Type} (n : Nat) (t : Tab α) : (tkeys n t).Nodup := List.nodup_range.filter _

theorem mem_tkeys {α : Type} {n k : Nat} {t : Tab α} : k ∈ tkeys n t ↔ k < n ∧ ∃ v, (k, v) ∈ t := by
  simp [tkeys]

theorem tget_of_not_listed {α : Type} (d : α) {t : Tab α} {k : Nat} (h : ∀ v, (k, v) ∉ t) : tget d t k = d := by
  induction t with
  | nil => rfl
  | cons p t ih =>
    obtain ⟨j, v⟩ := p
    have hj : j ≠ k := fun e => h v (by simp [e])
    simpa [tget, hj] using ih fun v hv => h v (List.mem_cons_of_mem _ hv)

/-- An entry that differs from the default stands among the listed keys. -/
theorem tkeys_of_tget {α : Type} {d : α} {t : Tab α} {n k : Nat} (hk : k < n) (h : tget d t k ≠ d) : k ∈ tkeys n t := by
  rw [mem_tkeys]
  exact ⟨hk, Classical.byContradiction fun hc => h (tget_of_not_listed d fun v hv => hc ⟨v, hv⟩)⟩

end Sys2Proof.Machine
end

