-- ==== Sys2Proof/Laws/Units.lean ====
section
/-! SUPPORT. Units by number: what a unit reads as after one unit is written. -/

namespace Sys2Proof.Machine

theorem tdel_tins {α : Type} (t : Tab α) (k : Nat) (v : α) : tdel (tins t k v) k = tdel t k := by
  induction t with
  | nil => simp [tins, tdel]
  | cons p t ih =>
    obtain ⟨i, x⟩ := p
    simp only [tins]
    split
    · simp [tdel]
    · simp [tdel, ih]

theorem tdel_tdel {α : Type} (t : Tab α) (k : Nat) : tdel (tdel t k) k = tdel t k := by
  induction t with
  | nil => rfl
  | cons p t ih =>
    obtain ⟨i, x⟩ := p
    by_cases h : i = k <;> simp [tdel, h, ih]

/-- Of two writes of one key the second counts. -/
@[simp] theorem tset_tset {α : Type} [DecidableEq α] (d : α) (t : Tab α) (k : Nat) (u v : α) :
    tset d (tset d t k u) k v = tset d t k v := by
  have h : tdel (tset d t k u) k = tdel t k := by
    unfold tset
    split
    · exact tdel_tdel t k
    · rw [tdel_tins, tdel_tdel]
  unfold tset at h ⊢
  rw [h]

@[simp] theorem getWheel_setWheel (s : State) (w : Nat) (x : Wheel) : getWheel (setWheel s w x) w = x :=
  tget_tset_same ..

theorem getWheel_setWheel_ne (s : State) (w v : Nat) (x : Wheel) (h : v ≠ w) :
    getWheel (setWheel s w x) v = getWheel s v := tget_tset_ne _ _ _ _ _ h

@[simp] theorem getWheel_modWheel (s : State) (w : Nat) (f : Wheel → Wheel) :
    getWheel (modWheel s w f) w = f (getWheel s w) := getWheel_setWheel ..

theorem getWheel_modWheel_ne (s : State) (w v : Nat) (f : Wheel → Wheel) (h : v ≠ w) :
    getWheel (modWheel s w f) v = getWheel s v := getWheel_setWheel_ne _ _ _ _ h

@[simp] theorem setWheel_setWheel (s : State) (w : Nat) (x y : Wheel) :
    setWheel (setWheel s w x) w y = setWheel s w y := by simp [setWheel]

@[simp] theorem modWheel_modWheel (s : State) (w : Nat) (f g : Wheel → Wheel) :
    modWheel (modWheel s w f) w g = modWheel s w fun x => g (f x) := by simp [modWheel]

@[simp] theorem getMill_modMill (s : State) (m : Nat) (f : Mill → Mill) :
    getMill (modMill s m f) m = f (getMill s m) := tget_tset_same ..
@[simp] theorem getSail_modSail (s : State) (n : Nat) (f : Sail → Sail) :
    getSail (modSail s n f) n = f (getSail s n) := tget_tset_same ..
@[simp] theorem getTb_modTb (s : State) (n : Nat) (f : Timebase → Timebase) :
    getTb (modTb s n f) n = f (getTb s n) := tget_tset_same ..
@[simp] theorem getLeat_modLeat (s : State) (n : Nat) (f : Leat → Leat) :
    getLeat (modLeat s n f) n = f (getLeat s n) := tget_tset_same ..
@[simp] theorem getLane_modLane (s : State) (n : Nat) (f : Lane → Lane) :
    getLane (modLane s n f) n = f (getLane s n) := tget_tset_same ..
@[simp] theorem getMem_modMem (s : State) (n : Nat) (f : RingMem → RingMem) :
    getMem (modMem s n f) n = f (getMem s n) := tget_tset_same ..
@[simp] theorem getFb_modFb (s : State) (n : Nat) (f : Fb → Fb) : getFb (modFb s n f) n = f (getFb s n) :=
  tget_tset_same ..
@[simp] theorem getEmu_modEmu (s : State) (n : Nat) (f : Emu → Emu) : getEmu (modEmu s n f) n = f (getEmu s n) :=
  tget_tset_same ..
@[simp] theorem getWeir_modWeir (s : State) (n : Nat) (f : Weir → Weir) :
    getWeir (modWeir s n f) n = f (getWeir s n) := tget_tset_same ..
@[simp] theorem getSluice_modSluice (s : State) (n : Nat) (f : Sluice → Sluice) :
    getSluice (modSluice s n f) n = f (getSluice s n) := tget_tset_same ..
@[simp] theorem getClk_modClk (s : State) (n : Nat) (f : ClkMon → ClkMon) :
    getClk (modClk s n f) n = f (getClk s n) := tget_tset_same ..
@[simp] theorem getFrame_setFrame (s : State) (n : Nat) (d : Option FrameDef) :
    getFrame (setFrame s n d) n = d := tget_tset_same ..

@[simp] theorem getHop_setHop (s : State) (h : HopId) (x : Hopper) : getHop (setHop s h x) h = x := by cases h <;> rfl
@[simp] theorem getHop_modHop (s : State) (h : HopId) (f : Hopper → Hopper) : getHop (modHop s h f) h = f (getHop s h) :=
  getHop_setHop ..
@[simp] theorem getSlot_modSlot (s : State) (h : HopId) (n : Nat) (f : Slot → Slot) :
    getSlot (modSlot s h n f) h n = f (getSlot s h n) := by simp [getSlot, modSlot]

end Sys2Proof.Machine
end

