-- ==== Sys2Proof/Laws/Memory.lean ====
section
/-! SUPPORT. The memories: a read after a write, the words that a write leaves alone, and the canonical form that every
write keeps; the memory of reset has it. -/

namespace Sys2Proof.Machine

@[simp] theorem ramGet_ramSet {α : Type} [DecidableEq α] (d : α) (r : Ram α) (a : Nat) (v : α) :
    ramGet d (ramSet d r a v) a = v := tget_tset_same ..

theorem ramGet_ramSet_ne {α : Type} [DecidableEq α] (d : α) (r : Ram α) (a b : Nat) (v : α) (h : b ≠ a) :
    ramGet d (ramSet d r a v) b = ramGet d r b := tget_tset_ne _ _ _ _ _ h

/-- A word just written can be read: its check bits are fresh. -/
@[simp] theorem ramRead_ramSet {α : Type} [DecidableEq α] (d : α) (r : Ram α) (a : Nat) (v : α) :
    ramRead d (ramSet d r a v) a = some v := by simp [ramRead, ramSet, ramGet, isUe]

theorem ramRead_ramSet_ne {α : Type} [DecidableEq α] (d : α) (r : Ram α) (a b : Nat) (v : α) (h : b ≠ a) :
    ramRead d (ramSet d r a v) b = ramRead d r b := by
  simp [ramRead, ramSet, ramGet, tget_tset_ne _ _ _ _ _ h]

/-- Every write keeps the canonical form of a memory. -/
theorem ramSet_wf {α : Type} [DecidableEq α] (d : α) (r : Ram α) (a : Nat) (v : α) (h : tabWf d r.cells = true) :
    tabWf d (ramSet d r a v).cells = true := tset_wf _ _ _ _ h

@[simp] theorem spadRead_spadWrite (s : State) (w a : Nat) (v : TWord) : spadRead (spadWrite s w a v) w a = some v := by
  simp [spadRead, spadWrite, wSpad]

theorem spadRead_spadWrite_ne (s : State) (w a u b : Nat) (v : TWord) (h : u ≠ w ∨ b ≠ a) :
    spadRead (spadWrite s w a v) u b = spadRead s u b := by
  by_cases e : u = w
  · subst e
    simp [spadRead, spadWrite, wSpad, ramRead_ramSet_ne _ _ _ _ _ (h.resolve_left fun q => q rfl)]
  · simp [spadRead, spadWrite, getWheel_modWheel_ne _ _ _ _ e]

theorem spadWrite_wf (s : State) (w a : Nat) (v : TWord) (h : tabWf emptyW (getWheel s w).spad.cells = true) :
    tabWf emptyW (getWheel (spadWrite s w a v) w).spad.cells = true := by
  simpa [spadWrite, wSpad] using ramSet_wf emptyW _ a v h

theorem pinWrite_wf (s : State) (w a : Nat) (v : BitVec 14) (h : tabWf 0 (getWheel s w).pinned.cells = true) :
    tabWf 0 (getWheel (pinWrite s w a v) w).pinned.cells = true := by
  simpa [pinWrite] using ramSet_wf 0 _ a v h

@[simp] theorem retRead_retWrite (s : State) (a : Nat) (v : TWord) : retRead (retWrite s a v) a = some v :=
  ramRead_ramSet ..

theorem retRead_retWrite_ne (s : State) (a b : Nat) (v : TWord) (h : b ≠ a) :
    retRead (retWrite s a v) b = retRead s b := ramRead_ramSet_ne _ _ _ _ _ h

theorem retWrite_wf (s : State) (a : Nat) (v : TWord) (h : tabWf emptyW s.retained.cells = true) :
    tabWf emptyW (retWrite s a v).retained.cells = true := ramSet_wf _ _ _ _ h

/-- A millpond word just written reads as written, whichever bank answers its offset. -/
@[simp] theorem mpRead_mpWrite (s : State) (a : Nat) (v : TWord) : mpRead (mpWrite s a v) a = some v := by
  unfold mpWrite
  by_cases h : spareAnswers s (mpBank a) = true <;> simp_all [mpRead, spareAnswers]

theorem mpWrite_wf (s : State) (a : Nat) (v : TWord) (h : tabWf emptyW s.mp.cells = true)
    (g : tabWf emptyW s.spareRam.cells = true) :
    tabWf emptyW (mpWrite s a v).mp.cells = true ∧ tabWf emptyW (mpWrite s a v).spareRam.cells = true := by
  unfold mpWrite
  constructor
  · dsimp only
    split
    · exact h
    · exact ramSet_wf _ _ _ _ h
  · dsimp only
    split
    · exact ramSet_wf _ _ _ _ g
    · exact g

/-- What a reader's visit leaves of a wheel: only marks of its memories. -/
theorem noteRead_wheel (s : State) (m : MemSel) (a u : Nat) :
    ∃ e p, getWheel (noteRead s m a) u = { getWheel s u with
      spad := { (getWheel s u).spad with ecc := e }, pinned := { (getWheel s u).pinned with ecc := p } } := by
  have hs : ∀ (t : State) (m : MemSel) (v : Ecc), ∃ e p, getWheel (setEcc t m a v) u = { getWheel t u with
      spad := { (getWheel t u).spad with ecc := e }, pinned := { (getWheel t u).pinned with ecc := p } } := by
    intro t m v
    cases m with
    | spad w =>
      by_cases h : u = w
      · subst h
        exact ⟨_, (getWheel t w).pinned.ecc, getWheel_modWheel ..⟩
      · exact ⟨(getWheel t u).spad.ecc, (getWheel t u).pinned.ecc, getWheel_modWheel_ne _ _ _ _ h⟩
    | pinned w =>
      by_cases h : u = w
      · subst h
        exact ⟨(getWheel t w).spad.ecc, _, getWheel_modWheel ..⟩
      · exact ⟨(getWheel t u).spad.ecc, (getWheel t u).pinned.ecc, getWheel_modWheel_ne _ _ _ _ h⟩
    | _ => exact ⟨(getWheel t u).spad.ecc, (getWheel t u).pinned.ecc, rfl⟩
  unfold noteRead
  split
  · exact hs s m .ceSeen
  · exact hs s m .ueSeen
  · exact ⟨(getWheel s u).spad.ecc, (getWheel s u).pinned.ecc, rfl⟩

/-- A reader's visit changes no word that a reader of a scratchpad sees. -/
theorem spadRead_noteRead (s : State) (m : MemSel) (a u b : Nat) : spadRead (noteRead s m a) u b = spadRead s u b := by
  have hs : ∀ (v : Ecc), isUe v = isUe (getEcc s m a) → spadRead (setEcc s m a v) u b = spadRead s u b := by
    intro v hv
    cases m with
    | spad w =>
      by_cases h : u = w
      · subst h
        by_cases hb : b = a
        · subst hb
          simp_all [spadRead, setEcc, ramRead, ramGet, getEcc]
        · simp [spadRead, setEcc, ramRead, ramGet, tget_tset_ne _ _ _ _ _ hb]
      · simp [spadRead, setEcc, getWheel_modWheel_ne _ _ _ _ h]
    | pinned w =>
      by_cases h : u = w
      · subst h
        simp [spadRead, setEcc]
      · simp [spadRead, setEcc, getWheel_modWheel_ne _ _ _ _ h]
    | _ => rfl
  unfold noteRead
  split
  · rename_i h
    exact hs .ceSeen (by rw [h]; rfl)
  · rename_i h
    exact hs .ueSeen (by rw [h]; rfl)
  · rfl

/-- The memories of reset are in canonical form. -/
theorem reset_memory_wf : tabWf emptyW State.reset.mp.cells = true ∧ tabWf emptyW State.reset.spareRam.cells = true ∧
    tabWf emptyW State.reset.retained.cells = true ∧
    ∀ w, tabWf emptyW (getWheel State.reset w).spad.cells = true ∧ tabWf 0 (getWheel State.reset w).pinned.cells = true :=
  ⟨rfl, rfl, rfl, fun _ => ⟨rfl, rfl⟩⟩

/-! ### The window -/

@[simp] theorem depth_winWr (x : Wheel) (i : Nat) (v : TWord) : depth (winWr x i v) = depth x := by
  simp only [depth, winWr]
  split <;> simp_all

theorem winWr_mode (x : Wheel) (i : Nat) (v : TWord) : (winWr x i v).mode = x.mode ∧ (winWr x i v).vb = x.vb := by
  simp only [winWr]
  split <;> simp

theorem winRd_winWr (x : Wheel) (i j : Nat) (v : TWord) (hi : i < 64) (hj : j < 64) :
    winRd (winWr x i v) j = if j = i then v else winRd x j := by
  unfold winRd winWr
  by_cases g : x.mode.guard
  · simp only [g, if_true, tget_tset]
    have : (j % 64 = i % 64) = (j = i) := by rw [Nat.mod_eq_of_lt hi, Nat.mod_eq_of_lt hj]
    simp only [this]
  · simp only [g, if_false, tget_tset, Bool.false_eq_true]
    have : ((x.vb + j) % 512 = (x.vb + i) % 512) = (j = i) := by
      apply propext
      omega
    simp only [this]

@[simp] theorem depth_setDepth (x : Wheel) (n : Nat) : depth (setDepth x n) = n := by
  simp only [depth, setDepth]
  split <;> simp_all

@[simp] theorem winRd_setDepth (x : Wheel) (n i : Nat) : winRd (setDepth x n) i = winRd x i := by
  simp only [winRd, setDepth]
  split <;> simp_all

@[simp] theorem depth_wrFrom (l : List TWord) : ∀ (x : Wheel) (j : Nat), depth (wrFrom x j l) = depth x := by
  induction l with
  | nil => intros; rfl
  | cons v t ih => intro x j; simp [wrFrom, ih]

/-- What the window reads as after words are written to stack entries from `j` up. -/
theorem winRd_wrFrom (l : List TWord) : ∀ (x : Wheel) (j i : Nat), j + l.length ≤ 32 → i < 64 →
    winRd (wrFrom x j l) i = if 32 + j ≤ i ∧ i < 32 + j + l.length then nth emptyW l (i - (32 + j)) else winRd x i := by
  induction l with
  | nil =>
    intro x j i _ _
    rw [if_neg (by simp)]
    rfl
  | cons v t ih =>
    intro x j i h hi
    simp only [List.length_cons] at h
    rw [wrFrom, ih _ _ _ (by omega) hi, winRd_winWr _ _ _ _ (by omega) hi]
    by_cases e : i = 32 + j
    · subst e
      rw [if_neg (by omega), if_pos rfl, if_pos (by simp)]
      simp [nth]
    · by_cases c : 32 + (j + 1) ≤ i ∧ i < 32 + (j + 1) + t.length
      · have hc : 32 + j ≤ i ∧ i < 32 + j + (t.length + 1) := by omega
        have : i - (32 + j) = (i - (32 + (j + 1))) + 1 := by omega
        simp [c, hc, nth, this]
      · have hc : ¬ (32 + j ≤ i ∧ i < 32 + j + (t.length + 1)) := by omega
        simp [c, hc, e]

/-- The window after `k` operands are popped and `vs` pushed. -/
theorem winRd_popPush (x : Wheel) (k : Nat) (vs : List TWord) (i : Nat) (h : depth x - k + vs.length ≤ 32) (hi : i < 64) :
    winRd (popPush x k vs) i =
      if 32 + (depth x - k) ≤ i ∧ i < 32 + (depth x - k) + vs.length then nth emptyW vs (i - (32 + (depth x - k)))
      else winRd x i := by
  rw [popPush, winRd_setDepth, winRd_wrFrom _ _ _ _ h hi]

@[simp] theorem depth_popPush (x : Wheel) (k : Nat) (vs : List TWord) :
    depth (popPush x k vs) = depth x - k + vs.length := by simp [popPush]

end Sys2Proof.Machine
end

