-- ==== Sys2Proof/Laws/Issue.lean ====
section
/-! SUPPORT. Everything that issuing an instruction of a wheel can do, and what the stack operations answer. -/

namespace Sys2Proof.Machine

@[simp] theorem beginWheel_pc (x : Wheel) (op : Nat) (ws : List Nat) : (beginWheel x op ws).pc = x.pc := by
  simp only [beginWheel]
  split <;> split <;> rfl

/-- Reading words ahead leaves of a wheel all but the marks of its memories. -/
theorem readAhead_wheel (s : State) (w : Nat) (c : W32) (u : Nat) :
    ∃ e p, getWheel (readAhead s w c).1 u = { getWheel s u with
      spad := { (getWheel s u).spad with ecc := e }, pinned := { (getWheel s u).pinned with ecc := p } } := by
  have hl : ∀ (l : List Nat) (f : Nat → MemSel) (g : Nat → Nat) (s : State), ∃ e p,
      getWheel (l.foldl (fun s i => noteRead s (f i) (g i)) s) u = { getWheel s u with
        spad := { (getWheel s u).spad with ecc := e }, pinned := { (getWheel s u).pinned with ecc := p } } := by
    intro l f g
    induction l with
    | nil => intro s; exact ⟨(getWheel s u).spad.ecc, (getWheel s u).pinned.ecc, rfl⟩
    | cons a t ih =>
      intro s
      obtain ⟨e, p, h⟩ := ih (noteRead s (f a) (g a))
      obtain ⟨e', p', h'⟩ := noteRead_wheel s (f a) (g a) u
      exact ⟨e, p, by rw [List.foldl_cons, h, h']⟩
  unfold readAhead
  dsimp only
  split
  · exact ⟨(getWheel s u).spad.ecc, (getWheel s u).pinned.ecc, rfl⟩
  · exact hl _ _ _ s

/-- What a wheel holds after it has read the words at `c` ahead: its fetch state apart, only marks of its memories differ. -/
theorem holdAhead_wheel (s : State) (w : Nat) (l : List (W32 × List (BitVec 14))) (c : W32) :
    ∃ e p f, getWheel (holdAhead s w l c) w = { getWheel s w with
      spad := { (getWheel s w).spad with ecc := e }, pinned := { (getWheel s w).pinned with ecc := p }, fetch := f } := by
  obtain ⟨e, p, h⟩ := readAhead_wheel s w c w
  exact ⟨e, p, _, by simp only [holdAhead, getWheel_modWheel]; rw [h]⟩

/-- The program counter stands while an instruction begins. -/
@[simp] theorem beginAt_pc (s : State) (w op : Nat) (ws : List Nat) :
    (getWheel (beginAt s w op ws) w).pc = (getWheel s w).pc := by
  unfold beginAt
  dsimp only
  split
  · simp
  · split
    · simp
    · obtain ⟨e, p, f, h⟩ := holdAhead_wheel (modWheel s w fun x => beginWheel x op ws) w
        [((getWheel (modWheel s w fun x => beginWheel x op ws) w).pc, ws.map fun v => BitVec.ofNat 14 v)]
        (codeAdd (getWheel (modWheel s w fun x => beginWheel x op ws) w).pc ws.length)
      rw [h]
      simp

/-- Where no such instruction can begin, nothing changes. -/
theorem issue_idle (s : State) (w op : Nat) (ext : List Nat) (f : State → Res)
    (h : (canIssue (settle s w) w && offered (settle s w) w (op :: ext)) = false) : issue s w op ext f = s := by
  simp only [issue, h, Bool.false_eq_true, if_false]

/-- The place of the instruction raises its exception. -/
theorem issue_place (s : State) (w op : Nat) (ext : List Nat) (f : State → Res) (e : Exc)
    (h : (canIssue (settle s w) w && offered (settle s w) w (op :: ext)) = true)
    (p : placeChk (getWheel (settle s w) w) op (ext.length + 1) = some e) :
    issue s w op ext f = failAt (settle s w) w e := by
  simp only [issue, h, if_true, p]

/-- The fetch of the instruction raises exception 14. -/
theorem issue_fetch (s t : State) (w op : Nat) (ext : List Nat) (f : State → Res) (e : Exc)
    (h : (canIssue (settle s w) w && offered (settle s w) w (op :: ext)) = true)
    (p : placeChk (getWheel (settle s w) w) op (ext.length + 1) = none)
    (q : fetchWords (settle s w) w op (ext.length + 1) = .error (t, e)) :
    issue s w op ext f = failAt t w e := by
  simp only [issue, h, if_true, p, q]

theorem begun_iff (s b : State) (w op : Nat) (ext : List Nat) (h : begun s w op ext = some b) :
    (canIssue (settle s w) w && offered (settle s w) w (op :: ext)) = true ∧
    placeChk (getWheel (settle s w) w) op (ext.length + 1) = none ∧
    ∃ t, fetchWords (settle s w) w op (ext.length + 1) = .ok t ∧
      b = beginAt t w op (op :: ext) := by
  simp only [begun] at h
  split at h
  · rename_i hc
    split at h
    · cases h
    · rename_i hp
      split at h
      · cases h
      · rename_i t hf
        exact ⟨hc, hp, t, hf, by cases h; rfl⟩
  · cases h

/-- An instruction that begins and whose effect answers a state retires with the flow of the answer. -/
theorem issue_ok {s b t : State} {w op : Nat} {ext : List Nat} {f : State → Res} {fl : Flow}
    (h : begun s w op ext = some b) (e : f b = .ok (t, fl)) :
    issue s w op ext f = arrive (modWheel t w fun x => retireWheel x (getWheel b w).pc (ext.length + 1) fl) w fl := by
  obtain ⟨hc, hp, u, hf, rfl⟩ := begun_iff s b w op ext h
  simp only [issue, hc, if_true, hp, hf, e, beginAt_pc]

/-- An instruction that begins and whose effect raises an exception leaves it to be taken. -/
theorem issue_fail {s b t : State} {w op : Nat} {ext : List Nat} {f : State → Res} {e : Exc}
    (h : begun s w op ext = some b) (q : f b = .error (t, e)) : issue s w op ext f = failAt t w e := by
  obtain ⟨hc, hp, u, hf, rfl⟩ := begun_iff s b w op ext h
  simp only [issue, hc, if_true, hp, hf, q]

/-- An instruction whose whole effect is on the stack. -/
theorem issue_retired {s b : State} {w op : Nat} {ext : List Nat} {f : State → Res} {fl : Flow} {g : Wheel → Wheel}
    (h : begun s w op ext = some b) (e : f b = .ok (modWheel b w g, fl)) :
    issue s w op ext f = retired b w (ext.length + 1) fl g := issue_ok h e

theorem depthExc_room (b : State) (w k n op : Nat) (h : Room b w k n) :
    depthExc (getWheel b w) k k n op = none := by
  unfold depthExc
  rw [if_neg (by have := h.1; omega), if_neg (by have := h.2; omega)]

/-- A stack operation that has room and raises nothing pushes what its law makes of the operands. -/
theorem stackOp_ok {s b : State} {w op k : Nat} {f : Wheel → List TWord → Except Exc (List TWord)} {vs : List TWord}
    (h : begun s w op [] = some b) (n : Nat) (r : Room b w k n)
    (e : f (getWheel b w) (tops (getWheel b w) k) = .ok vs) :
    stackOp s w op k n f = retired b w 1 .next fun x => popPush x k vs := by
  unfold stackOp
  refine issue_retired h ?_
  simp only [depthExc_room b w k n op r, e]

theorem retireWheel_next (x : Wheel) (c : W32) (len : Nat) :
    retireWheel x c len .next =
      { x with pc := codeAdd c len, pend := countDown x.pend, halted := x.halted || x.stepReq, stepReq := false,
               fresh := false, iterEnd := (retireWheel x c len .next).iterEnd } := rfl

theorem popPush_frame (x : Wheel) (k : Nat) (vs : List TWord) :
    popPush x k vs = { x with sd := (popPush x k vs).sd, gsd := (popPush x k vs).gsd,
                              regs := (popPush x k vs).regs, gregs := (popPush x k vs).gregs } := by
  have hw : ∀ (l : List TWord) (x : Wheel) (j : Nat), wrFrom x j l =
      { x with regs := (wrFrom x j l).regs, gregs := (wrFrom x j l).gregs } := by
    intro l
    induction l with
    | nil => intro x j; rfl
    | cons v t ih =>
      intro x j
      rw [wrFrom, ih]
      simp only [winWr]
      split <;> rfl
  rw [popPush]
  generalize hn : depth x - k + vs.length = n
  rw [hw vs x (depth x - k)]
  simp only [setDepth]
  split <;> rfl

/-- Popping, pushing and retiring in the terms of the claims. -/
theorem pushed_of_retired (b : State) (w k len : Nat) (vs : List TWord) (h : depth (getWheel b w) - k + vs.length ≤ 32) :
    Pushed b (retired b w len .next fun x => popPush x k vs) w k len vs := by
  have hx : getWheel (retired b w len .next fun x => popPush x k vs) w =
      retireWheel (popPush (getWheel b w) k vs) (getWheel b w).pc len .next := by simp [retired, arrive]
  have hd (y : Wheel) (c : W32) (n : Nat) : depth (retireWheel y c n .next) = depth y := rfl
  have hr (y : Wheel) (c : W32) (n i : Nat) : winRd (retireWheel y c n .next) i = winRd y i := rfl
  have hf := popPush_frame (getWheel b w) k vs
  refine ⟨?_, ?_, ?_, ?_, ?_, ?_, ?_⟩
  · unfold OnlyWheel
    rw [hx]
    simp [retired, arrive, modWheel]
  · rw [hx, retireWheel_next]
    rw [hf]
    exact ⟨rfl, rfl, rfl, rfl, rfl⟩
  · unfold StackFrame
    rw [hx, retireWheel_next]
    rw [hf]
  · rw [hx, hd, depth_popPush]
  · intro j hj
    rw [hx, hr, winRd_popPush _ _ _ _ h (by omega), if_neg (by omega)]
  · intro j hj
    rw [hx, hr, winRd_popPush _ _ _ _ h (by omega), if_pos (by omega)]
    congr 1
    omega
  · intro i hi
    rw [hx, hr, winRd_popPush _ _ _ _ h (by omega), if_neg (by omega)]

/-- A stack operation in the terms of the claims. -/
theorem stackOp_pushed {s b : State} {w op k : Nat} {f : Wheel → List TWord → Except Exc (List TWord)} {vs : List TWord}
    (h : begun s w op [] = some b) (r : Room b w k vs.length)
    (e : f (getWheel b w) (tops (getWheel b w) k) = .ok vs) : Pushed b (stackOp s w op k vs.length f) w k 1 vs := by
  rw [stackOp_ok h vs.length r e]
  exact pushed_of_retired b w k 1 vs r.2

end Sys2Proof.Machine
end

