-- ==== Sys2Proof/Tests/Slice0.lean ====
section
/-! SUPPORT. Small tests: what `WellFormed` refuses, how the words of each family decode, and states that meet the
hypotheses of the statements. Every state is the reset state with a few fields set. -/

set_option maxRecDepth 20000
set_option Elab.async false

namespace Sys2Proof.Tests

open Sys2Proof Sys2Proof.Machine

/-! ### States -/

/-- A wheel that runs with the operands `vs`, TOS last. -/
def onStack (vs : List TWord) (x : Wheel := {}) : Wheel :=
  { x with parked := false, sd := vs.length, regs := vs.zipIdx.map fun p => (32 + x.vb + p.2, p.1) }

/-- The reset state with wheel 0 as `x` and the words `ws` at the start of mill 0's slice. -/
def runs (x : Wheel) (ws : List Nat) (s : State := State.reset) : State :=
  { s with wheels := [(0, x)], mills := [(0, { slice := ws.zipIdx.map fun p => (p.2, BitVec.ofNat 14 p.1) })] }

/-- Supervisor level, Service world. -/
def sup : Mode := { world := true, level := true }

def int (v : W32) : TWord := ⟨.int, v⟩

/-- An instruction of wheel 0 with the words `op :: ext` begins, and the state on which it acts satisfies `p`. -/
def meets (s : State) (op : Nat) (ext : List Nat) (p : State → Bool) : Bool :=
  match begun s 0 op ext with
  | some b => p b
  | none => false

/-- It begins with the operands `vs`, TOS first, on the stack. -/
def has (x : Wheel) (ws : List Nat) (vs : List TWord) : Bool :=
  match ws with
  | [] => false
  | op :: ext => meets (runs x ws) op ext fun b => tops (getWheel b 0) vs.length == vs

/-- The outcome of a command is a next state that satisfies `p`. -/
def gives (o : Host.Outcome State Fault Refusal) (p : State → Bool) : Bool :=
  match o with
  | .next t => p t
  | _ => false

/-! ### Well-formedness: one ill-formed command for each check -/

def rec22 : StateRec := ⟨0, true, 0, 0, List.replicate 22 emptyW⟩

theorem test_wf_cvt : WellFormed (.cvt 0 15) = false ∧ WellFormed (.cvt 0 14) = true := by decide
theorem test_wf_undefined : WellFormed (.undefinedOpcode 0 0x20) = false ∧ WellFormed (.undefinedOpcode 0 0) = true := by decide
theorem test_wf_beats : WellFormed (.hostPortWrite 0 ⟨[], none⟩) = false ∧ WellFormed (.hostPortWrite 0 ⟨(List.replicate 9 (0, 0)), none⟩) = false ∧
    WellFormed (.hostPortWrite 0 ⟨(List.replicate 8 (0, 0)), none⟩) = true := by decide
theorem test_wf_duty : WellFormed (.dutyFrame false default (List.replicate 31 default)) = false ∧
    WellFormed (.dutyFrame false default (List.replicate 30 default)) = true := by decide
theorem test_wf_intentcopy : WellFormed (.intentcopy false default default []) = false ∧
    WellFormed (.intentcopy false default default (List.replicate 8 default)) = false ∧
    WellFormed (.intentcopy false default default [default]) = true := by decide
theorem test_wf_state : WellFormed (.stateFrame false default rec22 { rec22 with words := [] }) = false ∧
    WellFormed (.stateFrame false default rec22 rec22) = true := by decide
theorem test_wf_copy : WellFormed (.copyFrame false default rec22 ⟨[], []⟩) = false ∧
    WellFormed (.copyFrame false default rec22 ⟨List.replicate 4 emptyW, List.replicate 4 none⟩) = true := by decide
theorem test_wf_hello : WellFormed (.hello false default default ⟨0, 0, 0, 0, [], 0, 0⟩) = false := by decide
theorem test_wf_handover : WellFormed (.handover false default default 0 []) = false := by decide
theorem test_wf_publish : WellFormed (.ringPublishFrame false default 0 0 [0, 0, 0] 0) = false := by decide

/-! ### Decoding: words written from the encodings of R179 and R180 -/

/-- The words decode, with nothing left over to read, to the command. -/
def dec (ws : List (BitVec 14)) (i : Instr) : Bool := decode 0 0 ws == some i

theorem test_decode_stack : dec [0b00000000010000] (.dup 0) && dec [0b00001100000011] (.pick 0 3) && dec [0b00000111111111] (.pushi 0 0xFF) &&
    dec [0b11000100000001, 0b11111111111111] (.lits 0 1 0x3FFF) &&
    dec [0b11000001011111, 0b11111111111111, 0b00000000000001] (.litt 0 5 0xFFFFC001) = true := by decide
theorem test_decode_moves : dec [0b00001000011111] (.ldl 0 31) && dec [0b00001000100000] (.stl 0 0) && dec [0b00001001111111] (.ldf 0 63) &&
    dec [0b00001010000001] (.stf 0 1) = true := by decide
theorem test_decode_arith : dec [0b00000000100000] (.add 0) && dec [0b00000000110011] (.mod 0) && dec [0b00000001000010] (.sar 0) &&
    dec [0b00000001011110] (.cvt 0 14) && dec [0b00000001011111] (.clrs 0) && dec [0b00000001100011] (.st2 0) = true := by decide
theorem test_decode_flow : dec [0b00010011111111] (.jmp 0 0xFF) && dec [0b11001010001111, 0b11111111111110] (.jmpl 0 0x3FFFE) &&
    dec [0b00010100000000] (.call 0 0) && dec [0b11001010010001, 0b00000000000000] (.calll 0 0x4000) &&
    dec [0b11001010100000, 0b00000000000101] (.cadr 0 5) && dec [0b00111110000000] (.bgez 0 0x80) &&
    dec [0b11001001110011, 0b11111111111111] (.bccl 0 7 0xFFFF) && dec [0b10011110000001] (.btag 0 15 1) &&
    dec [0b10100011111111] (.bntag 0 1 0x7F) = true := by decide
theorem test_decode_loops : dec [0b00001011100000] (.enter 0 32) && dec [0b00001100100111] (.returnW 0 7) && dec [0b00001100101011] (.sail 0 3) &&
    dec [0b00011010000001] (.tell 0 0x81) && dec [0b01000000111111] (.scale 0 63) && dec [0b01000011000001] (.mkduty 0 1) &&
    dec [0b01000100000110] (.piq 0 6) && dec [0b01000100001011] (.pidq 0 3) && dec [0b01000101001100] (.slew 0 12) &&
    dec [0b01000110000000] (.rpt 0 0) = true := by decide
theorem test_decode_system : dec [0b00000010000000] (.move 0 0) && dec [0b00000011110000] (.rte 0) && dec [0b00000011111001] (.fret 0) &&
    dec [0b11100001000001] (.customOpcode 0 0x41) && dec [0b00000000000000] (.undefinedOpcode 0 0) = true := by decide

/-! ### Instructions: states that meet the hypotheses -/

theorem wit_stackMoves : [0x01, 0x10, 0x11, 0x12, 0x13, 0x14, 0x302].all (fun op =>
    has (onStack [int 3, int 2, int 1]) [op] [int 1, int 2, int 3]) = true := by decide
theorem wit_pick_least : has (onStack [int 1]) [0x300] [int 1] = true := by decide
theorem wit_literals : [0x100, 0x1FF].all (fun op => has (onStack []) [op] []) && [0, 1, 2, 5, 11].all (fun t =>
    has (onStack []) [0x3100 + t, 0x2000] [] && has (onStack []) [0x3000 + t * 16 + 15, 0x3FFF, 1] []) &&
    [0x04, 0x06].all (fun op => has (onStack []) [op] []) = true := by decide
theorem wit_rtime_in_run : has (onStack [] { run := some ⟨0, 0, false, ⟨0, 0⟩, false, [], [], false⟩ }) [0x04] [] = true := by decide
theorem wit_getmode_pending : meets (runs (onStack [] { pend := [⟨true, false, false, 1⟩] }) [0x06]) 0x06 [] (fun b =>
    (getWheel b 0).pend == [⟨true, false, false, 1⟩]) = true := by decide
theorem wit_localMoves : has (onStack [int 1]) [0x21F] [int 1] && has (onStack [int 1]) [0x23F] [int 1] &&
    [0x240, 0x27F].all (fun op => meets (runs (onStack []) [op]) op [] fun b =>
      spadRead b 0 (frameAddr 0 (op - 0x240)) == some emptyW) &&
    [0x280, 0x28B, 0x28C, 0x29F, 0x2A0, 0x2BB, 0x2BC].all (fun op => has (onStack [int 1]) [op] [int 1]) = true := by decide
theorem wit_stackBounds : (stackTable 0 0 0 0).all (fun p =>
    (p.2.2.1 == 0 || meets (runs (onStack []) [p.2.1]) p.2.1 [] fun b => decide (depth (getWheel b 0) < p.2.2.1)) &&
    (decide (p.2.2.2.2 ≤ p.2.2.2.1) || meets (runs (onStack (List.replicate 32 (int 1))) [p.2.1]) p.2.1 [] fun b =>
      decide (p.2.2.1 ≤ depth (getWheel b 0)) && decide (32 < depth (getWheel b 0) - p.2.2.2.1 + p.2.2.2.2))) = true := by decide
theorem wit_operandChecks : (computing 0 0).all (fun p => [Tag.rsvC, .rsvD, .empty].all (fun t =>
    has (onStack [int 1, ⟨t, 0⟩]) [p.2.1] [⟨t, 0⟩, int 1]) && has (onStack [⟨.poison, 7⟩, ⟨.poison, 9⟩]) [p.2.1] [⟨.poison, 9⟩]) = true := by decide
theorem wit_integerResults : [0x20, 0x21, 0x22, 0x23, 0x24, 0x25, 0x26, 0x30, 0x31, 0x32, 0x33, 0x40, 0x41, 0x42, 0x48, 0x49, 0x4A, 0x4B].all
    (fun op => has (onStack [int 7, int 0x80000000]) [op] [int 0x80000000, int 7] && has (onStack [int 7, int 0]) [op] [int 0, int 7]) = true := by decide
theorem wit_qFamilyResults : [Fam.q31, .q16].all (fun f => [0x20, 0x21, 0x22, 0x23, 0x24, 0x25, 0x26, 0x30, 0x31, 0x32, 0x33, 0x5F].all fun op =>
    has (onStack [⟨famTag f false, 0x80000000⟩, ⟨famTag f true, 0⟩]) [op] [⟨famTag f true, 0⟩, ⟨famTag f false, 0x80000000⟩] &&
    has (onStack [⟨famTag f true, 0x7FFFFFFF⟩, ⟨famTag f false, 1⟩]) [op] [⟨famTag f false, 1⟩]) = true := by decide
theorem wit_qFamilyShifts : [0x40, 0x41, 0x42].all (fun op => has (onStack [⟨.q31, 0x40000000⟩, int 1]) [op] [int 1, ⟨.q31, 0x40000000⟩] &&
    has (onStack [⟨.q16s, 1⟩, int 30]) [op] [int 30, ⟨.q16s, 1⟩]) = true := by decide
theorem wit_conversions : ([(0, ⟨.int, 1⟩), (1, ⟨.int, 1⟩), (13, ⟨.int, 1⟩), (14, ⟨.int, 1⟩), (2, ⟨.q31, 1⟩), (3, ⟨.q16s, 1⟩), (4, ⟨.q31, 1⟩),
    (5, ⟨.q16, 0x10000⟩), (6, ⟨.int, 1⟩), (7, ⟨.q31, 1⟩), (8, ⟨.q16, 1⟩), (9, ⟨.f32, 0x7FC00000⟩), (10, ⟨.f32, 0x7F800000⟩),
    (11, ⟨.f32, 0x3F800000⟩), (12, ⟨.sample, 1⟩), (12, ⟨.code, 1⟩)] : List (Nat × TWord)).all (fun p =>
      has (onStack [p.2]) [0x50 + p.1] [p.2]) = true := by decide
theorem wit_float_values : isNan 0x7FC00000 = true ∧ fVal 0x7F800000 = .inf false ∧ fToInt 0x3F800000 16 = some 0x10000 := by decide
theorem wit_otherAddClass : [0x20, 0x21, 0x23, 0x24, 0x30, 0x32].all (fun op => has (onStack [⟨.f32, 1⟩, ⟨.f32, 2⟩]) [op] [⟨.f32, 2⟩, ⟨.f32, 1⟩] &&
      has (onStack [⟨.time, 1⟩, ⟨.time, 2⟩]) [op] [⟨.time, 2⟩, ⟨.time, 1⟩]) &&
    has (onStack [⟨.addr, 0x1FFFFFF⟩, int 0]) [0x20] [int 0, ⟨.addr, 0x1FFFFFF⟩] &&
    has (onStack [⟨.addr, 0x1FFFFFF⟩, int 1]) [0x20] [int 1, ⟨.addr, 0x1FFFFFF⟩] &&
    has (onStack [⟨.addr, 0x1000002⟩, ⟨.addr, 0x1000001⟩]) [0x21] [⟨.addr, 0x1000001⟩, ⟨.addr, 0x1000002⟩] &&
    has (onStack [⟨.code, 0x3FFFF⟩, int 0]) [0x20] [int 0, ⟨.code, 0x3FFFF⟩] &&
    has (onStack [⟨.code, 0x3FFFF⟩, int 1]) [0x20] [int 1, ⟨.code, 0x3FFFF⟩] = true := by decide
theorem wit_numericSetting : [true, false].all (fun m => [[⟨.q31, 5⟩, int 6], [int 6, ⟨.q31, 5⟩]].all fun vs =>
    has (onStack vs { mode := { tchk := m } }) [0x20] vs.reverse) = true := by decide

/-- The words `ws` from offset `o` of mill 0's slice on, and the wheel there. -/
def runsAt (o : Nat) (x : Wheel) (ws : List Nat) (s : State := State.reset) : State :=
  { s with wheels := [(0, { x with pc := BitVec.ofNat 32 o })],
           mills := [(0, { slice := ws.zipIdx.map fun p => (o + p.2, BitVec.ofNat 14 p.1) })] }

def target (b : State) (c : W32) : Bool := @decide (Target b 0 c) (by unfold Target; infer_instance)
def inside (b : State) (o : Int) (c : W32) : Bool := @decide (Inside b 0 o c) (by unfold Inside; infer_instance)

theorem wit_jumps : meets (runs (onStack []) [0x405]) 0x405 [] (fun b => inside b 5 5 && target b 5) &&
    meets (runs (onStack []) [0x4FF]) 0x4FF [] (fun b => decide ((cOff (getWheel b 0).pc : Int) + (-1) < 0)) &&
    meets (runsAt 0x3FFF0 (onStack []) [0x47F]) 0x47F [] (fun b => decide ((regionEnd 0 : Int) < cOff (getWheel b 0).pc + 0x7F)) &&
    meets (runsAt 0x3FFF0 (onStack []) [0x40F]) 0x40F [] (fun b => inside b 0x3FFFF 0x3FFFF && target b 0x3FFFF) &&
    meets (runs (onStack []) [0x3280, 9]) 0x3280 [9] (fun b => inside b 9 9 && target b 9) &&
    meets (runs (onStack []) [0x32AF, 9]) 0x32AF [9] (fun b => inside b (15 * 0x4000 + 9) 0x3C009) = true := by decide
theorem wit_jmpi : [(0, true), (0x3FFFF, true), (0x400FFF, true), (0x401000, false), (0x40000, false), (0x800FFF, false), (0xC00000, false),
    (0x1000000, false)].all (fun p : W32 × Bool => [0x71, 0x70].all fun op =>
      meets (runs (onStack [⟨.code, p.1⟩]) [op]) op [] fun b => top b 0 0 == ⟨.code, p.1⟩ && target b p.1 == p.2) = true := by decide
theorem wit_calls : meets (runs (onStack []) [0x505]) 0x505 [] (fun b => inside b 5 5 && target b 5 && (getWheel b 0).rstack.length == 0) &&
    meets (runs (onStack [] { rstack := List.replicate 64 0 }) [0x505]) 0x505 [] (fun b => (getWheel b 0).rstack.length == 64) &&
    meets (runs (onStack [] { rstack := List.replicate 63 0 }) [0x3290, 7]) 0x3290 [7] (fun b => inside b 7 7 && target b 7 &&
      (getWheel b 0).rstack.length == 63) = true := by decide

/-- A wheel in a callee: a RET word of the Control world on both stacks. -/
def called (r : W32) (vs : List TWord) (x : Wheel := {}) : Wheel :=
  onStack vs { x with rstack := [r], csd := 1, spad := { cells := [(shBase x, ⟨.ret, r⟩)] } }

theorem wit_enterMovesWindow : meets (runs (called 5 [int 1, int 2]) [0x2C2]) 0x2C2 [] (fun b =>
    let x := getWheel b 0
    x.rstack == [5] && x.rstack.length != x.floor && !x.mode.guard && !rtEnt 5 && rtWorld 5 == x.mode.world && decide (2 ≤ x.sd) &&
    decide (x.vb + (32 + x.sd - 2) + 64 ≤ 4608) && shDepth x == 1) &&
    meets (runs (called 5 [] { vb := 4512, rf := 4096 }) [0x2C0]) 0x2C0 [] (fun b =>
      decide ((getWheel b 0).vb + (32 + (getWheel b 0).sd) + 64 = 4608)) = true := by decide
theorem wit_windowChecks : has (onStack []) [0x2C0] [] && has (onStack []) [0x320] [] &&
    meets (runs (called 5 []) [0x2C1]) 0x2C1 [] (fun b => !rtEnt 5 && rtWorld 5 == (getWheel b 0).mode.world && (getWheel b 0).sd == 0) &&
    meets (runs (called 5 [] { vb := 4513 }) [0x2C0]) 0x2C0 [] (fun b => decide (4608 < (getWheel b 0).vb + 32 + (getWheel b 0).sd - 0 + 64)) &&
    meets (runs (called 0xFFFFFFFF []) [0x2C0]) 0x2C0 [] (fun b => rtEnt 0xFFFFFFFF && rtWorld 0xFFFFFFFF != (getWheel b 0).mode.world) &&
    meets (runs (called 0xFFFFFFFF []) [0x320]) 0x320 [] (fun b => rtWorld 0xFFFFFFFF != (getWheel b 0).mode.world) &&
    meets (runs (onStack [] { rstack := [5] }) [0x320]) 0x320 [] (fun b => shDepth (getWheel b 0) == 0) = true := by decide
theorem wit_returnRestores : meets (runs (called 5 [int 1]) [0x320]) 0x320 [] (fun b =>
      !rtEnt 5 && rtWorld 5 == (getWheel b 0).mode.world && shDepth (getWheel b 0) == 1 && target b (BitVec.ofNat 32 (rtAddr 5)) &&
      spadRead b 0 (shBase (getWheel b 0)) == some ⟨.ret, 5⟩ && tget .ok (getWheel b 0).spad.ecc (shBase (getWheel b 0)) == .ok) &&
    meets (runs (called 0x40000005 [int 1] { vb := 64 }) [0x321]) 0x321 [] (fun b =>
      rtEnt 0x40000005 && rtWorld 0x40000005 == (getWheel b 0).mode.world && decide (rtDelta 0x40000005 + 1 ≤ 32) &&
      decide ((getWheel b 0).rf ≤ (getWheel b 0).vb) && decide (rtDelta 0x40000005 + 32 ≤ (getWheel b 0).vb) &&
      target b (BitVec.ofNat 32 (rtAddr 0x40000005))) = true := by decide

theorem wit_branches : (branches 0 0x80 6 0x7F).all (fun p =>
    meets (runsAt 0x200 (onStack [int 1, int 2]) (p.2.1 :: p.2.2.1)) p.2.1 p.2.2.1 fun b =>
      let n := if p.2.2.2.1 < 4 then 2 else 1
      (match branchCond p.2.1 (getWheel b 0).mode.tchk p.2.2.2.1 (tops (getWheel b 0) n) with
        | .ok v => v == (p.2.2.2.1 == 1 || p.2.2.2.1 == 2 || p.2.2.2.1 == 5 || p.2.2.2.1 == 7)
        | .error _ => false) &&
      inside b (0x200 + p.2.2.2.2) (BitVec.ofInt 32 (0x200 + p.2.2.2.2)) && target b (BitVec.ofInt 32 (0x200 + p.2.2.2.2))) = true := by decide
theorem wit_branch_below : (branches 0 0xFF 0 0x3FFFF).all (fun p =>
    meets (runs (onStack [int 0, int 0]) (p.2.1 :: p.2.2.1)) p.2.1 p.2.2.1 fun b =>
      decide ((cOff (getWheel b 0).pc : Int) + p.2.2.2.2 < 0)) = true := by decide
theorem wit_branchConditions : isNan 0x7FC00000 = true ∧ (0x1000000 : W32).toNat / 0x1000000 ≠ (0x2000000 : W32).toNat / 0x1000000 ∧
    (0x1000000 : W32).toNat / 0x1000000 = (0x1000001 : W32).toNat / 0x1000000 ∧ isRsv Tag.int = false := by decide
theorem wit_tagTests : [0x2000 + 5, 0x2800 + 128 + 5].all (fun op => meets (runs (onStack [int 1]) [op]) op [] fun b =>
      !isRsv (top b 0 0).tag && inside b 5 5 && target b 5) &&
    [0x2000 + 128 + 5, 0x2800 + 5].all (fun op => has (onStack [int 1]) [op] [int 1]) &&
    has (onStack [⟨.rsvC, 0⟩]) [0x2005] [⟨.rsvC, 0⟩] = true := by decide

/-! ### Memory instructions -/

/-- A segment descriptor: the base, the limit, SPACE, and RD, WR, USER and PTR. -/
def seg (base limit space : Nat) (rd wr user ptr : Bool) : W64 :=
  pk [(0, base), (24, limit), (48, space), (51, 1), (52, b2n rd), (53, b2n wr), (54, b2n user), (55, b2n ptr)]

/-- Segments of both worlds: 1 local, 2 in the millpond, 3 in host space, 4 without rights, 5 for the supervisor, 6 without
PTR and of one word, 7 at an odd base. -/
def segs (s : State) : State :=
  let t : Tab W64 := [(1, seg 0x100 0xFF 1 true true true true), (2, seg 0x100 0xFF 2 true true true true),
    (3, seg 0 0xFF 3 true true true false), (4, seg 0 0xFF 1 false false true true), (5, seg 0 0xFF 1 true true false true),
    (6, seg 0 0 1 true true true false), (7, seg 1 0xFF 1 true true true true)]
  { s with segC := t, segS := t }

def adr (sel off : Nat) : TWord := ⟨.addr, BitVec.ofNat 32 (sel * 0x1000000 + off)⟩
def permits (b : State) (a : TWord) (n : Nat) (st : Bool) : Bool :=
  @decide (Permits b 0 a n st) (by unfold Permits; cases st <;> infer_instance)

/-- The instruction begins at `a` with the word counts of the form and the access permitted. -/
def access (op n : Nat) (st : Bool) (a : TWord) (x : Wheel := {}) : Bool :=
  let vs := if st then (if n = 2 then [int 8, int 7, a] else [int 7, a]) else [a]
  meets (segs (runs (onStack vs x) [op])) op [] fun b => tops (getWheel b 0) vs.length == vs.reverse && permits b a n st

theorem wit_loads : [adr 1 0, adr 1 0xFE, adr 2 0, adr 3 0].all (fun a => access 0x60 1 false a && access 0x62 2 false a) &&
    access 0x60 1 false (adr 1 0xFF) && meets (segs (runs (onStack [adr 2 0] { sbuf := [⟨0x100, [int 1, int 2], false⟩] }) [0x62])) 0x62 []
      (fun b => covered (getWheel b 0).sbuf 0x100 == some (0, int 1) && covered (getWheel b 0).sbuf 0x101 == some (0, int 2)) &&
    (covered [] 0x100).isNone = true := by decide
theorem wit_stores : [adr 1 0, adr 1 0xFE, adr 2 0, adr 3 0].all (fun a => access 0x61 1 true a && access 0x63 2 true a) &&
    access 0x61 1 true (adr 3 0) { mode := { compat := true } } &&
    access 0x61 1 true (adr 2 0) { sbuf := List.replicate 4 ⟨0, [], false⟩ } = true := by decide
theorem wit_accessChecks : [(0x60, 1, false), (0x62, 2, false), (0x61, 1, true), (0x63, 2, true)].all (fun p : Nat × Nat × Bool =>
    [int 0, adr 0 0, adr 1 0x100, adr 2 0x100, adr 4 0, adr 5 0, adr 6 0, adr 7 0].all fun a =>
      let vs := if p.2.2 then (if p.2.1 = 2 then [⟨.code, 8⟩, ⟨.code, 7⟩, a] else [⟨.code, 7⟩, a]) else [a]
      meets (segs (runs (onStack vs) [p.1])) p.1 [] fun b => tops (getWheel b 0) vs.length == vs.reverse) &&
    sgNull (seg 0 0 0 true true true true) && !sgUser (seg 0 0xFF 1 true true false true) && !sgPtr (seg 0 0 1 true true true false) = true := by decide

/-- A wheel that waits. -/
def waiting (k : Stall) (vs : List TWord) (x : Wheel := {}) : State := { State.reset with wheels := [(0, onStack vs { x with stall := k })] }

theorem wit_millpondLoads : running (waiting (.mpLoad 0x10 1 true (int 0) none) [int 0]) = true ∧
    bankAsker (waiting (.mpLoad 0x10 1 true (int 0) none) [int 0]) (mpBank 0x10) = some 0 ∧
    bankAsker (waiting (.mpLoad 0x3FFFFE 2 true (int 0) none) [int 0]) (mpBank 0x3FFFFE) = some 0 ∧
    gives (execMillpondGrant 0 (waiting (.mpLoad 0x10 1 true (int 0) none) [int 0])) (fun t =>
      (getWheel t 0).stall == .mpLoad 0x10 1 true (int 0) (some [(emptyW, false)])) = true ∧
    gives (execMillpondLoadReturn 0 (waiting (.mpLoad 0x10 1 true (int 0) (some [(int 5, false)])) [int 0])) (fun t =>
      top t 0 0 == int 5 && (getWheel t 0).stall == .none) = true ∧
    gives (execMillpondLoadReturn 0 (waiting (.mpLoad 0x10 2 true (int 0) (some [(int 5, false), (poisonW, true)])) [int 0])) (fun t =>
      ((getWheel t 0).fault.map (·.num)) == some 16) = true := by decide
theorem wit_storeBuffer : running (waiting .none [] { sbuf := [⟨0x10, [int 5, int 6], false⟩] }) = true ∧
    bankAsker (waiting .none [] { sbuf := [⟨0x10, [int 5, int 6], false⟩] }) (mpBank 0x10) = some 0 ∧
    mpOn (waiting .none []) 0x10 = true ∧ mpBank 0x11 = mpBank 0x10 ∧
    gives (execStoreBufferDrain 0 (waiting .none [] { sbuf := [⟨0x10, [int 5], true⟩] })) (fun t => (getWheel t 0).sbuf == []) = true := by decide
theorem wit_hostAnswers : [Stall.hostLoad (int 0) 1, .hostLoad (int 0) 2, .hostStore (int 0) 2 [5]].all (fun k =>
      running (waiting k [int 1, int 2]) && !(waiting k []).rst.hungHi && !(getWheel (waiting k []) 0).draining) = true ∧
    gives (execHostAccessResponse (some 0) true 5 6 (waiting (.hostLoad (int 0) 2) [int 0])) (fun t => tops (getWheel t 0) 2 == [int 6, int 5]) = true ∧
    gives (execHostAccessResponse (some 0) false 0 0 (waiting (.hostLoad (int 0) 1) [int 0])) (fun t => top t 0 0 == poisonW) = true ∧
    gives (execHostAccessResponse (some 0) false 0 0 (waiting .none [] { posted := [(int 1, [5])] })) (fun t =>
      (getWheel t 0).exc12 == [(int 1, 5)] && (getWheel t 0).posted == []) = true := by decide

def localRun (b : State) (a : TWord) (n : Nat) (st : Bool) (i : Nat) : Bool :=
  @decide (LocalRun b 0 a n st i) (by unfold LocalRun; cases st <;> infer_instance)

/-- A scratchpad with `vs` from word 100h on, and a block instruction over it. -/
def block (op : Nat) (vs ops : List TWord) (p : State → Bool) : Bool :=
  meets (segs (runs (onStack ops { spad := { cells := vs.zipIdx.map fun q => (0x100 + q.2, q.1) } }) [op])) op [] p

theorem wit_moveAndFill : block 0x80 [int 1, int 2, int 3] [adr 1 0, adr 1 1, int 2] (fun b =>
      localRun b (adr 1 0) 2 false 0x100 && localRun b (adr 1 1) 2 true 0x101 && !blkActive (getWheel b 0)) &&
    block 0x81 [] [int 9, adr 1 0xFF, int 1] (fun b => localRun b (adr 1 0xFF) 1 true 0x1FF) &&
    block 0x81 [] [int 9, adr 1 0, int 0] (fun b => localRun b (adr 1 0) 0 true 0x100) = true := by decide
theorem wit_scanAndDot : block 0x82 [int 1, int 2] [int 2, adr 1 0, int 2] (fun b => localRun b (adr 1 0) 2 false 0x100 &&
      spadRead b 0 0x101 == some (int 2)) && block 0x82 [int 1, int 2] [int 9, adr 1 0, int 2] (fun b =>
      localRun b (adr 1 0) 2 false 0x100) && block 0x83 [int 1, int 2] [adr 1 0, adr 1 0, int 2] (fun b =>
      localRun b (adr 1 0) 2 false 0x100 && spadRead b 0 0x101 == some (int 2)) = true := by decide
theorem test_dot : gives (execDot 0 2 (segs (runs (onStack [adr 1 0, adr 1 0, int 2] { spad := { cells := [(0x100, int 3), (0x101, int 4)] } }) [0x83])))
    (fun t => top t 0 0 == int 25 && depth (getWheel t 0) == 1) = true := by decide +kernel

/-! ### Loop instructions -/

/-- A wheel whose current frame 0 holds `ws`. -/
def onFrame (ws : List (Nat × TWord)) (vs : List TWord) (x : Wheel := {}) : Wheel :=
  onStack vs { x with spad := { cells := ws.map fun p => (frameAddr 0 p.1, p.2) } }

/-- Wheel 0 owns sail 2. -/
def owning (s : State) : State := { s with sails := [(2, { owned := true, owner := 0 })] }

theorem wit_sail : [⟨.duty, 0x123⟩, ⟨.duty, 0x2000000⟩, ⟨.duty, 0xC000000⟩, poisonW, int 1].all (fun d =>
    meets (owning (runs (onFrame [(0, int 0), (3, int 0xFFFF0502)] [d]) [0x328])) 0x328 [] fun b =>
      (match frameWord b 0 3 with | some v => fld v.val 0 8 == 2 && fld v.val 8 8 == 5 && fld v.val 16 8 == 0xFF | none => false) &&
      ownsSail b 0 2 && !ownsSail b 0 5 && !tbHeld b 2 && top b 0 0 == d && !(runTaken (getWheel b 0)).contains 2) = true := by decide
theorem wit_sail_late : meets (owning (runs (onFrame [(0, int 0), (3, int 0x0502)] [⟨.duty, 1⟩] { run := some ⟨0, 0, false, ⟨0, 0⟩, true, [], [2], false⟩ }) [0x328]))
    0x328 [] (fun b => (runTaken (getWheel b 0)).contains 2) = true := by decide
theorem wit_tell : meets (segs (runs (onStack [int 5] { tdest := [(0, adr 2 0)] }) [0x601])) 0x601 [] (fun b =>
      tget emptyW (getWheel b 0).tdest 0 == adr 2 0 && (tellQueue b 0).length == 0 && sgSpace (descOf b 0 (adr 2 0)) == 2 &&
      decide (aOff (adr 2 0).val + 3 ≤ sgLimit (descOf b 0 (adr 2 0))) && sgUser (descOf b 0 (adr 2 0)) &&
      sgRd (descOf b 0 (adr 2 0)) && sgWr (descOf b 0 (adr 2 0))) &&
    meets (segs (runs (onStack [int 5] { tdest := [(0, adr 2 0xFC)] }) [0x6FF] { State.reset with tail := { queues := [(0, List.replicate 4 default)] } }))
      0x6FF [] (fun b => (tellQueue b 0).length == 4 && decide (aOff (adr 2 0xFC).val + 3 ≤ sgLimit (descOf b 0 (adr 2 0xFC)))) = true := by decide
theorem wit_wait : meets (runs (onStack [] { fetch := { reload := false }, run := some ⟨0, 0, false, ⟨0, 0⟩, false, [], [], false⟩ }) [2]) 2 [] (fun b =>
      !serviceActive b (getWheel b 0) && !(getWheel b 0).fetch.reload && (List.range 16).all (fun e => !(getWake b 0 e).pend) &&
      fsState b 0 0 != 2) && [({ mode := sup } : Wheel), { mode := { guard := true } }].all (fun x => has (onStack [] x) [2] []) = true := by decide

def q31 (v : W32) : TWord := ⟨.q31, v⟩
/-- The instruction begins in a frame with the words `ws`, which it reads there. -/
def framed (op : Nat) (ws : List (Nat × TWord)) (vs : List TWord) : Bool :=
  meets (runs (onFrame ws vs) [op]) op [] fun b => ws.all (fun p => frameWord b 0 p.1 == some p.2) && tops (getWheel b 0) vs.length == vs.reverse

theorem wit_scale : [0x100C, 0x104C].all (fun op => framed op [(12, q31 0x40000000), (13, q31 1)] [⟨.sample, 0x8000⟩]) &&
    framed 0x108C [(12, q31 0), (13, ⟨.q31s, 9⟩)] [q31 5] && framed 0x108C [(12, ⟨.q16, 9⟩), (13, ⟨.q16, 0⟩)] [⟨.q16, 5⟩] &&
    framed 0x10CC [(12, int 0x81)] [q31 0x40000000] && framed 0x10FF [(63, int 0x81)] [q31 0x80000000] = true := by decide
theorem wit_piq : framed 0x1100 [(12, q31 0), (32, ⟨.q16, 0x10000⟩), (33, q31 5), (34, q31 0x80000000), (35, q31 0x7FFFFFFF)] [q31 7] &&
    framed 0x1106 [(18, q31 0), (56, q31 1), (57, q31 5), (58, q31 9), (59, q31 3)] [⟨.q31s, 7⟩] = true := by decide
theorem wit_pidq : framed 0x1108 ((12, q31 0) :: (13, q31 0) :: (14, q31 0) :: (List.range 6).map fun i => (32 + i, q31 1)) [q31 7] &&
    framed 0x110B ((21, q31 0) :: (22, q31 0) :: (23, q31 0) :: (List.range 6).map fun i => (50 + i, if i < 3 then ⟨.q16, 1⟩ else q31 1)) [q31 7] = true := by decide
theorem wit_slew : framed 0x114C [(12, q31 0), (32, q31 3)] [q31 7] && framed 0x115F [(31, q31 9), (51, q31 3)] [q31 7] &&
    framed 0x114B [] [q31 7] && framed 0x1160 [] [q31 7] = true := by decide

/-- Forms of the primitives that end before their law: too few operands, a bad tag, POISON, a frame word that cannot be
corrected, a reserved operand field. -/
theorem wit_primChecks : [0x100C, 0x104C, 0x108C, 0x10CC, 0x1100, 0x1108, 0x114C, 0x05].all (fun op =>
      meets (runs (onFrame [] []) [op]) op [] (fun b => depth (getWheel b 0) == 0) &&
      [⟨.rsvC, 0⟩, emptyW, poisonW, int 1].all (fun v => framed op ([0, 8, 9, 10, 11, 12, 13].map fun i => (i, int 0)) [v, v]) &&
      meets (runs (onStack [q31 1, q31 1] { spad := { ecc := [(frameAddr 0 8, .ue), (frameAddr 0 12, .ue), (frameAddr 0 32, .ue)] } }) [op]) op []
        (fun b => [8, 12, 32].all fun i => frameWord b 0 i == none)) &&
    [0x103F, 0x107F, 0x10BF, 0x1107, 0x110C, 0x110F].all (fun op => framed op [] [q31 7]) = true := by decide
theorem test_scale_poison : gives (execScale 0 12 (runs (onFrame [(12, q31 1), (13, q31 1)] [⟨.poison, 9⟩]) [0x100C])) (fun t =>
    top t 0 0 == ⟨.poison, 9⟩ && depth (getWheel t 0) == 1) = true := by decide

/-- FSTAT of a started mode pair with the direction and XSTATE given. -/
def pairStat (dir : Bool) (x : Nat) : TWord := int (BitVec.ofNat 32 (1 + 4 + 8 * b2n dir + 16 * x))

theorem wit_cross : [(false, 0, 5, 0), (false, 0, 0xFFFFFFF0, 0), (true, 0, 0xFFFFFFF0, 0), (false, 1, 5, 0), (false, 1, 0xFFFFFFF0, 9),
    (false, 1, 0xFFFFFFF0, 0), (true, 2, 5, 0), (false, 3, 5, 0)].all (fun p : Bool × Nat × W32 × W32 =>
      framed 0x05 [(0, pairStat p.1 p.2.1), (8, q31 4), (9, q31 1), (10, int 3), (11, q31 0)] [q31 p.2.2.2, q31 p.2.2.1]) &&
    framed 0x05 [(0, int 1), (8, q31 4), (9, q31 1), (10, int 3), (11, q31 0)] [q31 0, q31 5] = true := by decide
theorem test_cross_zero : (pairStat true 3).val.toNat / 16 % 4 = 3 ∧ bitOf (pairStat false 0).val 2 = true := by decide
theorem wit_rpt : [int 3, int 0, int 0xFFFFFFFF, q31 1].all (fun c => has (onStack [c]) [0x1181] [c]) &&
    has (onStack [int 3] { rpt := { ctl := 1, start := 0x100 } }) [0x1181] [int 3] &&
    meets (runsAt 0x3FFFE (onStack [int 3]) [0x1180]) 0x1180 [] (fun b => regionEnd 0 == cOff (getWheel b 0).pc + 0 + 1) &&
    meets (runsAt 0x3FFFF (onStack [int 3]) [0x1180]) 0x1180 [] (fun b => decide (regionEnd 0 < cOff (getWheel b 0).pc + 0 + 1)) = true := by decide
theorem wit_rpt_order : meets (runsAt 0x3FFFF (onStack [int 3] { rpt := { ctl := 1, start := 0x100 } }) [0x1180]) 0x1180 [] (fun b =>
      decide (regionEnd 0 < cOff (getWheel b 0).pc + 0 + 1) && rptActive (getWheel b 0)) && has (onStack []) [0x1181] [] = true := by decide
theorem test_rpt_order : gives (execRpt 0 0 (runsAt 0x3FFFF (onStack [int 3] { rpt := { ctl := 1, start := 0x100 } }) [0x1180])) (fun t =>
    (getWheel t 0).fault.map (·.num) == some 4) = true := by decide
theorem wit_rptIterationEnd : [2, 1, 0].all (fun n => rptActive (onStack [] { rpt := { ctl := 1, cnt := n }, iterEnd := true }) &&
    gives (execRptIterationEnd 0 (runs (onStack [] { rpt := { ctl := 1, start := 9, cnt := n }, iterEnd := true }) [])) fun t =>
      (getWheel t 0).pc == if n = 2 then 9 else 0) = true := by decide

/-! ### Supervisor instructions and exceptions -/

theorem wit_setmode : [2, 8, 0x10, 1, 0xE, 4].all (fun v => has (onStack [int v]) [0xF1] [int v] && has (onStack [int v] { mode := sup }) [0xF1] [int v] &&
    has (onStack [int v] { mode := { compat := true } }) [0xF1] [int v]) = true := by decide
theorem wit_modeChange : [0, 1].all (fun n => gives (execModeChangeEffect 0 (runs (onStack [] { mode := { level := true }, pend := [⟨false, false, true, n⟩] }) [])) fun t =>
    (getWheel t 0).mode.level == (n != 0)) && has (onStack []) [0x03] [] = true := by decide
theorem wit_pending_changes : meets (runs (onStack [int 4] { pend := [⟨true, false, false, 2⟩, ⟨true, false, false, 3⟩] }) [0xF1]) 0xF1 [] (fun b =>
      ((getWheel b 0).pend.filter fun c => 1 < c.cnt).length == 2) &&
    meets (runs (onStack [int 2] { mode := { level := true }, pend := [⟨false, false, false, 1⟩] }) [0xF1]) 0xF1 [] (fun b =>
      ((getWheel b 0).pend.filter fun c => 1 < c.cnt).length == 0 && !(getWheel b 0).pend.all (·.level)) &&
    [0, 1].all (fun n => (getWheel (runs (onStack [] { pend := [⟨false, true, false, 0⟩, ⟨true, false, false, n⟩] }) []) 0).pend.length == 2) = true := by decide
theorem wit_supervisor_user : [0xF2, 0xF3, 0xF4, 0xF5, 0xF6, 0xF7, 0xF0].all (fun op =>
    meets (runs (onStack [int 1, int 1, int 1]) [op]) op [] fun b => !(getWheel b 0).mode.level && !(getWheel b 0).mode.guard) = true := by decide
theorem wit_segmentTable : [0, 255, 256, 1].all (fun i => has (onStack [int i] { mode := sup }) [0xF2] [int i] &&
      has (onStack [int i] { mode := sup }) [0xF4] [int i]) &&
    ([(0x1000000, 1), (0x10000, 1), (0x10060, 0), (0x20040, 0), (0x30001, 0xFFFFFF), (0x40000, 0), (0, 0)] : List (W32 × W32)).all (fun p =>
      [0, 1, 255, 256].all fun i => has (onStack [int p.2, int p.1, int i] { mode := sup }) [0xF3] [int i, int p.1, int p.2]) &&
    sgSpace ((0x40000 : W32) ++ (0 : W32)) == 4 && sgSpace ((0x10060 : W32) ++ (0 : W32)) == 1 &&
    sgLimit ((0x10060 : W32) ++ (0 : W32)) == 0x6000 && (sgSpace ((0x20040 : W32) ++ (0 : W32)) == 2) = true := by decide
theorem wit_returnStackMoves : [(0xF5, []), (0xF6, [⟨.ret, 5⟩]), (0xF6, [⟨.ret, 0x80000005⟩]), (0xF6, [int 5])].all (fun p : Nat × List TWord =>
    meets (runs (called 5 p.2 { mode := { level := true } }) [p.1]) p.1 [] fun b => shDepth (getWheel b 0) == 1 &&
      (getWheel b 0).rstack == [5] && rtWorld 5 == (getWheel b 0).mode.world && spadRead b 0 0x7800 == some ⟨.ret, 5⟩) &&
    has (onStack [⟨.ret, 5⟩] { mode := { level := true }, rstack := List.replicate 64 5 }) [0xF6] [⟨.ret, 5⟩] &&
    meets (runs (onStack [] { mode := { level := true }, rstack := [5], csd := 1 }) [0xF5]) 0xF5 [] (fun b => spadRead b 0 0x7800 != some ⟨.ret, 5⟩) = true := by decide
theorem wit_setdesc_bank : meets (runs (onStack [int 0, int 0x20000, int 1] { mode := sup }) [0xF3] { State.reset with mem := { State.reset.mem with bankpwr := 2 } })
      0xF3 [] (fun b => !bankOn b 0 && sgSpace ((0x20000 : W32) ++ (0 : W32)) == 2) &&
    meets (runs (onStack [int 0, int 0x30000, int 1] { mode := { level := true } }) [0xF3]) 0xF3 [] (fun b => !(getWheel b 0).mode.world) = true := by decide
theorem wit_rput_world : meets (runs (onStack [⟨.ret, 5⟩] { mode := { level := true }, rstack := [0x80000005] }) [0xF6]) 0xF6 [] (fun b =>
    !atFloor (getWheel b 0) && rtWorld (nth 0 (getWheel b 0).rstack 0) != (getWheel b 0).mode.world && rtWorld 5 == (getWheel b 0).mode.world) = true := by decide
theorem wit_pstoreLine : [false, true].all (fun k => let s := runs (onStack [int 5, ⟨.code, 0x100⟩] { mode := sup, stall := .pstore 0x100 5 k }) [0xF7]
    running s && s.rst.vps && (getWheel s 0).stall == .pstore 0x100 5 k && !(getWheel s 0).draining && depth (getWheel s 0) == 2) = true ∧
    ({ State.reset.rst with vps := false } : ResetSt).vps = false := by decide
theorem test_pstoreLine : gives (execPstore 0 (runs (onStack [int 5, ⟨.code, 0x100⟩] { mode := sup, stall := .pstore 0x100 5 true }) [0xF7])) (fun t =>
    tget 0 (getMill t 0).slice 0x100 == 5 && (getWheel t 0).sd == 0 && (getWheel t 0).pc == 1) = true := by decide
theorem wit_pstore : [(0x3FFF, 0), (0x4000, 0), (5, 0x400FFF), (5, 0x3FFFF)].all (fun p : W32 × W32 =>
    meets (runs (onStack [int p.1, ⟨.code, p.2⟩] { mode := sup }) [0xF7]) 0xF7 [] fun b => target b p.2 && !badLine b 0 (lineOf p.2)) &&
    meets { runs (onStack [int 5, ⟨.code, 0x100⟩] { mode := sup }) [0xF7] with
      mills := [(0, { slice := [(0, 0xF7)], badLines := [(14, true)] })] } 0xF7 [] (fun b => badLine b 0 (lineOf 0x100)) = true := by decide
theorem wit_fcall : [(0x1100000, true, 0), (0, true, 0), (0x100000, false, 0), (0x1900000, false, 0), (0x1100000 + 0x40000, true, 0)].all
    (fun p : W64 × Bool × Nat => meets (runs (onStack [int 1] { mode := { level := p.2.1 } }) [0xF8] { State.reset with fentC := p.1, fentS := p.1 })
      0xF8 [] fun b => b.fentC == p.1 && (fexitOf (getWheel b 0) (feWorld p.1)).valid == false) &&
    meets (runs (onStack [] { fexitC := { valid := true }, fexitS := { valid := true } }) [0xF8] { State.reset with fentC := 0x1100000 }) 0xF8 []
      (fun b => (fexitOf (getWheel b 0) (feWorld 0x1100000)).valid) = true := by decide
theorem test_fentry : bitOf (0x1100000 : W64) 20 = true ∧ bitOf (0x1100000 : W64) 24 = true ∧ feRegion 0x1100000 = 0 ∧ feNarg 0x1100000 = 0 := by decide
theorem wit_fret : [(0, 0, 0), (1, 0, 0), (0, 1, 0), (0, 0, 1)].all (fun p : Nat × Nat × Nat =>
    meets (runs (onStack [] { mode := { level := true }, fexitC := { valid := p.1 == 0, nres := p.2.1 }, rstack := List.replicate p.2.2 5 }) [0xF9])
      0xF9 [] fun b => (fexitOf (getWheel b 0) false).valid == (p.1 == 0)) = true := by decide

theorem wit_undefined : [0x00, 0x07].all (fun op => (opLen op).isNone && has (onStack []) [op] []) = true := by decide
/-- Mill 0 with custom opcode group 1 as given, and at its entry the microword that adds NOS and TOS. -/
def custom (en su : Bool) (fmax : Nat) : State :=
  let d := pk [(0, b2n en), (13, 2), (15, 1), (28, fmax), (34, b2n su), (36, 1)]
  let m := BitVec.ofNat 112 (0x2000 + 3 * 2 ^ 33 + 2 * 2 ^ 41 + 2 ^ 45 + 6 * 2 ^ 52)
  let s := runs (onStack [int 7, int 5]) [0x3841]
  { s with mills := [(0, { slice := [(0, 0x3841)], cdt := [(1, d)], cstore := [(0x1000, m)] })] }
theorem wit_custom : [(false, false, 1), (true, false, 0), (true, true, 1), (true, false, 1)].all (fun p : Bool × Bool × Nat =>
    meets (custom p.1 p.2.1 p.2.2) 0x3841 [] fun b =>
      let d := tget 0 (getMill b 0).cdt 1
      cdtEn d == p.1 && csOn b 0 && cdtFmax d == p.2.2 && bitOf d 34 == p.2.1 && !bitOf d 35 && cdtPop d == 2 && cdtPush d == 1 &&
      cdtCls d 0 == 0 && cdtCls d 1 == 0 && cdtEntry d == 0) = true := by decide
theorem test_custom : gives (execCustomOpcode 0 0x41 (custom true false 1)) (fun t => tops (getWheel t 0) 1 == [int 12] && depth (getWheel t 0) == 1) = true := by decide +kernel

/-- Control descriptor of every exception: handler at 200h, supervisor, priority 3, record in segment 1. -/
def desc : W64 := pk [(0, 0x200), (20, 1), (22, 1), (25, 3), (28, 15), (32, 1)]
def faulted (x : Wheel) : State :=
  { segs (runs (onStack [int 1] x) [0x20]) with excC := [(10, desc), (18, desc), (32, desc), (33, desc)], excS := [(12, desc), (17, desc)] }

theorem wit_exceptionEntry : (let s := faulted { fault := some (exc 10 (int 1) 0x32) }
    let x := getWheel (settle s 0) 0
    wheelLive (settle s 0) 0 && !x.halted && x.stall == .none && !x.parked && !x.faultParked && !x.mode.guard &&
    (match choose (settle s 0) x with
     | some (k, y) => descr (settle s 0) ⟨k.num, k.world⟩ == desc && !isBusy y ⟨k.num, k.world⟩
     | none => false) &&
    dValid desc && decide (dRegion desc < 2) && fld desc 40 24 == 0 && decide (dOffset desc ≤ regionEnd 0) && dStack desc == 1 &&
    (let g := segEnt (settle s 0) false 1
     sgSpace g == 1 && sgRd g && sgWr g && sgPtr g && decide (0x17 ≤ sgLimit g) && decide (sgBase g + 0x17 ≤ 0x5FFF))) = true := by decide
theorem test_exceptionEntry : gives (execExceptionEntry 0 (faulted { fault := some (exc 10 (int 1) 0x32) })) (fun t =>
    (getWheel t 0).pc == 0x200 && (getWheel t 0).mode.level && (getWheel t 0).vb == 33 && spadRead t 0 0x105 == some (int 1)) = true := by decide
theorem wit_savedState : blkActive { blk := { ctl := 1 } } = true ∧ rptActive { rpt := { ctl := 1 } } = true := by decide
theorem wit_exceptionChoice : (let f (x : Wheel) := (choose (faulted x) (onStack [] x)).map fun p => p.1.num
    f { exc18 := [(1, 2, false)] } == some 18 && f { exc17 := true } == some 17 && f { exc12 := [(int 0, 1)], mode := { world := true } } == some 12 &&
    f { events := [(33, some ⟨0, 0⟩), (32, some ⟨0, 0⟩)] } == some 32 && f {} == none && f { mode := { guard := true }, exc17 := true } == none) = true := by decide
theorem wit_guardAndLockup : [false, true].all (fun g => let s := faulted { fault := some (exc 13 (int 1) 0x32), mode := { guard := g } }
    wheelLive (settle s 0) 0 && !dValid (descr (settle s 0) ⟨13, false⟩) && (getWheel (settle s 0) 0).fault.isSome &&
    gives (execExceptionEntry 0 s) fun t => (getWheel t 0).mode.guard && (getWheel t 0).lockup == g) = true := by decide

/-- A wheel in the handler of exception 10, with its record `l` in the scratchpad. -/
def inHandler (l : List TWord) (x : Wheel := {}) : State :=
  { faulted {} with
    wheels := [(0, { onStack [] { x with mode := { level := true }, vb := 33, active := some ⟨10, false⟩ } with
      spad := { cells := l.zipIdx.map fun p => (0x100 + p.2, p.1) } })],
    mills := [(0, { slice := [(0, 0xF0)] })] }
def savedOk : List TWord := recordOf (onStack [int 1]) false (causeWord 10 0 0 ⟨10, false⟩) (int 1) (int 0) 0

theorem wit_returnFromException : meets (inHandler savedOk) 0xF0 [] (fun b => let x := getWheel b 0
    !x.mode.guard && x.mode.level && x.active == some ⟨10, false⟩ && x.mode.world == dWorld desc && x.pend.isEmpty &&
    !(fexitOf x x.mode.world).valid && x.vb == rf savedOk 2 0 13 + 32 + rf savedOk 2 13 6 && rf savedOk 3 0 7 == x.rstack.length &&
    rf savedOk 3 7 7 == x.csd && rf savedOk 3 14 7 == x.ssd && !recMalformed x 0 savedOk false && !recForbidden desc savedOk &&
    !recParked savedOk && decide (x.rf ≤ x.vb) && (List.range 24).all fun i => spadRead b 0 (0x100 + i) == some (nth emptyW savedOk i)) &&
    meets (inHandler savedOk { fexitC := { valid := true } }) 0xF0 [] (fun b => (fexitOf (getWheel b 0) false).valid) &&
    meets (inHandler savedOk { rstack := [5] }) 0xF0 [] (fun b => rf savedOk 3 0 7 != (getWheel b 0).rstack.length) &&
    has (onStack [] { mode := sup }) [0xF0] [] && has (onStack [] { mode := sup, pend := [⟨true, false, false, 1⟩] }) [0xF0] [] = true := by decide
theorem test_rte : gives (execRte 0 (inHandler savedOk)) (fun t => (getWheel t 0).vb == 0 && (getWheel t 0).sd == 1 && (getWheel t 0).mode == {} &&
    (getWheel t 0).active == none) = true := by decide +kernel

/-! ### Leats, wakes, boundaries and deadlines -/

/-- What holds of a table's default and of its listed entries holds of every entry. -/
theorem all_tab {α : Type} {P : α → Prop} {d : α} {l : Tab α} (h : P d) (hl : ∀ p ∈ l, P p.2) (k : Nat) : P (tget d l k) := by
  induction l with
  | nil => exact h
  | cons p t ih =>
    simp only [tget]
    split
    · exact hl p (by simp)
    · exact ih fun q hq => hl q (by simp [hq])

/-- Wheel 0 parked, with the wake entries, frame words and defined frames given; frame 0 stands in slot 0. -/
def parked (wakes : Tab WakeEnt) (ws : List (Nat × TWord)) (x : Wheel := {}) (d : Option FrameDef := none) : State :=
  { State.reset with wheels := [(0, { x with wakes := wakes, spad := { cells := ws.map fun p => (frameAddr 0 p.1, p.2) } })],
                     frames := [(0, d)] }
def frame0 : FrameDef := ⟨0, 0, [some 0], 0, false, false, none, [], none, 0, 0, none, 0, none, none⟩
def clkHeld (d : Nat) (s : State) : State := { s with rst := { s.rst with clk := [(d, { held := true })] } }

theorem wit_leatWords : leatHeld (clkHeld 41 State.reset) 255 = true ∧ leatHeld State.reset 0 = false ∧ running State.reset = true ∧
    bitOf (0x40000 : W32) 18 = true ∧ bitOf (0x30000 : W32) 18 = false ∧ State.reset.readback = none := by decide
theorem test_leatWord : gives (execLeatWord 3 0x00501234 (parked [(2, { en := true, idx := 3 })] [])) (fun t =>
    (getWake t 0 2).latch == [(⟨.sample, 0x00501234⟩, 0)] && (getLeat t 3).seq == 5 && (getLeat t 3).last == 0x1234) = true := by decide
theorem wit_wakes : [(false, 0, 0, false), (true, 1, 0, false), (true, 0, 0, false), (true, 0, 0, true), (true, 2, 2, true)].all
    (fun p : Bool × Nat × Nat × Bool => let s := parked [(0, { en := p.1, div := p.2.1, cnt := p.2.2.1, pend := p.2.2.2, latch := [(int 5, 1)] })] [] { hold := true }
      running s && millRuns s 0 && (getWake s 0 0).latch == [(int 5, 1)] && !canDispatch s 0 && pairOk s 0 (getWake s 0 0)) &&
    (let s := parked [(0, { en := true, latch := [(int 5, 1)] })] [(0, pairStat true 0)]
     !pairOk s 0 (getWake s 0 0)) = true := by decide
/-- A wheel at the point of dispatch, with the entry point `p`. -/
def ready (p : TWord) : State := parked [(3, { en := true, latch := [(int 7, 1)] })] [(5, p)]
theorem wit_dispatch : [⟨.code, 0⟩, ⟨.code, 0x400FFF⟩, int 0, ⟨.code, 0x40000⟩].all (fun p : TWord => let s := ready p
      running s && millRuns s 0 && (getWake s 0 3).latch == [(int 7, 1)] && (getWake s 0 3).en && pairOk s 0 (getWake s 0 3) &&
      canDispatch s 0 && !(getMill s 0).trace.en && tget .ok (getWheel s 0).spad.ecc (frameAddr 0 5) == .ok && spadWord s 0 (frameAddr 0 5) == p) = true ∧
    ∀ i, (getWake (ready (int 0)) 0 i).pend = false := by
  refine ⟨by decide, all_tab (P := fun n : WakeEnt => n.pend = false) rfl (by decide)⟩
theorem test_dispatch : gives (execWake 0 3 (ready ⟨.code, 0x123⟩)) (fun t => (getWheel t 0).pc == 0x123 && winRd (getWheel t 0) 32 == int 7 &&
    !(getWheel t 0).parked) = true := by decide
/-- A wheel with a staged value whose deadline the boundary that woke entry 3 has reached. -/
def staging (h : Bool) : Wheel :=
  { hold := h, staged := [(0, some ⟨int 9, { (default : Intent) with deadline := 5 }⟩)], ffDue := [⟨0, 5, none, 1⟩] }
theorem wit_wakeCycle : [true, false].all (fun h => let s := parked [(3, { en := true, latch := [(int 7, 1)] })]
                                                                  [(0, int 1), (5, ⟨.code, 0⟩)] (staging h)
    running s && (getWake s 0 3).latch == [(int 7, 1)] && pairOk s 0 (getWake s 0 3) && (canDispatch s 0 != h) && (getWheel s 0).ffNow.isEmpty &&
    ((getWheel s 0).ffDue.find? fun q => q.occ == 1) == some ⟨0, 5, none, 1⟩ && fsTb s 0 0 == 0 && !(getWheel s 0).fresh) = true := by decide
theorem test_wakeCycle : gives (execWake 0 3 (parked [(3, { en := true, latch := [(int 7, 1)] })] [(0, int 1), (5, ⟨.code, 0⟩)] (staging false))) (fun t =>
    (getWheel t 0).fresh && (getWheel t 0).ffNow == [(0, int 9)] && fw t 0 0 60 == emptyW) = true := by decide
theorem wit_periodBoundaries : domHeld (clkHeld 42 State.reset) 42 = true ∧
    (let s := { State.reset with rst := { State.reset.rst with drvrel := true }, tbs := [(1, { idx := 5, seen := true })] }
     running s = true ∧ domHeld s 43 = false ∧ tbFrames s 1 = [] ∧ mirroring s = false ∧ s.twin.hand = none ∧ s.twin.takeAt = 0 ∧
     s.twin.yieldAt = 0 ∧ (getTb s 1).seen = true ∧ ∀ n : Fin 8, bitOf (getFb s n).cfg 7 = false) := by decide
/-- A frame in slot 0 with the FSTAT given. -/
def framed0 (st : TWord) (d : FrameDef) (x : Wheel := {}) : State := parked [(0, { alloc := true, frame := 0 })] [(0, st), (3, int 0xFFFFFF02), (4, int 0xFFFFFFFF)] x (some d)
theorem wit_boundaryActions : [(int 0, frame0), (int 1, { frame0 with stop := true }), (int 1, { frame0 with arm := true }), (pairStat false 3, frame0),
      (pairStat true 2, frame0)].all (fun p : TWord × FrameDef => let s := framed0 p.1 p.2 { staged := [(0, some ⟨int 1, default⟩)] }
      running s && !domHeld s 42 && (getFrame s 0) == some p.2 && tbFrames s 0 == [0] && !mirroring s && !runOf s p.2 &&
      (frameSails s 0 0) == [2] && decide (∀ e ∈ frameWakes p.2, e < 16)) = true := by decide
theorem wit_flip : (let s := framed0 (pairStat false 2) frame0
    fsPair s 0 0 && fsState s 0 0 == 1 && fsX s 0 0 == 2 && fld (fstat s 0 0) 6 8 == 0 && canDispatch s 0) = true ∧
    canDispatch (framed0 (pairStat false 2) frame0 { hold := true }) 0 = false := by decide
theorem wit_expiry : (let s := framed0 (int 1) frame0 { run := some ⟨0, 0, false, ⟨0, 0⟩, false, [], [], false⟩ }
    (getWheel s 0).run.isSome && deadlineOf s 0 0 < 1 && decide ((activeSails s 0 0).Nodup) && activeSails s 0 0 == [2]) = true ∧
    (let s := parked [(0, { pend := true })] [(2, int 5)]
     (getWake s 0 0).pend = true ∧ deadlineOf s 0 0 < 0xFFFFFFFF) := by decide
theorem wit_hopperFrameWrite : [FrameAct.word 0 12 (int 5) .c 0, .start 0 0 .c 0, .done .c 0].all (fun a => let s := framed0 (int 0) frame0 { acts := [a] }
    (getWheel s 0).acts == [a] && canApply s 0 && fsState s 0 0 == 0 && !linesBad s frame0 0 && !pktNotify s .c 0 && (getSlot s .c 0).clamps == []) = true ∧
    canApply (framed0 (int 0) frame0 { parked := false }) 0 = false := by decide
theorem wit_fetchLineReturn : [({ preWant := some 1 } : Fetch), { want := some (0, some (0, 0)) }, { want := some (0, none) }].all (fun f =>
    let s := runs (onStack [] { fetch := f }) []
    wheelLive s 0 && canIssue s 0 && !badLine s 0 0) = true ∧ badLine { State.reset with mills := [(0, { badLines := [(0, true)] })] } 0 0 = true := by decide

/-! ### The tailrace, memories and registers -/

def tellRec : TellRec := ⟨9, true, false, 0x40, 0, 1, [int 1, int 2, int 3, int 4]⟩
/-- Queue 1 holds a record for the ring whose descriptor stands at word 40h, of 16 places from word 100h on. -/
def ringAt (wr rd : W32) : State :=
  { segs State.reset with
    tail := { queues := [(1, [tellRec])] },
    mp := { cells := [(0x40, adr 2 0), (0x41, int 16), (0x42, int wr), (0x43, int rd)] } }
theorem wit_tailrace : ([(0, 0), (15, 0), (16, 0), (0xFFFFFFFF, 0xFFFFFFF0)] : List (W32 × W32)).all (fun p => let s := ringAt p.1 p.2
    running s && tellQueue s 1 == [tellRec] && ((List.range 8).all fun k => k == 1 || (tellQueue s ((s.tail.rr + k) % 64) == [])) && mpOn s 0x40 &&
    mpRead s 0x40 == some (adr 2 0) && mpRead s 0x42 == some (int p.1) && sgSpace (segEnt s true 2) == 2 && sgWr (segEnt s true 2) &&
    decide (aOff (adr 2 0).val + 4 * 16 - 1 ≤ sgLimit (segEnt s true 2))) = true ∧
    ∀ a, getEcc (ringAt 0 0) .millpond a = .ok ∧ getEcc (ringAt 0 0) .spare a = .ok := by
  refine ⟨by decide, fun a => ⟨rfl, rfl⟩⟩
theorem wit_drain : (let d : DrainRec := ⟨tellRec, 0x40, 0xFFFFFFFF, 0x100, 16⟩
    d.base + 4 * (d.pos.toNat % d.size) + 4 ≤ 0x400000 ∧ d.ring + 4 ≤ d.base ∧ d.trec.words.length = 4) ∧
    (∀ q, tellQueue { State.reset with tail := { drain := [⟨tellRec, 0x40, 0, 0x100, 16⟩] } } q = []) := by
  refine ⟨by decide, fun q => rfl⟩
theorem wit_tellAccept : [0, 3, 4].all (fun n => let s := { waiting (.tellFull tellRec) [int 1] with tail := { queues := [(0, List.replicate n tellRec)] } }
    (tellQueue s 0).length == n && !(getWheel s 0).draining) = true := by decide
/-- A memory word with the error mark `e`. -/
def marked (m : MemSel) (e : Ecc) : State :=
  let r : Ram TWord := { cells := [(5, int 1)], ecc := [(5, e)] }
  match m with
  | .spad _ => { State.reset with wheels := [(0, { spad := r })] }
  | .pinned _ => { State.reset with wheels := [(0, { pinned := { ecc := [(5, e)] } })] }
  | .millpond => { State.reset with mp := r }
  | .spare => { State.reset with spareRam := r, mem := { State.reset.mem with bankpwr := 0 }, spare := { State.reset.spare with st := .subst } }
  | .retained => { State.reset with retained := r }
  | .backup => { State.reset with rst := { State.reset.rst with bkupEcc := [(5, e)] } }
theorem wit_memoryUpkeep : [MemSel.spad 0, .pinned 0, .millpond, .spare, .retained, .backup].all (fun m => [Ecc.ceSeen, .ueSeen, .ce, .ue].all fun e =>
    let s := marked m e
    getEcc s m 5 == e && memOn s m 5 && running s && bitOf s.mem.cfg 0) = true ∧
    [MemSel.spad 0, .pinned 0, .spare, .retained, .backup].all (fun m => scrubFree (marked m .ce) m) = true := by decide
theorem wit_steal : [StealReq.tdest 0, .debug (.readSpad 5), .debug (.writeSpad 5 (int 1)), .debug (.writePin 5 1)].all (fun q =>
    let s := { State.reset with wheels := [(0, { steal := some q, stealQ := [.tdest 1] })] }
    running s && spadOn s 0 && (getWheel s 0).steal == some q) = true := by decide
theorem wit_stealTurn : (let s := { State.reset with wheels := [(0, { steal := some (.tdest 0), stealQ := [.debug (.readSpad 5), .mirror 1] })] }
    (getWheel s 0).stealQ == [.debug (.readSpad 5), .mirror 1] && stealHeld (getWheel s 0) (stealOf (.mirror 1)) && (getWheel s 0).tdestDue.isEmpty &&
    decide ((stealOf (.debug (.readSpad 5)) + 2 - stealOf (.tdest 0)) % 3 ≠ (stealOf (.mirror 1) + 2 - stealOf (.tdest 0)) % 3)) = true := by decide
theorem wit_hostPortCut : resetComing { State.reset with rst := { State.reset.rst with reqs := [⟨3, 2, 0, 0⟩] } } = true ∧ portLive State.reset = true ∧
    portLive { State.reset with rst := { State.reset.rst with retention := true } } = true := by decide
theorem wit_hostPort : (running State.reset && bitOf State.reset.capsId 0 && mpOn State.reset 0 && mpOn State.reset 0x3FFFFE) = true ∧
    (mpRead State.reset 0).isSome = true ∧ getEcc State.reset (mpSel State.reset 0x3FFFFF).1 (mpSel State.reset 0x3FFFFF).2 = .ok ∧
    isRsv (tagOf 0xC) = true ∧ isRsv (tagOf 7) = false ∧ nWheels State.reset = 64 ∧ (getWheel State.reset 63).halted = false ∧
    running { State.reset with rst := { State.reset.rst with phase := .assert 2 } } = false := by decide
theorem wit_counterClears : tbHeld State.reset 191 = false ∧ hasLane State.reset 0 = true ∧ laneHeld State.reset 0 = false ∧
    (getLane State.reset 0).en = false ∧ (getLane State.reset 0).st = .off ∧ (getLane State.reset 0).rq = [] ∧ fbHeld State.reset 7 = false ∧
    hasWeir State.reset 47 = true ∧ hasWeir State.reset 48 = false ∧ hasDomain State.reset 63 = true := by decide
theorem wit_standby : bitOf (0 : W64) 9 = false ∧ nMills State.reset = 16 ∧ State.reset.occupied = false ∧ fld (17 : W64) 0 5 = 17 ∧
    getFrame (framed0 (int 0) frame0) 0 = some frame0 ∧ millOf frame0.wheel = 0 := by decide
theorem wit_millctl : hasLoops (framed0 (int 0) frame0) 0 = true ∧ hasLoops State.reset 0 = false ∧ (getMill State.reset 0).freq = 12 ∧
    fld (0x0C : W64) 0 4 = 12 ∧ fld (0x0D : W64) 0 4 = 13 ∧ fld (0x30 : W64) 4 2 = 3 ∧ fld (0x2C : W64) 4 2 = 2 ∧ bitOf (0x2C : W64) 15 = false := by decide
theorem test_millctl : gives (execMillctlWrite 0 0x2C 0xFF State.reset) (fun t => (getMill t 0).pstate == 2 && !(getMill t 0).lock) &&
    gives (execMillctlWrite 0 0x0D 0xFF State.reset) (fun t => (getMill t 0).err && (getMill t 0).freq == 12) = true := by decide
theorem wit_millLock : (getMill { State.reset with mills := [(0, { lock := false, offSeen := true })] } 0).lock = false ∧
    (getMill { State.reset with mills := [(0, { lock := false })] } 0).pstate = 0 ∧ fld (0xC000000 : W64) 26 2 = 3 := by decide
theorem wit_memoryPower : fld State.reset.mem.bankpwr 30 2 = 0 ∧ bankCovered State.reset 0 = false ∧ State.reset.mem.trans = [] ∧
    State.reset.spare.st = .idle ∧ fld State.reset.mem.sppwr0 62 2 = 0 ∧ (getWheel State.reset 31).parked = true ∧
    fld (getWheel State.reset 31).evcfg 0 32 = 0 ∧ (∀ f d, getFrame State.reset f = some d → d.wheel ≠ 31) ∧
    bankCovered { State.reset with segC := [(1, seg 0 0xFF 2 true true true true)] } 0 = true := by
  refine ⟨by decide, by decide, by decide, by decide, by decide, by decide, by decide, fun f d h => ?_, by decide⟩
  cases h
theorem wit_spareBank : [SpareSt.idle, .copyin, .subst, .copyback].all (fun k =>
    let s := { State.reset with spare := { State.reset.spare with st := k }, mem := { State.reset.mem with bankpwr := 0 }, miller := { State.reset.miller with rebuild := false } }
    running s && !s.miller.rebuild && bankOn s 0 && bankOn s 16) = true ∧ bankOn { State.reset with mem := { State.reset.mem with bankpwr := 1 } } 0 = false ∧
    tabWf emptyW State.reset.spareRam.cells = true ∧ (∀ p ∈ State.reset.mp.cells, p.1 < 0x400000) ∧ (∀ a, tget .ok State.reset.mp.ecc a = Ecc.ok) := by
  refine ⟨by decide, by decide, by decide, by decide, fun a => rfl⟩

/-! ### The pair and the ring -/

def up : Lane := { en := true, st := .up, rxlock := true, txen := true }
/-- Both race lanes and both ring lanes UP, all optional units fitted, in the role given. -/
def linked (r : Role := .simplex) (t : Twin := {}) : State :=
  { State.reset with capsUnits := 0x3F90, lanes := [(0, up), (1, up), (2, up), (3, up)], twin := { t with role := r } }
def hdr : RaceHdr := ⟨true, 5, 9, true, 1, false, true, 0xFF⟩
/-- An 85-word block that descrambles from register 0 to the good codeword pair of BLKCNT 0, and one that cannot be corrected. -/
def goodWords : List (BitVec 128) := List.replicate 39 0 ++ [1237940039285380274899124224, 272256411753818421209067043304600764416,
  261192332938980441267567139844676714767, 6204570224334659910] ++ List.replicate 42 0
def badWords : List (BitVec 128) := List.replicate 41 0 ++ [0x123456789123456789123456789ABCDE, 0x1232323232323232] ++ List.replicate 42 0
def hunting : Lane := { en := true, st := .hunt, rxlock := true, txen := true, blkpos := 84, hunt := 7, lastBlk := some (-1) }

theorem wit_lanes : hasLane (linked) 3 = true ∧ laneHeld (linked) 3 = false ∧ (linked .held).twin.role ≠ .leader ∧
    (laneUp (linked .leader) 0 && laneUp (linked .leader) 1) = true ∧
    (let s := { linked .leader with lanes := [(0, up)] }
     (laneUp s 0 && !laneUp s 1 && s.twin.role != .simplex) = true) ∧
    (linked).twin.cfg.toNat < 2 ^ 62 ∧ (84 : BitVec 7).toNat < 85 ∧ WellFormed (.laneBlockReceive 0 84 0 (List.replicate 85 0)) = false ∧
    hasLane State.reset 2 = false ∧ laneHeld State.reset 2 = false := by decide
theorem wit_goodBlock : (let r := receiveBlock hunting.dscr goodWords
    r.2 == (⟨true, false, false, 0⟩, ⟨true, false, true, 0⟩) && blockGood r.2.1 r.2.2) = true := by decide +kernel
theorem wit_badBlock : (let r := receiveBlock hunting.dscr badWords
    !r.2.1.ok || !r.2.2.ok) = true := by decide +kernel
theorem test_laneUp : gives (execLaneBlockReceive 0 84 0 (goodWords.drop 1) { State.reset with lanes := [(0, hunting)] }) (fun t => laneUp t 0) = true := by decide +kernel
theorem test_huntMoves : gives (execLaneBlockReceive 0 84 0 (badWords.drop 1) { State.reset with lanes := [(0, hunting)] }) (fun t =>
    (getLane t 0).st == .hunt && (getLane t 0).blkpos == 0 && (getLane t 0).hunt == 0) = true := by decide +kernel
theorem test_twincfg : gives (execTwincfgWrite 0x255_3C4_40_20_000001 0xFF State.reset) (fun t => t.twin.cfg == 0x255_3C4_40_20_000001) &&
    gives (execTwincfgWrite 0x255_3C0_40_20_000000 0xFF State.reset) (fun t => t.twin.err) = true := by decide
theorem wit_frameSlots : [({ due := [(1, .ackonly)] } : Twin), { dutyQ := [default] }, { stateQ := [default] }, {}].all (fun t => let s := linked .leader t
    running s && hasLane s 0 && !txHeld s 0 && (getLane s 0).txen && laneUp s 0 && s.twin.joinAt.isNone && s.twin.copyQ.isEmpty && (getLane s 0).ctlGap == 8) = true ∧
    [LaneTx.intent default 0, .member 0 0 false false false 0 0 0 0 0, .publish 0 0 0 [] 0 0].all (fun x =>
      let s := { linked with lanes := [(3, { up with rq := [x] })] }
      hasLane s 3 && (getLane s 3).txen && ((getLane s 3).rq.find? isIntentTx).isSome == isIntentTx x) = true := by decide
theorem test_frameSlot : gives (execFrameSlotFill 0 (linked .leader { due := [(1, .ackonly)] })) (fun t =>
    match (getLane t 0).tx with | some (_, .control 1 _ .ackonly) => true | _ => false) = true := by decide
theorem wit_raceFrames : (let s := linked .follower { cfg := 0x255_3C4_40_20_000001, peerHb := some 8, ownDuty := [(0, [(default, 0)])] }
    running s && hasLane s 1 && laneUp s 1 && s.twin.joinAt.isNone && !s.twin.peerLost && tracks s 0 && mirroring s && hdr.good && hdr.hbok &&
    s.twin.peerHb == some 8 && decide (0 < (hdr.hb - 8).toNat) && tget [] s.twin.ownDuty 0 == [(default, 0)] && !steersTwin (linked .leader) && steersTwin s &&
    decide (1000 * 65536 < (timeOffset ⟨0, 0⟩ ⟨0, 0⟩ ⟨4000, 0⟩ ⟨0, 0⟩).natAbs)) = true := by decide
theorem wit_stateFrames : (let s := { framed0 (int 1) frame0 with
      capsUnits := 0x3F90, lanes := [(0, up)], twin := { role := .follower, cfg := 0x255_3C4_40_20_000001 } }
    mirroring s && getFrame s 0 == some frame0 && !frameDriven s frame0 && fsState s 0 0 == 1 && (getFrame s 1).isNone) = true ∧
    frame0.stagedRec = none ∧ frame0.appliedRun = none ∧ newer16 2 1 = true := by decide
theorem wit_copyFrame : (let s := { framed0 (int 0) frame0 with lanes := [(0, up)], twin := { joinAt := some (0, 4, true) } }
    laneUp s 0 && hdr.good && !s.twin.peerLost && s.twin.joinAt == some (0, 4, true) && (getFrame s 0).isSome) = true := by decide
theorem wit_heard : Heard (linked .leader) true hdr ⟨1, 0xFFFF⟩ ∧ Heard (linked .follower { rxCseq := some 0xFFFF }) false hdr ⟨0, 3⟩ := by
  refine ⟨⟨by decide, by decide, by decide, by decide, by decide, by decide, by decide, by decide, by decide, by decide, by decide, fun p h => ?_⟩,
    by decide, by decide, by decide, by decide, by decide, by decide, by decide, by decide, by decide, by decide, by decide, fun p h => ?_⟩
  · cases h
  · cases h; decide
theorem wit_acted : (0 : BitVec 16) ∈ [0, (1 : BitVec 16)] ∧ (newer16 1 0x50 = false ∧ 64 ≤ ((0x50 : BitVec 16) - 1).toNat) ∧
    newer16 0x4F 0x50 = false ∧ ((0x50 : BitVec 16) - 0x4F).toNat < 64 := by decide
theorem wit_helloDiffers : (let s := { linked .joining { joinAt := some (0, 3, true), out := [(0, .hello)] } with capsUnits := 0x3F90 }
    running s && hasLane s 0 && laneUp s 0 && s.twin.peerHello.isNone && s.twin.rxCseq.isNone && s.twin.rxDone.isEmpty && s.twin.copyDue.isNone &&
    helloDiff (ownHello s) ⟨1, 0, 0, 0, [], 0, 0⟩ == some 3) = true := by decide
theorem wit_divcheck : (let s := { framed0 (int 1) frame0 with capsUnits := 0x3F90, lanes := [(0, up)], twin := { role := .follower } }
    s.twin.chk.isNone && (getFrame s 0).isSome) = true ∧
    (linked .leader { chk := some ⟨0, 0, true, some 0, none⟩ }).twin.chk = some ⟨0, 0, true, some 0, none⟩ ∧
    (linked .leader { rxCseq := some 4 }).twin.rxCseq = some 4 := by decide
theorem wit_join : (linked .joining { joinAt := some (0, 3, true) }).twin.joinAt = some (0, 3, true) ∧ (linked .joining { joinAt := some (0, 4, true), copied := 5 }).twin.copied = 5 ∧
    helloDiff ⟨0, 0, 0, 0, [], 0, 0⟩ ⟨1, 0, 0, 0, [], 0, 0⟩ = some 3 ∧ (linked .joining { joinAt := some (0, 1, true) }).twin.leaveAt = none ∧
    (linked .leader { out := [(0, .handover 1 []), (1, .hello)] }).twin.out ≠ [] := by decide
theorem wit_heartbeats : (let s := linked .leader { miss := 2 }
    running s && watches s && !hbReceived s && s.twin.joinAt.isNone && s.twin.leaveAt.isNone && !s.twin.peerLost) = true ∧
    watches (linked) = false ∧ hbReceived { linked .leader { peerHb := some 23 } with ring_time := ⟨1000, 0⟩ } = true ∧ bitOf (linked).twin.cfg 60 = false := by decide
/-- The frame of slot 0 on sail 2, in a joined pair that drives the groups `d`. -/
def mirrored (d : BitVec 24) (f : FrameDef) : State :=
  { framed0 (int 1) f with twin := { role := .leader, cfg := 0x255_3C4_40_20_000001, drvsel := d } }
theorem wit_mirror : (let s := mirrored 1 frame0
    frameAt s 0 0 == some 0 && frameDriven s frame0 && spadOn s 0 && fsState s 0 0 == 1 && !inRunOf s 0 0 && s.twin.stateQ.isEmpty) = true ∧
    (∀ i, getEcc (mirrored 1 frame0) (.spad 0) (frameAddr 0 i) = .ok) ∧
    [none, some 1, some 9].all (fun r => let f := { frame0 with stagedRec := some { rec22 with runcount := 5 }, appliedRun := r }
      let s := mirrored 0 f
      getFrame s 0 == some f && (getWheel s 0).parked && noWake s 0 && s.twin.joinAt.isNone) = true := by
  refine ⟨by decide, fun i => rfl, by decide⟩
theorem test_mirrorApply : gives (execMirrorStateApply 0 0 (mirrored 0 { frame0 with stagedRec := some { rec22 with words := List.replicate 20 (int 7) ++ [int 1, int 3] } }))
    (fun t => fw t 0 0 12 == int 7 && fw t 0 0 11 == int 3) = true := by decide

def ringHdr (l g : Bool) : RingHdr := ⟨g, 1, 3, 0, l, true⟩
/-- Member 4 of the ring, with member 3 present. -/
def member (r : Machine.Ring := {}) : State := { linked with ring := { r with cfg := 0x24, present := 0x18 } }
theorem wit_ringFrames : (running (member) && hasRing (member) && laneUp (member) 2 && laneUp (member) 3 && ringJoined (member) && ringMember (member) == 4 &&
      (ringHdr true true).good && (ringHdr true true).lane && ringNamed (member) && (getMem (member) 3).pacc.isNone &&
      (getMem (member { mem := [(3, { pacc := some 250, iseq := some 0xFFFF, mseq := some 1, known := true })] }) 3).pacc == some 250) = true ∧
    (4 - 250 : BitVec 8).toNat < 128 ∧ (2 - 0xFFFF : BitVec 16).toNat < 0x8000 := by decide
theorem wit_ringLock : (let s := member { mem := [(3, { known := true, mseq := some 5, hop2 := some 1, silent := true })], lockAt := some 0 }
    ringJoined s && !ringJoining s && ringMember s != 3 && (getMem s 3).mseq == some 5 && (getMem s 3).silent && !ringLocked s &&
    ringLocked { s with ring_time := ⟨2000000, 0⟩ } && decide (128 ≤ ((4 : BitVec 8) - 5).toNat)) = true := by decide
theorem wit_ringBinding : (let b : W64 := pk [(0, 7), (8, 0), (17, 1), (19, 1), (32, 0x40000000)]
    let s := { framed0 (int 1) frame0 with capsUnits := 0x3F90, lanes := [(2, up), (3, up)], ring := { cfg := 0x24, bind := [b] } }
    s.ring.bind == [b] && bitOf b 19 && fld b 0 8 == 7 && fld b 8 9 == 0 && fld b 17 2 == 1 && getFrame s 0 == some frame0 && fsState s 0 0 == 1 &&
    keyNew (getWheel s 0) 1 default) = true ∧
    keyNew { staged := [(1, some ⟨int 1, { (default : Intent) with posted := 9 }⟩)] } 1 default = false := by decide
theorem wit_ringMembership : (let s := member { mem := [(3, { known := true, hop2 := some 1 })] }
    bitOf s.ring.present 3 && ringMember s != 3 && (getMem s 3).known && s.ring.joinAt.isNone && steerLane s == 2 && mayStep s) = true ∧
    (2000 : W64) ≤ ({ member with ring_time := ⟨5000, 0⟩ }).ring_time.ns - (getMem (member) 3).pubAt ∧
    20 * 65536 < (timeOffset ⟨0, 0⟩ ⟨0, 0⟩ ⟨100, 0⟩ ⟨0, 0⟩).natAbs ∧ (timeOffset ⟨0, 0⟩ ⟨0, 0⟩ ⟨2, 0⟩ ⟨0, 0⟩).natAbs ≤ 20 * 65536 ∧
    ringJoining (member { joinAt := some 0 }) = true ∧ ringJoined (linked) = false := by decide
theorem test_publish : gives (execPublishEmit (member)) (fun t => ((getLane t 2).rq.length, (getLane t 3).rq.length) == (1, 1)) = true := by decide

/-! ### Hopper commands -/

/-- Slot 0 of both hoppers in the state `x`, with a packet of `n` cells, opcode `op` and the fields given. -/
def packet (op n : Nat) (fields : List (Nat × W64)) (x : Slot := { st := .running }) (s : State := State.reset) : State :=
  let c : Tab Byte := (0, BitVec.ofNat 8 op) :: (1, BitVec.ofNat 8 n) :: fields.flatMap fun p : Nat × W64 =>
    (List.range 8).map fun j => (16 + 8 * p.1 + j, BitVec.ofNat 8 (fld p.2 (8 * j) 8))
  let k : Slot := { x with cells := c, written := -1 }
  { s with hopC := { slots := [(0, k)] }, hopS := { slots := [(0, k)] } }

theorem wit_slots : [SlotSt.free, .queued, .running, .done, .clearing].all (fun k => let s := packet 0x01 1 [] { st := k }
    running s && (getSlot s .c 0).st == k && pktOp s .c 0 != 0x7F) = true := by decide
def queued (op n : Nat) (w : BitVec 512) (fb : Bool := false) : State :=
  let s := packet op n [] { st := .queued }
  { s with hopC := { slots := [(0, { getSlot s .c 0 with written := w })], queue := [0], fallback := fb } }
theorem wit_packetStart : [(0x01, 1, 0), (0x00, 1, -1), (0x50, 1, -1), (0x01, 0, -1), (0x01, 2, -1),
      (0x21, 2, 0xFFFFFFFFFFFFFFFF), (0x21, 2, -1)].all (fun p : Nat × Nat × BitVec 512 => let s := queued p.1 p.2.1 p.2.2
    running s && (getHop s .c).queue == [0] && pktCells s .c 0 == p.2.1 && (runningSlots s .c).isEmpty && bgRunning s .c == 0 &&
      cellDone s .c 0 0 == (p.2.2 != 0)) = true ∧ (getHop (queued 0x21 2 0 true) .c).fallback = true ∧ isBg (packet 0x21 2 []) .c 0 = true := by decide
theorem wit_reading : [0x01, 0x02, 0x32, 0x71, 0x70].all (fun op => let s := packet op 1 [(0, 0), (1, 1)]
    starting s .s 0 op && (getSlot s .s 0).clamps.isEmpty && carried s .s 0 0 && carried s .s 0 1) = true ∧
    starting (packet 0x70 1 [] { st := .running } { State.reset with miller := { State.reset.miller with rebuild := false } }) .s 0 0x70 = true := by decide
theorem wit_logRead : logKept (logEntry State.reset 1 0 0 0 9) = [0] := by decide +kernel
theorem wit_abort : starting (packet 0x7F 1 [(0, 0x1234)]) .c 0 0x7F = true ∧ carried (packet 0x7F 1 [(0, 0x1234)]) .c 0 0 = true ∧
    fieldOr (packet 0x7F 1 [(0, 0x1234)]) .c 0 0 0 = 0x1234 ∧ tagTarget (packet 0x7F 1 [(0, 0x1234)]) .c 0 0x1234 = none ∧
    (let s := packet 0x7F 1 [(0, 0x1234)]
     tagTarget { s with hopC := { slots := [(0, getSlot s .c 0), (1, { st := .queued, cells := [(2, 0x34), (3, 0x12)] })], queue := [1] } } .c 0 0x1234 = some 1) := by decide
theorem wit_commandTimeout : [(0x01, 0, false), (0x21, 0, false), (0x10, 1, true), (0x11, 1, false), (0x20, 1, false), (0x21, 1, true), (0x22, 1, false)].all
    (fun p : Nat × Nat × Bool => let s := packet p.1 1 [] { st := .running, phase := p.2.1, committed := p.2.2, changed := p.2.2 }
      running s && (getSlot s .s 0).st == .running && isBg s .s 0 == (p.1 != 1) && pktOp s .s 0 == p.1 && (getSlot s .s 0).phase == p.2.1) = true ∧
    runningSlots (packet 0x12 1 []) .s = [0] ∧ (getHop (packet 0x12 1 []) .s).fallback = false ∧ runningSlots State.reset .s = [] := by decide
theorem wit_twinStatus : starting (packet 0x32 1 []) .c 0 0x32 = true ∧ (getSlot (packet 0x32 1 []) .c 0).clamps = [] ∧ pktNotify (packet 0x32 1 []) .c 0 = false := by decide

theorem wit_images : [0x10, 0x11, 0x12].all (fun op => let s := packet op 1 [(0, 0), (1, 0x4C0), (2, 1), (3, 0)]
    starting s .s 0 op && imageRange s .s 0 && !imageRange (packet op 1 [(0, 0x3FFFFF), (1, 0xFFFFFF00)]) .s 0 && !heldMill s 0) = true ∧
    cmdMills (packet 0x10 1 [(0, 0), (1, 0x4C0), (2, 1)]) .s 0 = [0] ∧ cmdMills (packet 0x11 1 [(0, 0), (1, 0x4C0), (2, 1)]) .s 0 = [0] ∧
    [(0x11, 1), (0x11, 2), (0x10, 1), (0x10, 2)].all (fun p : Nat × Nat => inPhase (packet p.1 1 [] { st := .running, phase := p.2 }) .s 0 p.1 p.2) = true := by decide
theorem wit_loopDefine : (let s := packet 0x20 1 [(0, 0)]
    starting s .c 0 0x20 && dFrame s .c 0 == 0 && dWheel s .c 0 == 0 && dOp s .c 0 == 0 && wheelReady s 0 && canApply s 0 && freeSlot s 0 == some 0) = true := by decide +kernel

/-- The `n` bytes of a number, most significant first. -/
def be (n v : Nat) : List Byte := (List.range n).map fun i => BitVec.ofNat 8 (v / 256 ^ (n - 1 - i))
/-- A P-384 key and its signatures of the two images (made with OpenSSL): the microcode image holds one word and an empty
CDT, the program image one section, EVCFG of wheel 0. -/
def key : List Byte := be 97 0x458f8f51d658d085c2e63bd4daef7f06d86d8fe6def85e77ae7ed93a0f8c76a496d8d2262b420fcd3279fc7445ce5c87ae9f3e280cc736f79b4ade45da2979b93ff2463bd82f185c02ad30e69ffb3ad2ffe9e43d91f955a18b6c488f238a6841a
def zeros (n : Nat) : List Byte := List.replicate n 0
def head (l : List Byte) (id : Byte) : List Byte := l ++ zeros (16 - l.length) ++ [id] ++ zeros 47 ++ key ++ zeros 31
def mcImage : List Byte := head [2, 0, 0, 0, 0, 0, 1] 9 ++ [5] ++ zeros 271 ++ be 96
  0x687784ff5ac5157f0fde54ddbcdf2b8bdbec3c4670464bdd26166290c9bd3bf1600130db45849a88315865bb94e100da89957f5c39a2dc52b0bdca4a3e809a9251ed831934d2b1786eb07981da1842ecc489e2071de298f9a70ccdd3b6a17ba9
def progImage : List Byte := head [1, 1, 0, 0, 1] 8 ++ [5, 0, 0, 0, 208, 0, 0, 0, 8, 0, 0, 0] ++ zeros 12 ++ be 96
  0x3bdfddaa6fb531564ef8729de27efc23eb2315aa60fafb777e0af9d3135f8be1c455e42a5641eb97024c6e23f5984d4b0246d2cb3379f791b7b40fc93176706ece222e34d95dab0d35568ca8f80f6070831af5393ba770a70658fbef45358d50
/-- The reset state with the hash of that key as key 0. -/
def keyed : State := { State.reset with miller := { keys := [(0, 0x74b9dc60409bb4d296793f50111b637e7f5b75f389e8bd67b501adce530f854153bef6b170e1602434986b87e16b6cf3)] } }
theorem test_sha384 : sha384 key = 0x74b9dc60409bb4d296793f50111b637e7f5b75f389e8bd67b501adce530f854153bef6b170e1602434986b87e16b6cf3 := by decide +kernel
theorem wit_microcodeImage : mcCheck keyed mcImage = none ∧ (mcCheck State.reset mcImage).isSome = true := by decide +kernel
theorem wit_programImage : progCheck keyed progImage [0] = none ∧ imageBanks keyed progImage = [] ∧ progCheck State.reset progImage [0] = some 2 := by decide +kernel

/-- A hopper packet whose mask names frame 0, which stands in slot 0 with the FSTAT given. -/
def onFrame0 (op : Nat) (st : TWord) (fields : List (Nat × W64)) (x : Slot := { st := .running }) : State := packet op 1 fields x (framed0 st frame0)
theorem wit_loopRefused : dSelector (packet 0x20 1 [(0, 0)]) .c 0 = none ∧ dRefusal (onFrame0 0x20 (int 0) [(0, 0)]) .c 0 = some 2 ∧
    dOp (onFrame0 0x20 (int 0) [(0, 0x2000000)]) .c 0 = 2 ∧ dSelector (onFrame0 0x20 (int 0) [(0, 0x2000000)]) .c 0 = none ∧
    dRefusal (onFrame0 0x20 (int 0) [(0, 0x2000000)]) .c 0 = none := by decide +kernel
theorem wit_loopStartStop : [0x21, 0x22].all (fun op => let s := onFrame0 op (int 0) [(0, 1)]
    starting s .c 0 op && maskFrames s .c 0 == [0] && (getFrame s 0).isSome && !held s (.frame 0) && fsState s 0 0 == 0 && !actsLeft s (isStartOf .c 0)) = true ∧
    (let s := onFrame0 0x22 (int 1) [(0, 1)]
     starting s .c 0 0x22 && frameState s 0 == 1) = true ∧ frameState (onFrame0 0x21 (int 2) [(0, 1)]) 0 = 2 ∧
    maskFrames (packet 0x21 1 [(1, 1)]) .c 0 = [64] ∧ inPhase (onFrame0 0x21 (int 1) [(0, 1)] { st := .running, phase := 1, aux := [1, 0] }) .c 0 0x21 1 = true ∧
    inPhase (onFrame0 0x22 (int 0) [(0, 1)] { st := .running, phase := 1, aux := [0] }) .c 0 0x22 1 = true := by decide +kernel
theorem test_loopStart : gives (execLoopStart .c 0 (onFrame0 0x21 (int 0) [(0, 1)])) (fun t => (getWheel t 0).acts == [.start 0 0 .c 0]) = true := by decide +kernel
theorem wit_loopParams : [0x23, 0x24].all (fun op => let s := onFrame0 op (int 0) [(0, 0), (1, 0x8000000000000), (2, 5)]
    starting s .c 0 op && dFrame s .c 0 == 0 && fieldOr s .c 0 0 0 == 0 && fieldOr s .c 0 1 0 == BitVec.ofNat 64 (2 ^ 51) && !held s (.frame 0) &&
    !heldForGet s 0 frame0 && canApply s 0) = true := by decide +kernel
theorem wit_migrate : [(0, 5, 0), (1, 16, 0), (0, 0, 64)].all (fun p : W64 × W64 × W64 => starting (onFrame0 0x25 (int 0) [(0, p.1), (1, p.2.1), (2, p.2.2)]) .c 0 0x25) = true ∧
    (let s := onFrame0 0x25 (int 0) [(0, 0), (1, 0), (2, 60)] { st := .running, phase := 1, aux := [0, 0, 0, 60] }
     inPhase s .c 0 0x25 1 && wheelReady s 60 && !linesBad s frame0 15 && getFrame s 0 == some frame0) = true ∧
    inPhase (onFrame0 0x25 (int 0) [] { st := .running, phase := 2, aux := [0, 0, 0, 0] }) .c 0 0x25 2 = true := by decide +kernel

theorem wit_twinCommands : (let s := packet 0x30 1 [(0, 1)]
    starting s .c 0 0x30 && !held s .millrace && !mirroring s && !laneUp s 0 && !laneUp s 1 && selF s .c 0 0 0 1 == 1) = true ∧
    (let s := packet 0x30 1 [(0, 0)] { st := .running } { State.reset with twin := { role := .held } }
     starting s .c 0 0x30 && s.twin.role == .held && selF s .c 0 0 0 1 == 0) = true ∧
    [(0, 1), (0, 0), (1, 0)].all (fun p : W64 × BitVec 24 => let s := packet 0x31 1 [(0, p.1)] { st := .running } (linked .leader { cfg := 0x255_3C4_40_20_000001, drvsel := p.2 })
      starting s .c 0 0x31 && !held s .millrace && mirroring s && s.twin.chk.isNone && s.twin.joinAt.isNone && fieldOr s .c 0 0 0 == p.1 &&
      s.twin.drvsel &&& twGroups s == p.2) = true ∧
    held (packet 0x31 1 [] { st := .running, holds := [.millrace] }) .millrace = true := by decide +kernel
theorem wit_ringCommands : [(0, 0), (1, 0x3FFFFE), (2, 0x3FFFFE)].all (fun p : W64 × W64 => let s := packet 0x40 1 [(0, 4), (1, p.2), (2, p.1)] { st := .running } { State.reset with capsUnits := 0x3F90 }
      starting s .c 0 0x40 && hasRing s && !held s .ring && !ringJoined s && !laneUp s 2 && !laneUp s 3 && decide ((fieldOr s .c 0 2 0).toNat ≤ 1024)) = true ∧
    (let s := packet 0x41 1 [(0, 7), (1, 5), (2, 100)] { st := .running } (member)
     starting s .c 0 0x41 && ringJoined s && s.ring.lastPost.isNone && decide (s.ring_time.ns.toNat < 2 ^ 63)) = true ∧ hasRing State.reset = false := by decide +kernel
def passed : TestResult := ⟨false, false, false, false, false, 0, false, false, false, 0, 5⟩
theorem wit_selftest : [(0, 0), (0, 15), (1, 0), (1, 15)].all (fun p : W64 × W64 => let s := packet 0x50 1 [(0, p.1), (1, p.2)] { st := .running } { State.reset with mem := { State.reset.mem with bankpwr := 0 } }
    starting s .s 0 0x50 && selF s .s 0 0 0 1 == p.1.toNat && selF s .s 0 1 0 4 == p.2.toNat && !heldMill s p.2.toNat && !held s (.bank p.2.toNat) && !held s .spare &&
      s.spare.st == .idle && bankOn s p.2.toNat && bankOn s 16 && !s.svc.spfail) = true ∧ nMills { State.reset with capsUnits := 0x3088 } = 8 ∧
    [(12, SpareSt.subst), (13, .idle)].all (fun p : Nat × SpareSt => let s := packet 0x50 1 [(0, 1)] { st := .running, phase := p.1, aux := [3] } { State.reset with spare := { State.reset.spare with st := p.2, isol := true, bank := 3 } }
      inPhase s .s 0 0x50 p.1 && s.spare.st == p.2 && auxAt s .s 0 0 == 3) = true ∧
    (let s := packet 0x50 1 [] { st := .running, phase := 3, aux := [15, 15, 0, 0, 0, 0] }
     inPhase s .s 0 0x50 3 && (getSlot s .s 0).aux == [15, 15, 0, 0, 0, 0]) = true := by decide +kernel
theorem wit_calibrate : [[(0, 0)], [(0, 95), (1, 0x123)], [(0, 96)], [(0, 0), (1, 0x123)]].all (fun f : List (Nat × W64) => let s := packet 0x51 1 f
    starting s .s 0 0x51 && s.calibs.isEmpty && s.readback.isNone && !(getSlot s .s 0).stop) = true ∧
    (let s := { packet 0x51 1 [] { st := .running, phase := 1 } with calibs := [⟨3, 0, true, 1, []⟩] }
     running s && !s.rbRetry && s.readback.isNone) = true ∧ carried (packet 0x51 0 [(0, 0)]) .s 0 1 = false ∧
    (let s := { packet 0x51 1 [] { st := .running, phase := 1 } with calibs := [⟨3, 0, false, 1, []⟩], readback := some (rbWord State.reset 3) }
     running s && !leatHeld s 0 && rbLeat (rbWord s 3) == 0 && rbWeir (rbWord s 3) == 3 && bitOf (0x41234 : W32) 18 && !bitOf (0x41234 : W32) 16) = true := by decide +kernel
theorem test_calibrated : gives (execLeatWord 0 0x41234 { packet 0x51 1 [] { st := .running, phase := 1 } with calibs := [⟨3, 0, false, 1, []⟩], readback := some (rbWord State.reset 3) }) (fun t =>
    (getSlot t .s 0).reply.map (·.results) == some [0x1234, 0x1234, 0x1234, 1, 0]) = true := by decide +kernel
theorem wit_resetCommands : [(0x60, 15), (0x60, 0), (0x61, 63), (0x61, 0)].all (fun p : Nat × W64 => [0, 1].all fun f : W64 => let s := onFrame0 p.1 (int 1) [(0, p.2), (1, f)]
      starting s .s 0 p.1 && !heldMill s 0 && !heldWheel s 63 && frameState s 0 == 1 && framesOn s [0] == [0] && drained (getWheel s 0)) = true ∧
    inPhase (packet 0x61 1 [] { st := .running, phase := 1 }) .s 0 0x61 1 = true ∧ drained { sbuf := [⟨0, [], false⟩] } = false ∧
    (getWheel { State.reset with wheels := [(0, { draining := true })] } 0).draining = true := by decide +kernel

/-! ### Feedback, weirs and sluices -/

/-- Feedback channel 0 with FBCFG as at reset but for bits 0 to 7. -/
def fb (lo : W64) (x : Fb := {}) : State := { State.reset with fbs := [(0, { x with cfg := x.cfg ||| lo })] }
theorem wit_feedbackEdges : [(1, true), (3, true), (1, false), (9, false)].all (fun p : W64 × Bool => let s := fb p.1 { still := p.2, idxseen := !p.2, pos := 100 }
      unitsLive s && !fbHeld s 0 && bitOf (getFb s 0).cfg 0 && (getFb s 0).still == p.2 && fld (getFb s 0).cfg 1 2 == (if p.1 = 3 then 1 else 0) &&
      bitOf (getFb s 0).cfg 3 == (p.1 == 9) && fld (getFb s 0).cpr 0 24 == 0x1000) = true ∧ bitOf (getFb (fb 0) 0).cfg 0 = false ∧
    ((5 : Int) - (5 : W32).toInt) % 0x1000 = 0 ∧ ((-0x800 : Int) - (0x800 : W32).toInt) % 0x1000 = 0 := by decide
theorem test_countEdge : gives (execFeedbackCountEdge 0 true true false true 1000 (fb 1 { still := false })) (fun t => (getFb t 0).pos == 1 && (getFb t 0).speed == 200000) = true := by decide
theorem test_indexEdge : gives (execFeedbackIndexEdge 0 (fb 1 { idxseen := true, pos := 0x1003 })) (fun t => (getFb t 0).slipacc == 3 && (getFb t 0).idxpos == 0x1003) = true := by decide
theorem wit_feedbackRegisters : fbcfgBad State.reset 0 0x0003E8C8_00FFFF00 0x0003E8C8_00FFFF01 = false ∧ fbcfgBad State.reset 0 0x0003E8C8_00FFFF00 0x0003E8C9_00FFFF00 = true ∧
    (0x0003E8C8_00FFFF01 : W64) &&& 0x00FFFFFF_1FFFFFFF = 0x0003E8C8_00FFFF01 ∧ hasEmu State.reset = false ∧ hasEmu (linked) = true ∧
    (0x04001000_01000001 : W64) &&& 0xFFFFFFFF_FFFFFF01 = 0x04001000_01000001 ∧ 0 < fld (0x04001000_01000001 : W64) 8 24 ∧ 2 ≤ fld (0x04001000_01000001 : W64) 56 8 := by decide
theorem test_emulation : gives (execEmuOutputStep 0 { linked with emus := [(0, { cfg := 0x04001000_01000001, moved := 3 })] }) (fun t => (getEmu t 0).outcnt == 1) = true := by decide
theorem wit_weirs : running State.reset = true ∧ unitsLive State.reset = true ∧ (getWeir State.reset 0).lat = true ∧ (getWeir State.reset 0).codeok = false ∧
    calibrating State.reset 0 = false ∧ calibrating (packet 0x51 1 [] { st := .running, holds := [.weir 0] }) 0 = true ∧
    (getWeir { State.reset with weirs := [(0, { lat := false, codeok := true })] } 0).codeok = true := by decide
theorem wit_sluices : [(true, true), (true, false), (false, true), (false, false)].all (fun p : Bool × Bool =>
    let s := { State.reset with sluices := [(23, { arm := p.1 })], weirs := [(0, { cfg := 0x8000000000, lat := p.2 })] }
    (getSluice s 23).arm == p.1 && !(getSluice s 23).st && (hasWeir s 0 && bitOf (getWeir s 0).cfg 39 && (getWeir s 0).lat) == p.2) = true := by decide
theorem test_sluiceTrip : gives (execSluiceTrip 0 { State.reset with weirs := [(7, { cfg := 0x10000 })] }) (fun t => (getSluice t 0).st && (getSluice t 0).cause == 7) = true := by decide

/-! ### Reset, clocks, the Miller and debug -/

/-- A reset in the phase `p`, of the level and source given. -/
def inReset (p : RstPhase) (l : List RstReq := []) : State := { State.reset with rst := { State.reset.rst with phase := p, reqs := l } }
theorem wit_resetSources : State.reset.rst.porLow = false ∧ State.reset.rst.off = false ∧ (inReset (.assert 2)).rst.phase = .assert 2 ∧ (inReset .storm).rst.phase = .storm ∧
    State.reset.rst.wdEn = false ∧ fld (0x20F : BitVec 11) 3 6 = 1 ∧ chipMills State.reset = 16 ∧ bitOf (0x200 : BitVec 11) 9 = true := by decide
theorem test_watchdog : gives (execWatchdogTimeout { State.reset with rst := { State.reset.rst with wdEn := true } }) (fun t => t.rst.reqs == [⟨4, 2, 0, 0⟩]) = true := by decide
theorem wit_clockWindows : watched State.reset 0 = true ∧ windowOpen State.reset 0 = true ∧ inLimits State.reset 0 1600 = true ∧ inLimits State.reset 0 1700 = false ∧
    inLimits State.reset 64 100 = true ∧ refDerived 0 = true ∧ (getClk State.reset 58).stable = true ∧
    unlocked { State.reset with rst := { State.reset.rst with clk := [(0, { gated := true })] } } 0 = true ∧
    lineBusy State.reset 3 = false ∧ dbgOn State.reset = true ∧ dbgOn (clkHeld 57 State.reset) = false := by decide
theorem wit_complexReset : [2, 3, 4].all (fun l => let s := inReset .run [⟨3, l, 0, 0⟩]
      s.rst.reqs == [⟨3, l, 0, 0⟩] && s.rst.phase == .run && !s.rst.retention && fld (tget 0 s.rst.bkup 12) 0 4 == 0 && !peerCovers s && !s.svc.mrun &&
      (runningSlots s .s).isEmpty && !inputLow s) = true ∧
    senseDue { inReset (.release 4) with rst := { (inReset (.release 4)).rst with fused := false } } = true ∧ mayRelease (inReset (.release 2)) = true ∧
    coreReady (inReset (.release 2)) = true ∧ coreReady (clkHeld 16 (inReset (.release 2))) = false ∧ mayRelease (inReset (.assert 2)) = false := by decide +kernel
theorem test_l2 : gives (execResetAssertion (inReset .run [⟨3, 2, 0, 0⟩])) (fun t => t.rst.phase == .release 2 && t.rst.hold) = true := by decide +kernel
theorem test_resetComplete : gives (execResetComplete (inReset (.release 2))) (fun t => t.rst.phase == .run && !(getWheel t 0).held) = true := by decide +kernel
theorem wit_localReset : [(0, 63), (1, 15)].all (fun p : Nat × Nat => let s := inReset .run [⟨5, p.1, p.2, 0⟩]
      running s && (runningSlots s .c).isEmpty && !peerCovers s && !s.svc.mrun) = true ∧ watched State.reset 0 = true ∧ watched State.reset 57 = false ∧
    isEdge 41 = true ∧ isEdge 54 = false ∧ retVal { State.reset with retained := { cells := [(0x703, int 1)] } } 0x703 = 1 := by decide
theorem wit_sensors : sampled State.reset 0 7 = true ∧ sampled State.reset 1 3 = true ∧ sampled State.reset 1 4 = false ∧ retVal State.reset 0x720 = 0 ∧
    millerLive State.reset = true ∧ State.reset.miller.rebuild = true ∧ State.reset.miller.histDone = 0 ∧ ((0x03E80348 : W64).setWidth 16).toInt = 0x348 := by decide
theorem test_sensor : gives (execSensorSample 0 0 0x349 { State.reset with miller := { sensors := [(0, { nHi := 1, valid := true })] } }) (fun t => (tget {} t.miller.sensors 0).hi) = true := by decide
theorem test_logMirror : gives (execLogMirrorWrite (logEntry State.reset 1 0 0 0 9)) (fun t => retVal t 0x721 == 1) = true := by decide +kernel
theorem wit_miller : portLive State.reset = true ∧ portLive { State.reset with rst := { State.reset.rst with retention := true } } = true ∧
    State.reset.miller.busy = false ∧ anyFrameLive State.reset = false ∧ anyFrameLive (framed0 (int 1) frame0) = true ∧
    bootOrder { State.reset with miller := { bootA := { valid := true, kept := true }, boot := 1 } } ≠ [] ∧ newestSpare State.reset = none ∧ bankOn State.reset 0 = true := by decide +kernel
theorem test_retention : gives (execEnterRetention State.reset) (fun t => t.rst.retention && t.miller.retrdy) = true := by decide +kernel
theorem test_supplyRemoval : gives (execSupplyRemoval State.reset) (fun t => t.rst.off && t.capsId == 0) = true := by decide +kernel
theorem wit_boot : (let s := { State.reset with miller := { bootA := { valid := true, kept := true, length := 2 }, boot := 1 } }
      running s && s.rst.vps && s.miller.boot == 1 && (bootOrder s).length == 1) = true ∧
    (let s := { State.reset with miller := { State.reset.miller with boot := 1 } }
     decide ((bootOrder s).length < s.miller.boot) && running s) = true ∧
    running { State.reset with miller := { State.reset.miller with busy := true } } = true := by decide
theorem wit_reapply : (let s := { State.reset with miller := { State.reset.miller with reapply := true } }
    running s && s.miller.reapply && newestSpare (rebuildLog s) == none) = true := by decide +kernel
theorem wit_debug : [({} : Wheel), { haltReq := true }, { halted := true, parked := false }, { steal := some (.tdest 0) }].all (fun x =>
    let s := { State.reset with wheels := [(63, x)] }
    running s && decide (63 < nWheels s) && !s.svc.mrun && spadOn s 63 && pinOn s 63 && (getWheel s 63).stall == .none && !peerCovers s) = true ∧
    spadOn { State.reset with mills := [(0, { pstate := 2 })] } 0 = false := by decide
theorem test_step : gives (execDbgStep 0 { State.reset with wheels := [(0, { halted := true, parked := false })] }) (fun t => (getWheel t 0).stepReq) = true := by decide
/-- Mill 15's trace holds one record, of a SAIL on sail 7 at position 2, at place 4095. -/
def traced : State := { State.reset with mills := [(15, { trace := { en := true, rptr := 4095, buf := [(4095, some ⟨1, 2, 7, 3, 9⟩)] } })] }
theorem wit_trace : dbgOn traced = true ∧ running traced = true ∧ 15 < nMills traced ∧ (getMill traced 15).trace.rptr = 4095 ∧
    tget none (getMill traced 15).trace.buf 4095 = some ⟨1, 2, 7, 3, 9⟩ ∧ ¬ 15 < nMills { State.reset with capsUnits := 0x3088 } ∧
    nWheels { State.reset with capsUnits := 0x3088 } ≤ 63 := by decide
theorem test_scanTrace : gives (execMemaccAccess 0 (.scanTrace 15) traced) (fun t => t.dbgData == some (.reg 0x900C1E1)) = true := by decide
theorem test_writeTrace : gives (execMemaccAccess 0 (.writeTrace 15 0x0FFF000000000055) traced)
    (fun t => (getMill t 15).trace.kmask == 0x15 && (getMill t 15).trace.rptr == 0xFFF && !(getMill t 15).trace.stopfull) = true := by decide

/-! ### The whole block -/

theorem wit_queue : (State.reset.pending = [] ∧ ({ State.reset with pending := [.wdkick] }).pending = [.wdkick]) ∧ State.reset.rst.aoAcc = 0 ∧
    ({ State.reset with rst := { State.reset.rst with aoAcc := 124 } }).rst.aoAcc = 124 := by decide
theorem test_tick : gives (step State.reset) (fun t => t.ring_time == ⟨1, 0⟩ && t.rst.aoAcc == 4) = true := by decide
theorem wit_undefinedWord : opLen 0x20 ≠ none ∧ opLen 0 = none := by decide
theorem wit_memWf : MemWf State.reset := by refine ⟨by decide, by decide, by decide, fun w => ⟨rfl, rfl⟩⟩
theorem wit_encode : WellFormed (.litt 0 5 7) = true ∧ encode (.litt 0 5 7) = some [0x3050, 0, 7] ∧ decode 0 0 [0x3050, 0, 7] = some (.litt 0 5 7) := by decide
theorem wit_beginsFf : [false, true].all (fun f => meets (runs (onStack [] { fresh := f, ffNow := [(5, int 9)] }) [0x01]) 0x01 [] fun b =>
    spadRead b 0 (frameAddr 1 61) == some (if f then emptyW else int 9)) && meets (runs (onStack [] { fresh := true, ffNow := [(5, int 9)], fetch := { reload := false } }) [2]) 2 []
      (fun b => (getWheel b 0).ffNow == [(5, int 9)]) = true := by decide
theorem wit_copyTick : (let s := { State.reset with spare := { State.reset.spare with st := .copyin }, mem := { State.reset.mem with bankpwr := 0 } }
    copyGoes s && decide (s.spare.prog < 0x3FFFF) && (bankAskers s s.spare.bank).isEmpty && (ramRead emptyW s.mp 0).isSome) = true ∧
    copyGoes State.reset = false ∧ unitsLive State.reset = true ∧ State.reset.ring.rate = 0 := by decide
theorem wit_begins : canIssue (settle State.reset 0) 0 = false ∧ has (onStack [] { pend := [⟨true, true, false, 0⟩] }) [0x01] [] = true ∧
    (let s := runsAt 0x3FFFF (onStack []) [0x01]
     canIssue (settle s 0) 0 && offered (settle s 0) 0 [0x01] && (placeChk (getWheel (settle s 0) 0) 0x01 1).isNone) = true ∧
    (let s := runs (onStack [] { rpt := { ctl := 1, start := 0 } }) [0x01]
     offered (settle s 0) 0 [0x01] && canIssue (settle s 0) 0) = true := by decide

end Sys2Proof.Tests
end

section
/-! PROOFS. MILLCFG and MILLCTL written (R28, R32): what each write leaves of the registers of the mills. An accepted change
of PSTATE drains the store buffers of the mill's wheels; nothing on that way touches the table of the mills. -/

namespace Sys2Proof.Machine

/-! ### The table of the mills through a drain -/

theorem getMill_congr {s t : State} (h : t.mills = s.mills) (m : Nat) : getMill t m = getMill s m := by
  rw [getMill, h, getMill]

theorem getMill_modMill_ne (s : State) (m k : Nat) (f : Mill → Mill) (h : k ≠ m) :
    getMill (modMill s m f) k = getMill s k := tget_tset_ne _ _ _ _ _ h

@[simp] theorem modWheel_mills (s : State) (w : Nat) (f : Wheel → Wheel) : (modWheel s w f).mills = s.mills := rfl

@[simp] theorem setBlk_mills (s : State) (w : Nat) (b : Blk) : (setBlk s w b).mills = s.mills := rfl

@[simp] theorem spadWrite_mills (s : State) (w a : Nat) (v : TWord) : (spadWrite s w a v).mills = s.mills := rfl

@[simp] theorem failAt_mills (s : State) (w : Nat) (e : Exc) : (failAt s w e).mills = s.mills := rfl

@[simp] theorem blkFinish_mills (s : State) (w : Nat) (hit : Bool) : (blkFinish s w hit).mills = s.mills := rfl

/-- A fold whose step keeps the table of the mills keeps it. -/
theorem foldl_mills {α : Type} (l : List α) (f : State → α → State) (h : ∀ s a, (f s a).mills = s.mills) (s : State) :
    (l.foldl f s).mills = s.mills :=
  List.foldlRecOn (motive := fun t => t.mills = s.mills) l f rfl fun t ht a _ => (h t a).trans ht

@[simp] theorem setEcc_mills (s : State) (q : MemSel) (a : Nat) (e : Ecc) : (setEcc s q a e).mills = s.mills := by
  cases q <;> rfl

@[simp] theorem noteRead_mills (s : State) (q : MemSel) (a : Nat) : (noteRead s q a).mills = s.mills := by
  unfold noteRead
  cases getEcc s q a <;> simp

@[simp] theorem mpWriteUnit_mills (s : State) (a : Nat) (v : TWord) : (mpWriteUnit s a v).mills = s.mills := by
  unfold mpWriteUnit
  split <;> rfl

theorem resumeOp_mills {s : State} {w : Nat} {f : State → Res} (h : ∀ t, (resState (f t)).mills = t.mills) :
    (resumeOp s w f).mills = s.mills := by
  have hf := h (modWheel s w fun x => { x with stall := .none })
  unfold resumeOp
  split
  next heq => simpa [heq] using hf
  next heq => simpa [heq] using hf

/-! #### Block instructions -/

theorem readElem_mills (s : State) (w op : Nat) (d : W64) (a : TWord) :
    (srcState (readElem s w op d a)).mills = s.mills := by
  unfold readElem
  cases placeOf w d (aOff a.val) with
  | spad i => dsimp only; split <;> simp
  | mp i => dsimp only; split <;> rfl
  | host i => rfl
  | guard i => exact noteRead_mills ..

theorem srcOr_mills (s : State) (w op : Nat) (d : W64) (a : TWord) (u : Option TWord) :
    (srcState (srcOr s w op d a u)).mills = s.mills := by
  cases u with
  | none => exact readElem_mills ..
  | some u => rfl

theorem writeElem_mills (s : State) (w : Nat) (d : W64) (b : Blk) (v : TWord) :
    (elemState (writeElem s w d b v)).mills = s.mills := by
  unfold writeElem
  cases placeOf w d (aOff b.dst.val) with
  | spad i => rfl
  | mp i => dsimp only; split <;> rfl
  | host i =>
    dsimp only
    split
    · split <;> rfl
    · rfl
  | guard i => rfl

theorem dotElem_mills (s : State) (w op : Nat) (b : Blk) (u v : TWord) :
    (elemState (dotElem s w op b u v)).mills = s.mills := by
  simp only [dotElem, apply_ite elemState, apply_ite State.mills, elemState_fail, elemState_done, setBlk_mills, ite_self]

theorem doElem_mills (s : State) (w op : Nat) (d2 : W64) (b : Blk) (u v : TWord) :
    (elemState (doElem s w op d2 b u v)).mills = s.mills := by
  simp only [doElem, apply_ite elemState, apply_ite State.mills, elemState_fail, elemState_done, setBlk_mills,
    dotElem_mills, writeElem_mills, ite_self]

theorem elemStep_mills (s : State) (w op : Nat) (d1 d2 : W64) (b : Blk) (u v : Option TWord) :
    (elemState (elemStep s w op d1 d2 b u v)).mills = s.mills := by
  unfold elemStep
  dsimp only
  split
  next => exact writeElem_mills ..
  next =>
    have h1 := srcOr_mills s w op d1 b.src u
    cases h : srcOr s w op d1 b.src u with rw [h] at h1
    | val t x =>
      have h2 := srcOr_mills t w op d2 b.dst v
      dsimp only
      split
      next =>
        cases h : srcOr t w op d2 b.dst v with rw [h] at h2
        | val t' y => exact (doElem_mills ..).trans (h2.trans h1)
        | _ => exact h2.trans h1
      next =>
        split
        next => exact h1
        next => exact (doElem_mills ..).trans h1
    | _ => exact h1

theorem blkSteps_mills (w op : Nat) (d1 d2 : W64) (k : Nat) : ∀ (s : State) (host : Bool) (u v : Option TWord),
    (resState (blkSteps s w op d1 d2 host k u v)).mills = s.mills := by
  induction k with
  | zero =>
    intro s host u v
    unfold blkSteps
    split <;> rfl
  | succ k ih =>
    intro s host u v
    have h := elemStep_mills s w op d1 d2 (getWheel s w).blk u v
    unfold blkSteps
    dsimp only
    split
    next => rfl
    next =>
      cases he : elemStep s w op d1 d2 (getWheel s w).blk u v with rw [he] at h
      | done t hit =>
        cases hit with
        | false => exact (ih ..).trans h
        | true => exact h
      | _ => exact h

@[simp] theorem blkAnswer_mills (s : State) (w : Nat) (host : Bool) (u v : Option TWord) :
    (blkAnswer s w host u v).mills = s.mills := by
  refine resumeOp_mills fun t => ?_
  split
  · rfl
  · exact blkSteps_mills ..

/-! #### The store buffers -/

@[simp] theorem grantStore_mills (s : State) (w : Nat) : (grantStore s w).mills = s.mills := by
  unfold grantStore
  split
  next => rfl
  next => exact foldl_mills _ _ (fun t p => mpWriteUnit_mills ..) s

@[simp] theorem afterDrain_mills (s : State) (w : Nat) : (afterDrain s w).mills = s.mills := by
  unfold afterDrain
  split
  next => rfl
  next => exact resumeOp_mills fun t => rfl
  next => exact blkAnswer_mills ..
  next => rfl

@[simp] theorem drainNow_mills (k : Nat) (s : State) (w : Nat) : (drainNow k s w).mills = s.mills := by
  induction k generalizing s with
  | zero => rfl
  | succ k ih =>
    unfold drainNow
    split
    next => rfl
    next => rw [ih, afterDrain_mills, modWheel_mills]; split <;> simp

/-! ### HASLOOPS -/

theorem mem_frameKeys {s : State} {f : Nat} {d : FrameDef} (hf : f < 512) (h : getFrame s f = some d) :
    f ∈ frameKeys s := by
  refine tkeys_of_tget (d := none) hf ?_
  rw [show tget none s.frames f = some d from h]
  exact Option.some_ne_none d

/-- HASLOOPS is 1 exactly where a frame below 512 is on one of the mill's wheels (R31). -/
theorem hasLoops_iff (s : State) (m : Nat) :
    hasLoops s m = true ↔ ∃ f < 512, ∃ d, getFrame s f = some d ∧ millOf d.wheel = m := by
  simp only [hasLoops, Bool.not_eq_true', List.isEmpty_eq_false_iff_exists_mem, millFrames, List.mem_filter]
  constructor
  · rintro ⟨f, hk, hm⟩
    split at hm
    next d hd => exact ⟨f, (mem_tkeys.mp hk).1, d, hd, by simpa using hm⟩
    next => exact absurd hm Bool.false_ne_true
  · rintro ⟨f, hf, d, hd, hm⟩
    exact ⟨f, mem_frameKeys hf hd, by simp [hd, hm]⟩

/-! ### MILLCFG -/

/-- R28: the complex refuses to put `n` into STANDBY. -/
def StandbyRefused (s : State) (n : Nat) : Prop :=
  n > 16 ∨ (n < 16 ∧ nMills s ≤ n) ∨ (n < 16 ∧ hasLoops s n = true) ∨ s.occupied = true

theorem exec_millcfgWrite (v : W64) (be : BitVec 8) (s : State) (hr : running s = true) :
    exec (.millcfgWrite v be) s = .next (millcfgWr s v be) := if_pos hr

/-- A full beat that leaves MILLCFG.ERR alone, refused. -/
theorem millcfgWr_refused {s : State} {v : W64} (hv : bitOf v 9 = false) (h : StandbyRefused s (fld v 0 5)) :
    millcfgWr s v 0xFF = { s with millcfgErr := true } := by
  simp only [millcfgWr, hv, Bool.and_false, Bool.false_eq_true, if_false]
  exact if_pos h

/-- A full beat that leaves MILLCFG.ERR alone, accepted. -/
theorem millcfgWr_accepted {s : State} {v : W64} (hv : bitOf v 9 = false) (h : ¬ StandbyRefused s (fld v 0 5)) :
    millcfgWr s v 0xFF = { s with standby := fld v 0 5 } := by
  simp only [millcfgWr, hv, Bool.and_false, Bool.false_eq_true, if_false]
  exact if_neg h

/-- Settles O30: the four refusals of R28 are the model's, with HASLOOPS read off the frames. -/
theorem standbyWrite : Obligations.StandbyWrite := by
  rintro s v n hr rfl hv
  rw [exec_millcfgWrite _ _ _ hr]
  constructor
  · intro h
    rw [millcfgWr_refused hv]
    rwa [StandbyRefused, hasLoops_iff]
  · intro hn hocc
    rw [millcfgWr_accepted hv]
    rw [StandbyRefused, hasLoops_iff, hocc]
    rintro (h16 | ⟨h16, habs⟩ | ⟨h16, f, hf, d, hd, hm⟩ | h)
    · omega
    · omega
    · obtain h | ⟨-, -, hfree⟩ := hn
      · omega
      · exact hfree f hf d hd hm
    · exact Bool.false_ne_true h

/-! ### MILLCTL -/

@[simp] theorem getMill_modClk (s : State) (d m : Nat) (f : ClkMon → ClkMon) : getMill (modClk s d f) m = getMill s m := rfl

@[simp] theorem getMill_gateMill (s : State) (m : Nat) : getMill (gateMill s m) m = { getMill s m with lock := false } := by
  simp [gateMill]

@[simp] theorem clearCstore_err (s : State) (m : Nat) : (getMill (clearCstore s m) m).err = (getMill s m).err := by
  simp [clearCstore]

/-- A change of FREQ and PSTATE sets both fields and leaves MILLCTLm.ERR. -/
theorem getMill_millSet (s : State) (m f p : Nat) : (getMill (millSet s m f p) m).freq = f ∧
    (getMill (millSet s m f p) m).pstate = p ∧ (getMill (millSet s m f p) m).err = (getMill s m).err := by
  unfold millSet
  extract_lets x s1 s2
  have h1 : s1.mills = s.mills := by
    unfold s1
    split
    · exact foldl_mills _ _ (fun t w => drainNow_mills ..) s
    · rfl
  have h2 : (getMill s2 m).err = (getMill s m).err := by
    rw [← getMill_congr h1 m]
    unfold s2
    split
    · exact clearCstore_err ..
    · rfl
  simp [h2]

theorem exec_millctlWrite (m : MillId) (v : W64) (be : BitVec 8) (s : State) (hr : running s = true) :
    exec (.millctlWrite m v be) s = .next (millctlWr s m v be) := if_pos hr

/-- A full beat that leaves MILLCTLm.ERR alone, on a mill that is present (R32). -/
theorem millctlWr_eq {s : State} {m : Nat} {v : W64} (hm : m < nMills s) (hv : bitOf v 15 = false) :
    millctlWr s m v 0xFF =
      if fld v 0 4 = (getMill s m).freq ∧ fld v 4 2 = (getMill s m).pstate then s
      else if hasLoops s m = true ∨ fld v 0 4 > 12 ∨ fld v 4 2 = 3 then modMill s m fun x => { x with err := true }
      else millSet s m (fld v 0 4) (fld v 4 2) := by
  simp only [millctlWr, if_pos hm, hv, Bool.and_false, Bool.false_eq_true, if_false]
  rfl

/-- Settles O31: the three cases of R32, of which the accepted change keeps ERR because the drain of the mill's store buffers
leaves the table of the mills alone. -/
theorem millctlRefusals : Obligations.MillctlRefusals := by
  rintro s m v f p hr hm rfl rfl hv
  rw [exec_millctlWrite _ _ _ _ hr, millctlWr_eq hm hv]
  refine ⟨fun hf hp => by rw [if_pos ⟨hf, hp⟩], fun hne => ?_⟩
  rw [if_neg (by tauto)]
  constructor
  · intro hrefused
    rw [if_pos hrefused]
    exact ⟨_, rfl, rfl, getMill_modMill .., fun k hk => getMill_modMill_ne _ _ _ _ hk⟩
  · intro hloops hfreq hpstate
    rw [if_neg (by simp [hloops, hfreq, hpstate])]
    exact ⟨_, rfl, getMill_millSet ..⟩

end Sys2Proof.Machine
end

section
/-! PROOFS. TWIN_STATUS (R379): the completion of a packet (R416, R425) changes the slot and the registers of its
own hopper; the event that NOTIFY asks for reaches the event flags of the wheels alone (R291). -/

namespace Sys2Proof.Machine

/-! ### Events -/

/-- Between the two states only the event flags of wheels differ. -/
def OnlyEvents (s t : State) : Prop :=
  t = { s with wheels := t.wheels } ∧ ∀ w, getWheel t w = { getWheel s w with events := (getWheel t w).events }

theorem OnlyEvents.refl (s : State) : OnlyEvents s s := ⟨rfl, fun _ => rfl⟩

theorem OnlyEvents.trans {s t u : State} (h : OnlyEvents s t) (h' : OnlyEvents t u) : OnlyEvents s u := by
  obtain ⟨hs, hw⟩ := h
  obtain ⟨hs', hw'⟩ := h'
  exact ⟨by rw [hs', hs], fun w => by rw [hw' w, hw w]⟩

theorem OnlyEvents.getHop_eq {s t : State} (h : OnlyEvents s t) (k : HopId) : getHop t k = getHop s k := by
  rw [h.1]
  cases k <;> rfl

theorem raiseEv_onlyEvents (s : State) (w e info : Nat) : OnlyEvents s (raiseEv s w e info) := by
  refine ⟨rfl, fun v => ?_⟩
  unfold raiseEv
  by_cases hv : v = w
  · subst hv
    rw [getWheel_modWheel]
    split <;> rfl
  · rw [getWheel_modWheel_ne _ _ _ _ hv]

theorem raiseRouted_onlyEvents (s : State) (e info : Nat) : OnlyEvents s (raiseRouted s e info) :=
  List.foldlRecOn (motive := OnlyEvents s) _ _ (.refl s) fun _ ht _ _ => ht.trans (raiseEv_onlyEvents ..)

/-! ### Completion -/

/-- The reply of a packet that completes with `status` (R425): a success with clamp entries is answered 1 (R421). -/
def replyOf (s : State) (h : HopId) (n status detail : Nat) (results : List W64) : Reply :=
  ⟨BitVec.ofNat 8 (pktOp s h n), pktTag s h n, if status = 0 ∧ (getSlot s h n).clamps ≠ [] then 1 else status, detail,
   s.ring_time.ns, results, (getSlot s h n).clamps⟩

/-- The slot of a completed packet: the request and its doorbell stay (R416). -/
def doneSlot (x : Slot) (r : Reply) : Slot :=
  { x with st := .done, reply := some r, phase := 0, aux := [], clamps := [], results := [], changed := false,
           committed := false, stop := false, holds := [] }

/-- The hopper after the packet of its slot `n` has completed with reply `r` (R415, R416). -/
def doneHop (x : Hopper) (n : Nat) (r : Reply) : Hopper :=
  { x with slots := tset {} x.slots n (doneSlot (tget {} x.slots n) r), donecnt := (x.donecnt + 1) % 0x100000000,
           lasttag := r.tag, queue := x.queue.filter (· != n) }

/-- A completion changes its hopper and then raises the hopper's event where the packet asks for it. -/
theorem finish_eq (s : State) (h : HopId) (n status detail : Nat) (results : List W64) :
    finish s h n status detail results =
      let r := replyOf s h n status detail results
      let s1 := modHop s h fun x => doneHop x n r
      if pktNotify s h n then raiseRouted s1 (hopEvent h) (pktOp s h n + 0x100 * r.status) else s1 := by
  cases h <;> rfl

theorem finish_quiet {s : State} {h : HopId} {n : Nat} (hq : pktNotify s h n = false) (status detail : Nat)
    (results : List W64) : finish s h n status detail results =
      modHop s h fun x => doneHop x n (replyOf s h n status detail results) := by
  simp [finish_eq, hq]

/-- Beyond its hopper a completion changes event flags of wheels only. -/
theorem finish_onlyEvents (s : State) (h : HopId) (n status detail : Nat) (results : List W64) :
    OnlyEvents (modHop s h fun x => doneHop x n (replyOf s h n status detail results))
      (finish s h n status detail results) := by
  rw [finish_eq]
  dsimp only
  split
  · exact raiseRouted_onlyEvents ..
  · exact .refl _

theorem getHop_finish (s : State) (h : HopId) (n status detail : Nat) (results : List W64) :
    getHop (finish s h n status detail results) h = doneHop (getHop s h) n (replyOf s h n status detail results) := by
  rw [(finish_onlyEvents ..).getHop_eq, getHop_modHop]

theorem getHop_finish_ne (s : State) {h k : HopId} (hk : k ≠ h) (n status detail : Nat) (results : List W64) :
    getHop (finish s h n status detail results) k = getHop s k := by
  rw [(finish_onlyEvents ..).getHop_eq]
  cases h <;> cases k <;> trivial

theorem getSlot_finish (s : State) (h : HopId) (n status detail : Nat) (results : List W64) :
    getSlot (finish s h n status detail results) h n =
      doneSlot (getSlot s h n) (replyOf s h n status detail results) := by
  rw [getSlot, getHop_finish, doneHop, tget_tset_same, getSlot]

theorem getSlot_finish_ne (s : State) (h : HopId) {n m : Nat} (hm : m ≠ n) (status detail : Nat) (results : List W64) :
    getSlot (finish s h n status detail results) h m = getSlot s h m := by
  rw [getSlot, getHop_finish, doneHop, tget_tset_ne _ _ _ _ _ hm, getSlot]

theorem wheels_modHop (s : State) (h : HopId) (f : Hopper → Hopper) : (modHop s h f).wheels = s.wheels := by
  cases h <;> rfl

theorem getWheel_modHop (s : State) (h : HopId) (f : Hopper → Hopper) (w : Nat) :
    getWheel (modHop s h f) w = getWheel s w := by
  rw [getWheel, wheels_modHop, getWheel]

/-- What a completion leaves of the complex: all but the hoppers and the event flags of wheels. -/
theorem finish_frame {s t : State} {h : HopId} {n status detail : Nat} {results : List W64}
    (ht : finish s h n status detail results = t) : t = { s with hopC := t.hopC, hopS := t.hopS, wheels := t.wheels } ∧
      ∀ w, getWheel t w = { getWheel s w with events := (getWheel t w).events } := by
  obtain ⟨hs, hw⟩ := ht ▸ finish_onlyEvents s h n status detail results
  refine ⟨?_, fun w => by rw [hw w, getWheel_modHop]⟩
  rw [hs]
  cases h <;> rfl

theorem pktOp_lt (s : State) (h : HopId) (n : Nat) : pktOp s h n < 256 := BitVec.isLt _

/-- A completion answers its packet; its status is that of the reply. -/
theorem finish_answered (s : State) (h : HopId) (n status detail : Nat) (results : List W64) :
    Answered s (finish s h n status detail results) h n (replyOf s h n status detail results).status detail results
      (getSlot s h n).clamps := by
  rw [Answered, getSlot_finish, getHop_finish]
  refine ⟨rfl, rfl, rfl, ⟨_, rfl, ?_, rfl, rfl, rfl, rfl, rfl, rfl⟩, rfl, rfl, rfl,
    fun m hm => getSlot_finish_ne _ _ hm _ _ _⟩
  exact Nat.mod_eq_of_lt (pktOp_lt s h n)

/-! ### TWIN_STATUS -/

theorem exec_twinStatus {s : State} {h : HopId} {n : SlotId} (hs : starting s h n 0x32 = true) :
    exec (.twinStatus h n) s =
      .next (finish s h n 0 0 ([twinstat s, s.twin.take, twindiv s] ++ laneRegs s 0 ++ laneRegs s 1)) := if_pos hs

/-- Settles O41: TWIN_STATUS is the completion of its packet with these registers, and a completion leaves the rest. -/
theorem twinStatusReports : Obligations.TwinStatusReports := by
  intro s h n hs hc
  rw [exec_twinStatus hs]
  generalize [twinstat s, s.twin.take, twindiv s] ++ laneRegs s 0 ++ laneRegs s 1 = results
  have hans := finish_answered s h n 0 0 results
  rw [show (replyOf s h n 0 0 results).status = 0 by simp [replyOf, hc], hc] at hans
  obtain ⟨hframe, hwheels⟩ := finish_frame (rfl : finish s h n 0 0 results = _)
  refine ⟨_, rfl, hans, hframe, fun hq => ?_, hwheels, fun k m hk => ?_⟩
  · rw [finish_quiet hq, wheels_modHop]
  · rw [getSlot, getSlot, getHop_finish_ne s hk]
    exact ⟨rfl, rfl⟩

end Sys2Proof.Machine
end
